-- ==== Sys2Proof/Word.lean ====
section
/-! DEFINITION. The word types of the part (R5, R18, R62): a byte, a 32-bit register word, a 64-bit pair and
a 128-bit instruction word. -/

namespace Sys2Proof

/-- A byte of memory. -/
abbrev Byte := BitVec 8
/-- A register (R18). -/
abbrev Word := BitVec 32
/-- A 64-bit operand, address or counter (R19). -/
abbrev DWord := BitVec 64
/-- An instruction word (R62). -/
abbrev IWord := BitVec 128

end Sys2Proof
end

