-- ==== Sys2Proof/Machine/Number.lean ====
section
/-! DEFINITION. Values (R24 to R37), decoding and rounding (R46, R47, R56), and the sums and products that the vector
and matrix instructions are defined by (R48, R53, R54). -/

namespace Sys2Proof.Machine

/-! ### The flags of R43, as bits of the status word -/

def fNV : Word := 1
def fDZ : Word := 2
def fOF : Word := 4
def fUF : Word := 8
def fNX : Word := 16
def fINVCODE : Word := 32
def fOUTOVF : Word := 64
def fIDZ : Word := 128

/-- An exact value: NaN, an infinity, or (−1)^neg × n ÷ d with d not 0. A zero keeps its sign. -/
inductive Val where
  | nan
  | inf (neg : Bool)
  | fin (neg : Bool) (n d : Nat)
  deriving DecidableEq, Repr, Inhabited

namespace Val

def zero (neg : Bool) : Val := .fin neg 0 1
/-- (−1)^neg × m × 2^e. -/
def dyadic (neg : Bool) (m : Nat) (e : Int) : Val :=
  if 0 ≤ e then .fin neg (m * 2 ^ e.toNat) 1 else .fin neg m (2 ^ (-e).toNat)
def ofInt (i : Int) : Val := .fin (decide (i < 0)) i.natAbs 1
def isNan (v : Val) : Bool := v == .nan
def isInf : Val → Bool
  | .inf _ => true
  | _ => false
def isZero : Val → Bool
  | .fin _ n _ => n == 0
  | _ => false
def neg : Val → Bool
  | .nan => false
  | .inf s => s
  | .fin s _ _ => s
def abs : Val → Val
  | .nan => .nan
  | .inf _ => .inf false
  | .fin _ n d => .fin false n d
def negate : Val → Val
  | .nan => .nan
  | .inf s => .inf (!s)
  | .fin s n d => .fin (!s) n d

/-- The signed numerator. -/
def num (s : Bool) (n : Nat) : Int := if s then -(n : Int) else n

/-- x < y, for values that are not NaN; −0 and +0 are equal. -/
def lt : Val → Val → Bool
  | .nan, _ => false
  | _, .nan => false
  | .inf a, .inf b => a && !b
  | .inf a, .fin _ _ _ => a
  | .fin _ _ _, .inf b => !b
  | .fin s n d, .fin t m e => decide (num s n * e < num t m * d)

/-- x = y, for values that are not NaN. -/
def eq : Val → Val → Bool
  | .nan, _ => false
  | _, .nan => false
  | .inf a, .inf b => a == b
  | .fin s n d, .fin t m e => decide (num s n * e = num t m * d)
  | _, _ => false

/-- The numerator and denominator of a sum of two fractions. -/
def sumParts (a : Int) (d : Nat) (b : Int) (e : Nat) : Int × Nat :=
  if d = e then (a + b, d)
  else if e % d = 0 then (a * (e / d : Nat) + b, e)
  else if d % e = 0 then (a + b * (d / e : Nat), d)
  else (a * e + b * d, d * e)

/-- The product (R48, R54): ∞ × 0 is invalid. The sign is that of the factors, also where a factor is an integer 0, as in DOT of
mixed formats (R111; DESIGN CHOICE, log 85). -/
def mul : Val → Val → Val × Word
  | .nan, _ => (.nan, 0)
  | _, .nan => (.nan, 0)
  | .inf a, .inf b => (.inf (a != b), 0)
  | .inf a, .fin t m _ => if m = 0 then (.nan, fNV) else (.inf (a != t), 0)
  | .fin s n _, .inf b => if n = 0 then (.nan, fNV) else (.inf (s != b), 0)
  | .fin s n d, .fin t m e => (.fin (s != t) (n * m) (d * e), 0)

/-- The sum (R48): an exact zero sum of opposite signs is +0, except under rdn. -/
def add (rdn : Bool) : Val → Val → Val × Word
  | .nan, _ => (.nan, 0)
  | _, .nan => (.nan, 0)
  | .inf a, .inf b => if a = b then (.inf a, 0) else (.nan, fNV)
  | .inf a, _ => (.inf a, 0)
  | _, .inf b => (.inf b, 0)
  | .fin s n d, .fin t m e =>
    let (x, y) := sumParts (num s n) d (num t m) e
    if x = 0 then (.fin (if s = t then s else rdn) 0 1, 0) else (.fin (decide (x < 0)) x.natAbs y, 0)

/-- The quotient (R106, R117). -/
def div : Val → Val → Val × Word
  | .nan, _ => (.nan, 0)
  | _, .nan => (.nan, 0)
  | .inf _, .inf _ => (.nan, fNV)
  | .inf a, .fin t _ _ => (.inf (a != t), 0)
  | .fin s _ _, .inf b => (.zero (s != b), 0)
  | .fin s n d, .fin t m e =>
    if m = 0 then (if n = 0 then (.nan, fNV) else (.inf (s != t), fDZ)) else (.fin (s != t) (n * e) (d * m), 0)

/-- v × 2^e. -/
def scale (v : Val) (e : Int) : Val :=
  match v with
  | .fin s n d => if 0 ≤ e then .fin s (n * 2 ^ e.toNat) d else .fin s n (d * 2 ^ (-e).toNat)
  | v => v

end Val

/-- ExactSum of terms whose products had been invalid or not (R54): the value and the flag. -/
def exactSum (terms : List Val) (invalid : Bool) : Val × Word :=
  let infs := terms.filter Val.isInf
  if terms.any Val.isNan && !invalid then (.nan, 0)
  else if invalid then (.nan, fNV)
  else if infs.any Val.neg && infs.any (fun v => !v.neg) then (.nan, fNV)
  else match infs with
    | v :: _ => (v, 0)
    | [] =>
      let (x, y) := terms.foldl (fun (acc : Int × Nat) v => match v with
        | .fin s n d => Val.sumParts acc.1 acc.2 (Val.num s n) d
        | _ => acc) (0, 1)
      if x = 0 then (.zero (!terms.isEmpty && terms.all Val.neg), 0) else (.fin (decide (x < 0)) x.natAbs y, 0)

/-- ExactSum of an addend and of products: a NaN operand anywhere gives NaN without a flag before ∞ × 0 counts
(R54). -/
def sumOfProducts (first : List Val) (products : List (Val × Val)) : Val × Word :=
  if first.any Val.isNan || products.any (fun p => p.1.isNan || p.2.isNan) then (.nan, 0)
  else
    let ps := products.map fun p => p.1.mul p.2
    exactSum (first ++ ps.map (·.1)) (ps.any fun p => p.2 != 0)

/-! ### Formats (R24 to R34) -/

/-- A binary floating-point format (R28): field widths, bias, whether it has infinities, the canonical NaN, and the
code of the largest finite value. -/
structure FFmt where
  eb   : Nat
  mb   : Nat
  bias : Nat
  inf  : Bool
  nan  : Option Nat
  max  : Nat
  deriving DecidableEq, Repr

def ffmt (f : Nat) : Option FFmt :=
  match f with
  | 0 => some ⟨8, 23, 127, true, some 0x7FC00000, 0x7F7FFFFF⟩
  | 1 => some ⟨8, 7, 127, true, some 0x7FC0, 0x7F7F⟩
  | 2 => some ⟨5, 10, 15, true, some 0x7E00, 0x7BFF⟩
  | 3 => some ⟨4, 3, 7, false, some 0x7F, 0x7E⟩
  | 4 => some ⟨5, 2, 15, true, some 0x7E, 0x7B⟩
  | 5 => some ⟨3, 2, 3, false, none, 0x1F⟩
  | 6 => some ⟨2, 3, 1, false, none, 0x1F⟩
  | 7 => some ⟨2, 1, 1, false, none, 7⟩
  | _ => none

/-- An integer format (R29): whether it is signed, and its width. -/
def ifmt (f : Nat) : Option (Bool × Nat) :=
  match f with
  | 8 => some (true, 8) | 9 => some (true, 4) | 10 => some (true, 2) | 11 => some (false, 8) | 12 => some (false, 4)
  | 13 => some (true, 16) | 14 => some (true, 32) | _ => none

/-- A logarithmic format (R32, R33): bits of the sign's place, and eighth steps of one step of L. -/
def lfmt (f : Nat) : Option (Nat × Nat) :=
  match f with
  | 17 => some (5, 2) | 18 => some (7, 1) | _ => none

/-- The format of the elements of a block-scaled or tensor-scaled format (R24). -/
def elemFmt (f : Nat) : Nat :=
  match f with
  | 19 => 3 | 20 => 4 | 21 => 5 | 22 => 6 | 23 => 7 | 24 => 8 | 25 => 9 | 26 => 17 | 27 => 15 | 28 => 7 | 29 => 9
  | 30 => 3 | 31 => 4 | f => f

/-- The width of an element in bits; a tri5 element has none of its own (R24). -/
def elemBits (f : Nat) : Nat :=
  match elemFmt f with
  | 0 | 14 => 32
  | 1 | 2 | 13 => 16
  | 5 | 6 | 17 => 6
  | 7 | 9 | 12 => 4
  | 10 | 15 => 2
  | _ => 8

/-- T8 of R34 as integers of 2^−23. -/
def t8 (f : Nat) : Nat :=
  match f with
  | 0 => 0x800000 | 1 => 0x8B95C2 | 2 => 0x9837F0 | 3 => 0xA5FED7 | 4 => 0xB504F3 | 5 => 0xC5672A | 6 => 0xD744FD
  | _ => 0xEAC0C7

/-- The value of a logarithm in eighth steps (R33, R53). -/
def lnsValue (s : Bool) (l8 : Int) : Val := .dyadic s (t8 (l8.emod 8).toNat) (l8.ediv 8 - 23)

/-- The sign of an LNS code, and its logarithm in eighth steps, none for a zero (R32, R33). -/
def lnsParts (f : Nat) (code : Nat) : Bool × Option Int :=
  match lfmt f with
  | some (sb, step) =>
    let l := code % 2 ^ sb
    let li : Int := if l < 2 ^ (sb - 1) then l else (l : Int) - 2 ^ sb
    (code / 2 ^ sb % 2 == 1, if l = 2 ^ (sb - 1) then none else some (li * step))
  | none => (false, none)

/-- LnsProduct (R53). -/
def lnsProduct (fa fb a b : Nat) : Val :=
  let x := lnsParts fa a
  let y := lnsParts fb b
  match x.2, y.2 with
  | some la, some lb => lnsValue (x.1 != y.1) (la + lb)
  | _, _ => .zero (x.1 != y.1)

/-- The value of a binary floating-point code (R27, R28). -/
def decodeFloat (f : FFmt) (code : Nat) : Val :=
  let m := code % 2 ^ f.mb
  let e := code / 2 ^ f.mb % 2 ^ f.eb
  let s := code / 2 ^ (f.mb + f.eb) % 2 == 1
  if f.inf && e == 2 ^ f.eb - 1 then (if m = 0 then .inf s else .nan)
  else if !f.inf && f.nan.isSome && e == 2 ^ f.eb - 1 && m == 2 ^ f.mb - 1 then .nan
  else if e = 0 then .dyadic s m (1 - (f.bias : Int) - f.mb)
  else .dyadic s (2 ^ f.mb + m) ((e : Int) - f.bias - f.mb)

/-- The value of a trit code, and whether it is invalid (R30). -/
def decodeTrit (code : Nat) : Val × Bool :=
  match code % 4 with
  | 1 => (.fin false 1 1, false)
  | 3 => (.fin true 1 1, false)
  | 2 => (.zero false, true)
  | _ => (.zero false, false)

/-- Trit i of a tri5 byte (R31). -/
def decodeTri5 (byte i : Nat) : Val × Bool :=
  if 243 ≤ byte then (.zero false, true) else (.ofInt ((byte / 3 ^ i % 3 : Nat) - 1), false)

/-- Decode (R60) of an element code in a format, with whether the code is invalid. A block format's code is decoded as
its element's. -/
def decodeElem (f code : Nat) : Val × Bool :=
  let f := elemFmt f
  match ffmt f with
  | some x => (decodeFloat x code, false)
  | none => match ifmt f with
    | some (signed, b) =>
      let n := code % 2 ^ b
      (.ofInt (if signed && 2 ^ (b - 1) ≤ n then (n : Int) - 2 ^ b else n), false)
    | none => match lfmt f with
      | some _ => match lnsParts f code with
        | (s, some l) => (lnsValue s l, false)
        | (s, none) => (.zero s, false)
      | none => decodeTrit code

/-- The value of an FP32 register. -/
def f32 (w : Word) : Val := decodeFloat ⟨8, 23, 127, true, some 0x7FC00000, 0x7F7FFFFF⟩ w.toNat

/-- Element i of a register in a format (R26). -/
def elemOf (f : Nat) (w : Word) (i : Nat) : Nat :=
  let b := elemBits f
  let slot := if b = 6 then 8 else b
  w.toNat / 2 ^ (slot * i) % 2 ^ b

/-- A register from the codes of its elements, element 0 first (R26). -/
def packElems (f : Nat) (codes : List Nat) : Word :=
  let b := elemBits f
  let slot := if b = 6 then 8 else b
  BitVec.ofNat 32 (codes.foldr (fun c acc => c % 2 ^ b + 2 ^ slot * acc) 0)

/-! ### Rounding (R46, R47) -/

/-- floor(log2(n ÷ d)) for n not 0. -/
def floorLog2 (n d : Nat) : Int :=
  let k : Int := (Nat.log2 n : Int) - Nat.log2 d
  if (if 0 ≤ k then d * 2 ^ k.toNat ≤ n else d ≤ n * 2 ^ (-k).toNat) then k else k - 1

/-- Whether a magnitude between two neighbours goes to the upper one: `c` compares it with the midpoint, `odd` says
that the lower neighbour is odd. -/
def roundUp (rm : Nat) (neg : Bool) (c : Ordering) (odd : Bool) : Bool :=
  match rm with
  | 0 => c == .gt || (c == .eq && odd)
  | 1 => false
  | 2 => neg
  | 3 => !neg
  | _ => c != .lt

/-- n ÷ d rounded to an integer, and whether it was inexact. -/
def roundInt (rm : Nat) (neg : Bool) (n d : Nat) : Nat × Bool :=
  let q := n / d
  let r := n % d
  if r = 0 then (q, false)
  else (if roundUp rm neg (compare (2 * r) d) (q % 2 == 1) then q + 1 else q, true)

/-- RoundToFormat for a binary floating-point format (R47). -/
def roundFloat (f : FFmt) (rm : Nat) (sat neg : Bool) (n d : Nat) : Nat × Word :=
  let sign := if neg then 2 ^ (f.mb + f.eb) else 0
  if n = 0 then (sign, 0)
  else
    let e := max (floorLog2 n d) (1 - (f.bias : Int))
    let k := e - f.mb
    let (r, inexact) := if 0 ≤ k then roundInt rm neg n (d * 2 ^ k.toNat) else roundInt rm neg (n * 2 ^ (-k).toNat) d
    let code := (e + f.bias - 1).toNat * 2 ^ f.mb + r
    if f.max < code then
      let toInf := f.inf && !sat && (match rm with
        | 1 => false | 2 => neg | 3 => !neg | _ => true)
      (sign + (if toInf then (2 ^ f.eb - 1) * 2 ^ f.mb else f.max), fOF ||| fNX)
    else (sign + code, if inexact then (if code < 2 ^ f.mb then fNX ||| fUF else fNX) else 0)

/-- RoundToFormat for an integer format (R47). Of a negative value in n8 and n4 R47 gives no limit: it is limited to 0, with OF and NX
where it rounds to another value than 0 (DESIGN CHOICE, log 86). -/
def roundIntFmt (signed : Bool) (b : Nat) (rm : Nat) (neg : Bool) (n d : Nat) : Nat × Word :=
  let (r, inexact) := roundInt rm neg n d
  let top := if signed then 2 ^ (b - 1) - 1 else 2 ^ b - 1
  let bot := if signed then 2 ^ (b - 1) else 0
  let lim := if neg then bot else top
  let (r, fl) := if lim < r then (lim, fOF ||| fNX) else (r, if inexact then fNX else 0)
  (if neg then (2 ^ b - r) % 2 ^ b else r, fl)

/-- RoundToFormat for trits (R47). -/
def roundTrit (rm : Nat) (neg : Bool) (n d : Nat) : Nat × Word :=
  let (r, inexact) := roundInt rm neg n d
  (if r = 0 then 0 else if neg then 3 else 1, if 1 < r then fOF ||| fNX else if inexact then fNX else 0)

/-- The largest L whose magnitude does not exceed n ÷ d, for n not 0. -/
def floorLns (step n d : Nat) : Int :=
  let e := floorLog2 n d
  let per := 8 / step
  let le := fun (i : Nat) => match lnsValue false (e * 8 + i * step) with
    | .fin _ a b => decide (a * d ≤ n * b)
    | _ => false
  e * per + (((List.range per).filter le).length : Int) - 1

/-- RoundToFormat for a logarithmic format (R47): the zero code counts as L one below the smallest, which is even. -/
def roundLns (sb step : Nat) (rm : Nat) (neg : Bool) (n d : Nat) : Nat × Word :=
  let half : Int := 2 ^ (sb - 1)
  let sign := if neg then 2 ^ sb else 0
  let mag := fun (l : Int) => if l ≤ -half then (Val.zero false) else lnsValue false (l * step)
  let put := fun (l : Int) => sign + (l.emod (2 ^ sb)).toNat
  if n = 0 then (put (-half), 0)
  else
    let x := Val.fin false n d
    let lo := max (floorLns step n d) (-half)
    let hi := lo + 1
    if (mag lo).eq x then
      if half - 1 < lo then (put (half - 1), fOF ||| fNX) else (put lo, 0)
    else
      let mid := ((mag lo).add false (mag hi)).1
      let x2 := x.scale 1
      let c := if x2.lt mid then Ordering.lt else if mid.lt x2 then .gt else .eq
      let l := if roundUp rm neg c (lo.emod 2 == 1) then hi else lo
      if half - 1 < l then (put (half - 1), fOF ||| fNX)
      else (put l, if lo = -half then fNX ||| fUF else fNX)

/-- RoundToFormat (R47) of a finite value: the code and the flags. -/
def roundTo (f rm : Nat) (sat neg : Bool) (n d : Nat) : Nat × Word :=
  match ffmt f with
  | some x => roundFloat x rm sat neg n d
  | none => match ifmt f with
    | some (signed, b) => roundIntFmt signed b rm neg n d
    | none => match lfmt f with
      | some (sb, step) => roundLns sb step rm neg n d
      | none => roundTrit rm neg n d

/-- The code of the largest finite magnitude with a sign. -/
def largest (f : Nat) (neg : Bool) : Nat := (roundTo f 1 true neg (2 ^ 200) 1).1

/-- The code of an infinity, where the format has one. -/
def infCode (f : Nat) (neg : Bool) : Option Nat :=
  match ffmt f with
  | some x => if x.inf then some ((if neg then 2 ^ (x.mb + x.eb) else 0) + (2 ^ x.eb - 1) * 2 ^ x.mb) else none
  | none => none

/-- The canonical NaN, where the format has NaN. -/
def nanCode (f : Nat) : Option Nat :=
  match ffmt f with
  | some x => x.nan
  | none => none

/-- Steps 2 to 4 of R56: a value converted to a format. -/
def convert (f rm : Nat) (sat : Bool) : Val → Nat × Word
  | .nan => match nanCode f with
    | some c => (c, 0)
    | none => ((roundTo f 0 true false 0 1).1, fNV)
  | .inf s => match infCode f s with
    | some c => if sat then (largest f s, fOF) else (c, 0)
    | none => (largest f s, fOF)
  | .fin s n d => roundTo f rm sat s n d

/-- Convert (R60) of a code. -/
def convertCode (src dst rm : Nat) (sat : Bool) (code : Nat) : Nat × Word :=
  let (v, bad) := decodeElem src code
  let (c, fl) := convert dst rm sat v
  (c, if bad then fl ||| fINVCODE else fl)

/-- A value as the result of an arithmetic operation in a format with NaN (R48, R110): NaN is canonical, an infinity
stays one, with `.sat` too (DEDUCED, log 72: R110 speaks of the range of a finite value), and any other value is rounded. -/
def arith (f rm : Nat) (sat : Bool) (v : Val × Word) : Nat × Word :=
  match v.1 with
  | .nan => ((nanCode f).getD 0, v.2)
  | .inf s => ((infCode f s).getD (largest f s), v.2)
  | .fin s n d =>
    let (c, fl) := roundTo f rm sat s n d
    (c, fl ||| v.2)

/-- As `arith`, for FP32, as a register. -/
def arith32 (rm : Nat) (sat : Bool) (v : Val × Word) : Word × Word :=
  let (c, fl) := arith 0 rm sat v
  (BitVec.ofNat 32 c, fl)

/-- x lies below y in the order in which −0 lies below +0 (R105). -/
def minLess (x y : Val) : Bool := x.lt y || (x.eq y && x.neg && !y.neg)

/-- FMIN and FMAX of R105 on codes of a format. -/
def pickCode (isMax : Bool) (nan : Nat) (x y : Val) (a b : Nat) : Nat :=
  if x.isNan && y.isNan then nan
  else if x.isNan then b
  else if y.isNan then a
  else if isMax then (if minLess x y then b else a)
  else if minLess y x then b else a

/-! ### Scales (R35 to R37, R39) -/

/-- An E8M0 scale. -/
def e8m0 (x : Nat) : Val := if x % 256 = 255 then .nan else .dyadic false 1 ((x % 256 : Nat) - 127)

/-- A per-tensor scale: NaN unless it is finite (R37). -/
def tensorScale (g : Word) : Val :=
  match f32 g with
  | .fin s n d => .fin s n d
  | _ => .nan

/-- A format scaled by an E8M0 per block, by an E4M3 per block and an FP32, or by an FP32 only (R39). -/
def isMxFmt (f : Nat) : Bool := 19 ≤ f && f ≤ 27
def isFsFmt (f : Nat) : Bool := f == 28 || f == 29
def isTsFmt (f : Nat) : Bool := f == 30 || f == 31

/-- The factor of an element under its block scale and the per-tensor scale (R39). -/
def scaleOf (f blk : Nat) (g : Word) : Val :=
  if isMxFmt f then e8m0 blk
  else if isFsFmt f then ((tensorScale g).mul (decodeElem 3 (blk % 256)).1).1
  else if isTsFmt f then tensorScale g
  else .fin false 1 1

/-- An element's value under its scales (R39). An infinite element under a zero scale is NaN. An fsi4 element of value 0 under a
negative g is −0: the sign of such a zero is not told (DESIGN CHOICE, log 85). -/
def scaled (f blk : Nat) (g : Word) (e : Val) : Val :=
  if isMxFmt f || isFsFmt f || isTsFmt f then ((scaleOf f blk g).mul e).1 else e

end Sys2Proof.Machine
end

