-- ==== Sys2Proof/Syntax.lean ====
section
/-! DEFINITION. The instructions (R78) and the other indivisible steps of the part, one constructor for each row
of spec/opcode_table.json. An instruction carries its word's fields (`Op`); any other step carries what names its
occurrence (a core, a drove, a record) or what the outside world brings with it. -/

namespace Sys2Proof

/-- The special registers, in the order of their codes 0xC8 to 0xD8 (R72). -/
inductive Special where
  | tid | lane | team | teamlane | nthreads | cyclelo | cyclehi | launchid | cls | corerow | corecol
  | chiplet | tcause | taddrlo | taddrhi | tpc | probeflag
  deriving DecidableEq, Repr, Inhabited

/-- What an operand code names (R71 in a drove, R73 in the shepherd). `resv` keeps a reserved code. -/
inductive Opnd where
  | w (n : BitVec 6)      -- w0 to w63 (drove)
  | c (n : BitVec 6)      -- c0 to c63 (drove)
  | k (n : BitVec 5)      -- k0 to k31
  | snap (n : BitVec 5)   -- s0 to s31 as a drove sees them
  | p (n : BitVec 3)      -- p0 to p7 (drove)
  | s (n : BitVec 6)      -- s0 to s63 (shepherd)
  | sp (n : BitVec 3)     -- sp0 to sp7 (shepherd)
  | spec (r : Special)
  | zero                  -- 0xF0
  | imm                   -- 0xF1
  | resv (code : BitVec 8)
  deriving DecidableEq, Repr, Inhabited

/-- The control word (R63). -/
structure Ctl where
  wait  : BitVec 8
  set   : BitVec 3
  setv  : Bool
  gap   : BitVec 5
  cede  : Bool
  drain : Bool
  hold  : BitVec 3
  deriving DecidableEq, Repr, Inhabited

/-- The guard of bits 55:51 (R70, R75). -/
structure Guard where
  en   : Bool
  neg  : Bool
  pred : BitVec 3
  deriving DecidableEq, Repr, Inhabited

/-- The fields of an instruction word but for the opcode (R63, R70). -/
structure Op where
  ctl   : Ctl
  guard : Guard
  d : Opnd
  a : Opnd
  b : Opnd
  c : Opnd
  fmt   : BitVec 5
  rm    : BitVec 3
  sat   : Bool
  scope : BitVec 3
  mods  : BitVec 7
  imm   : Word
  deriving DecidableEq, Repr, Inhabited

/-- How a doorbell is written (R267): 8 bytes, or the high half that joins the latch. -/
inductive DoorbellWrite where
  | full (v : DWord)
  | high (v : Word)
  deriving DecidableEq, Repr, Inhabited

/-- The two masters of R376. -/
inductive Master where
  | host | sideband
  deriving DecidableEq, Repr, Inhabited

/-- A packet of a memory request between packages (R314, R329), of at most 256 bytes of data. Bit i of `mask` names sector i
of a read from the sector of `va` on, or byte i of a write; `order` is an atomic's: 0 none, 1 acq, 2 rel, 3 acqrel. `seq` is
the packet's number among those of its source to its line, and `inst` an atomic's instruction and its place among that
instruction's (R330); `marked`: a switch has marked it (R331). -/
structure HomeReq where
  space   : Nat
  va      : DWord
  path    : Nat
  src     : Nat
  tid     : Word
  mode    : Nat
  leaf64  : Bool
  size    : Nat
  write   : Option (List Byte)
  atomic  : Option (Nat × DWord × DWord)
  mask    : Nat
  order   : Nat
  seq     : Nat
  inst    : Option (Nat × Nat)
  marked  : Bool
  deriving DecidableEq, Repr, Inhabited

/-- What a home answers (R315, R329): a fault reply carries its cause and is resolvable pending, unresolvable or retry. -/
inductive HomeAns where
  | data (bytes : List Byte)
  | accepted
  | pending (cause : BitVec 8)
  | fault (cause : BitVec 8)
  | retry (cause : BitVec 8)
  deriving DecidableEq, Repr, Inhabited

/-- What becomes of an access to another package that the part makes for no lane (log 76): the home takes it, reports it
missing (0x06), forbidden (0x07) or lost (0x10), or says that the page is now another package's (R315, R321, R330). -/
inductive HomeSays where
  | taken | missing | denied | lost
  | moved (peer : Nat)
  deriving DecidableEq, Repr, Inhabited

/-- Where uncorrectable data stand (R363): the sector of device memory or of a cache that a virtual address reaches; a 32-bit
word of a launch's scratchpad, tiles or scale memory on a core, by offset; or a register. -/
inductive Granule where
  | global (va : DWord)
  | scratch (off : Nat)
  | tile (i : Nat)
  | scale (off : Nat)
  | wReg (n : BitVec 6)
  | cReg (n : BitVec 6)
  deriving DecidableEq, Repr, Inhabited

/-- Who meets uncorrectable data (R363), and where they stand. -/
inductive Consumer where
  | lane (core ag lane : Nat) (g : Granule)
  | shepherd (core ag : Nat) (g : Granule)
  | copy (core slot : Nat) (g : Granule)
  | engine (core : Nat) (g : Granule)
  | collective (idx : Nat) (va : DWord)
  | hostRead (pa : Nat)
  | partialStore (pa : Nat)
  | cleanL1 (core pa : Nat)
  | dirtyL1 (core pa : Nat)
  deriving DecidableEq, Repr, Inhabited

/-- The instructions and steps of the part. -/
inductive Instr where
  -- 0x0_ control
  | nop (o : Op) | blk (ctl : Ctl) (live : DWord) (team landing : Bool) | br (o : Op) | cbr (o : Op) | ibr (o : Op)
  | call (o : Op) | icall (o : Op) | ret (o : Op) | exit (o : Op) | join (o : Op) | yield (o : Op)
  | sleep (o : Op) | bkpt (o : Op) | probe (o : Op)
  -- 0x1_ integer
  | iadd (o : Op) | isub (o : Op) | imul (o : Op) | imulh (o : Op) | imad (o : Op) | imadw (o : Op)
  | imin (o : Op) | imax (o : Op) | iabs (o : Op) | iaddc (o : Op) | isubb (o : Op) | idiv (o : Op)
  | irem (o : Op) | isad (o : Op) | iclamp (o : Op) | lea (o : Op)
  -- 0x2_ bit
  | and (o : Op) | or (o : Op) | xor (o : Op) | andn (o : Op) | shl (o : Op) | shr (o : Op) | shra (o : Op)
  | rotl (o : Op) | bfx (o : Op) | bfi (o : Op) | popc (o : Op) | clz (o : Op) | brev (o : Op) | lut3 (o : Op)
  | bperm (o : Op) | fns (o : Op)
  -- 0x3_ compare and move
  | icmp (o : Op) | fcmp (o : Op) | sel (o : Op) | mov (o : Op) | movi (o : Op) | mov64 (o : Op) | pset (o : Op)
  | pmov (o : Op) | sread (o : Op) | add64 (o : Op) | sub64 (o : Op) | shl64 (o : Op) | cmp64 (o : Op)
  -- 0x4_ FP32
  | fadd (o : Op) | fsub (o : Op) | fmul (o : Op) | ffma (o : Op) | fmin (o : Op) | fmax (o : Op) | frcp (o : Op)
  | frsq (o : Op) | fsqrt (o : Op) | fex2 (o : Op) | flg2 (o : Op) | fsin (o : Op) | fcos (o : Op) | frnd (o : Op)
  | fclass (o : Op) | fscale (o : Op)
  -- 0x5_ narrow and convert
  | cvt (o : Op) | cvtb (o : Op) | cvtd (o : Op) | pkadd (o : Op) | pkmul (o : Op) | pkfma (o : Op) | pkmin (o : Op)
  | pkmax (o : Op) | dot4 (o : Op) | dot8 (o : Op) | lnsm (o : Op) | lnsa (o : Op) | tdot (o : Op) | rngk (o : Op)
  | fdiv (o : Op)
  -- 0x6_ team
  | shfl (o : Op) | shflu (o : Op) | shfld (o : Op) | shflx (o : Op) | vall (o : Op) | vany (o : Op) | ballot (o : Op)
  | tred (o : Op) | tscan (o : Op) | matchT (o : Op) | elect (o : Op) | tvote (o : Op)
  -- 0x7_ memory
  | ld (o : Op) | st (o : Op) | lds (o : Op) | sts (o : Op) | ldsx (o : Op) | stsx (o : Op) | ldk (o : Op)
  | pref (o : Op) | spop (o : Op) | ldgs (o : Op)
  -- 0x8_ atomics
  | atom (o : Op) | atomc (o : Op) | red (o : Op) | atoms (o : Op) | atomsc (o : Op) | reds (o : Op) | coll (o : Op)
  -- 0x9_ synchronisation
  | fence (o : Op) | xfence (o : Op) | binit (o : Op) | barv (o : Op) | bwait (o : Op) | btest (o : Op) | bexp (o : Op)
  | chinit (o : Op) | chpush (o : Op) | chpop (o : Op) | chtry (o : Op) | chclose (o : Op)
  -- 0xA_ copy and stream
  | cpy (o : Op) | cpyt (o : Op) | cpysc (o : Op) | cpymx (o : Op) | strm (o : Op) | strmx (o : Op) | cpyr (o : Op)
  -- 0xB_ matrix
  | mcfg (o : Op) | mma (o : Op) | mmag (o : Op) | mmas (o : Op) | mzero (o : Op) | mload (o : Op) | mloadSc (o : Op)
  | mstore (o : Op) | mstat (o : Op) | mstatSet (o : Op) | mstatSync (o : Op) | mstatList (o : Op) | modrain (o : Op)
  -- 0xC_ shepherd
  | sbr (o : Op) | sjmp (o : Op) | sloop (o : Op) | spawn (o : Op) | dpush (o : Op) | dpop (o : Op) | swait (o : Op)
  | scond (o : Op) | shalt (o : Op)
  -- 0xD_ work
  | enq (o : Op) | recN (o : Op) | cntadd (o : Op) | cntwait (o : Op) | cancel (o : Op)
  -- 0xE_ system
  | trap (o : Op) | tret (o : Op) | srd (o : Op) | swr (o : Op) | cctlWb (o : Op) | cctlInv (o : Op)
  | cctlFarinv (o : Op) | cctlIcinv (o : Op) | tlbi (o : Op) | halt (o : Op)
  -- droves, folds, the pen
  | resultLanding (core ag : Nat) | droveFormation (core q : Nat) | foldAgeExpiry (core q fold : Nat)
  | droveIssue (core q : Nat) (pipeB : Bool) | blockExitFiling (core ag : Nat) | liveInFetch (core ag : Nat)
  | strayRefile (core q : Nat) | spill (core q : Nat) | threadPark (core ag lane : Nat)
  | faultResolutionResume (core lid tid : Nat) | sleepWake (core ag : Nat) | yieldExpiry (core ag : Nat)
  | trackerEntryDrained (core idx : Nat)
  -- copy engine, matrix engine, waits
  | copyLanded (core slot : Nat) | copyFault (core slot : Nat) (cause : BitVec 8) (addr : DWord)
  | streamFetch (core lid strm : Nat) | cpymxWordEntry (core slot : Nat) | matrixExecute (core : Nat)
  | matrixComplete (core : Nat) | gatherRead (core : Nat) | chuteWaitSatisfied (core ag : Nat)
  | shepherdWaitSatisfied (core ag : Nat) | dpopWaitSatisfied (core ag : Nat) | cntwaitSatisfied (core ag : Nat)
  | flagMergeToHub (core lid : Nat) | enablePropagation (core lid : Nat)
  -- front end and loader
  | hostRegisterWrite (off : Nat) (v : Word) | doorbellSignal (q : Nat) (w : DoorbellWrite)
  | doorbellLowHalf (q : Nat) (v : Word) | doorbellLatchExpiry (q : Nat) | queueIdleUnmap (slot : Nat)
  | launchRecordRead (slot : Nat) | dependenceRead (slot : Nat) | arbiterDecision (part : Nat) | binding (part : Nat)
  | placement (part : Nat) | launchCompletion (lid : Nat) | batchTimerExpiry (graph node : Nat)
  | batchLaunch (graph node : Nat) | imageRegister | imageUnregister | loaderDone
  -- translation and fabric
  | homeRequest (r : HomeReq) | homeReply (idx : Nat) (a : HomeAns) | notHereReply (idx peer : Nat)
  | requestRetryTimeout (idx : Nat) | congestionMarkEcho (pkg : Nat) | rateRecoveryTick (pkg : Nat)
  | migration (part : Nat) (va : DWord) (pkg : Nat) (granted : Bool) | migrationAbandon (part : Nat) (va : DWord)
  | fqack (v : Word)
  | faultTimeout (queue slot : Nat) | biascmdToDevice | biascmdToHost | biasChangeDone | tlbicmd (v : Word)
  | tlbiDone | inboundAccess (off n : Nat) (write : Option (List Byte))
  | hostMemoryAccess (pa n : Nat) (write : Option (List Byte)) | collectiveDone (idx : Nat) (others : List (Nat × List Word)) (mismatch : Bool)
  | laneSwap (port : Nat) | laneSample (port lane : Nat) (low : Bool) | portDegrade (port : Nat)
  -- partitions
  | pcmdHalt (n : Nat) | pcmdSave (n : Nat) | pcmdRestore (n : Nat) | pcmdResume (n : Nat) | pcmdDiscard (n : Nat)
  | haltDone (n : Nat) | saveDone (n : Nat) | restoreDone (n : Nat) (bad : List Nat) | copyHaltTimeout (core slot : Nat)
  | pmapWrite (n : Nat) (v : Word)
  -- errors
  | errackWrite (v : Word) | ceWindowBoundary | correctedError (unit : Nat) (loc : Word)
  | uncorrectableConsumed (k : Consumer) | scrub (unit : Nat) (loc : Word) | hbmRefresh (bank : Nat)
  | coreLogicError (core : Nat)
  -- firmware and management
  | leaseRenewal (who : Nat) (epoch : Word) | leaseClaim (who : Nat) | leaseLapse
  | sidebandMessage (opcode : Byte) (seq : Word) (payload : List Byte) | identity (m : Master) | attest (m : Master)
  | fwstage (m : Master) | fwactivate (m : Master) | fwabort (m : Master) | updateLockTimeout | powercap (m : Master)
  | telemetry (m : Master) | reset (m : Master) | swconfig (m : Master) | throttleTick (avgMw : Nat) (temps : List Nat)
  | thermalTrip | brownOut (rail : Nat) | perstDeassert | bringupStageDone
  -- later rows of the table
  | penDemandRead (core ag reg : Nat) | accessPerformed (core idx : Nat) | cxlCacheSnoop (line : Nat)
  | configurationRequest | contendedMarkExpiry (line : Nat)
  deriving DecidableEq, Repr, Inhabited

/-- What is to happen next when several agents could act: an event of the table, or the grant of the scalar port
of a core to the shepherd of a launch (R233). -/
inductive Sched where
  | event (i : Instr)
  | shepherd (core lid : Nat)
  deriving DecidableEq, Repr, Inhabited

end Sys2Proof
end

