-- ==== Sys2Proof/Config.lean ====
section
/-! DEFINITION. The free values: what the manual leaves open, each an opaque constant applied to plain data of the
state (a counter, a register number, an address), so that no proof can see what it is. -/

namespace Sys2Proof.Config

/-- DESIGN CHOICE (log 1): which step comes next when several could, applied to the step counter. -/
opaque schedule : Nat → Sched
/-- How many cycles of its own a core has counted beyond `State.cycles` since time first passed after reset (R4, R21, log 32),
applied to the core: no two counters can be compared. -/
opaque cycleSkew : Nat → Nat
/-- Cycles of the arithmetic clock that pass before a step (R4, R21), applied to the step counter. -/
opaque cyclesPassed : Nat → Nat
/-- Nanoseconds of the reference clock that pass before a step (R362), applied to the step counter. -/
opaque nanosPassed : Nat → Nat
/-- A w register at block entry (R9, R18), applied to the lane's seed and the register number. -/
opaque undefWord : Nat → Nat → Word
/-- A p register at block entry (R9, R18). -/
opaque undefPred : Nat → Nat → Bool
/-- A word of an accumulator tile before anything wrote it (R9), applied to launch, core, tile and index. -/
opaque undefTile : Nat → Nat → Nat → Nat → Word
/-- A byte of an image in a memory save area (R339), applied to the step counter and the byte's place. -/
opaque savedByte : Nat → Nat → Byte
/-- A byte of scale memory before anything wrote it (R9), applied to launch, core and offset. -/
opaque undefScale : Nat → Nat → Nat → Byte
/-- A byte of the scratchpad allocation before anything wrote it (log 2), applied to launch, core and offset. -/
opaque undefScratch : Nat → Nat → Nat → Byte
/-- A byte of the host's memory as the host holds it, applied to the step counter and the bus address (R327). -/
opaque hostByte : Nat → Nat → Byte
/-- A byte that a PCIe peer returns, applied to the step counter and the bus address (R327). -/
opaque ioByte : Nat → Nat → Byte
/-- How many cycles beyond issue + 32 the copy engine predicts for a landing (R182). -/
opaque promiseExtra : Nat → Nat
/-- The result of a correctly rounded function where its evaluation to 640 bits does not decide the rounding (log 20). -/
opaque hardCase : Nat → Word → Word
/-- This package's number in the pod (R209). -/
opaque pkgId : BitVec 12
/-- The serial number (R380). -/
opaque serial : DWord
/-- The form in which the part is fitted, bits 1:0 of word 1 of the identity record: 0 bare, 1 module (R1, R380). -/
opaque form : Bool
/-- Firmware version, microcode revision and binder version of the bank in use, applied to the bank (R301, R380). -/
opaque fwVersion : Nat → Word
opaque mcRevision : Nat → Word
opaque binderVersion : Nat → Word
/-- The fuses (R379): the private key of the device, and the SHA-512 digest of the release public key. -/
opaque devPrivate : Nat
opaque releaseDigest : BitVec 512
/-- The nonces of a signature of some bytes by the device (R381), applied to the bytes and the number of the try. -/
opaque nonce : List Byte → Nat → Nat
/-- The parts of a staged bundle, whose layout the manual does not give (R382, log 21): the release key and the signature that it
carries, the rest, which that signs, and its SECVER. -/
opaque bundleKey : List (Nat × Byte) → List Byte
opaque bundleSig : List (Nat × Byte) → List Byte
opaque bundleRest : List (Nat × Byte) → List Byte
opaque bundleSecver : List (Nat × Byte) → Word
/-- Whether a flash bank passes the check of its boot ROM (R382), applied to the step counter and the release. -/
opaque bankGood : Nat → Nat → Bool
/-- Which die reaches 110 °C first (R385), applied to the step counter. -/
opaque hotDie : Nat → Nat
/-- SECVER of a release that was not staged here (R380), applied to the release. -/
opaque secver : Nat → Word
/-- R, W, X and MIGOK of a page that arrives from another package (R320), applied to the step counter. -/
opaque movedPerms : Nat → BitVec 4
/-- The log's name of the location of a sector of device memory (R362), applied to the sector. -/
opaque hbmLoc : Nat → Word
/-- UNIT and LOC of an uncorrectable sector of this package's caches or of another package or the host, which no address of device
memory names (R362, log 52), applied to the step counter and the record's sequence number. -/
opaque ueUnit : Nat → Word → BitVec 4
opaque ueLoc : Nat → Word → Word
/-- The quadrant or bank and the row of a granule of a core (R362, log 52), applied to the unit, the core and what names the
granule there. -/
opaque granRow : Nat → Nat → Nat → BitVec 22
/-- The redundant lanes of a chiplet's UCIe link (R366). -/
opaque ucieSpares : Nat
/-- A component image of a release: of the hub, the compute chiplets, the I/O chiplets and the microcode, applied to the release and
the component (R381). -/
opaque imageBytes : Nat → Nat → List Byte
/-- When the last rail came within its window, in ns (R386). -/
opaque railsUp : Nat
/-- How far above their lowest the firmware sets VCORE and VHUB, in mV, applied to the clock in MHz (R386). -/
opaque vcoreSet : Nat → Nat
opaque vhubSet : Nat → Nat
/-- Which bytes of a copy had landed when it failed (R184), applied to the step counter and the byte's place. -/
opaque failedByte : Nat → Nat → Bool

/-- Whether a translation that was cached is still held by the TLB (R317, R318), applied to the step counter and the key. -/
opaque tlbHolds : Nat → Nat → Bool
/-- Whether the hub's walk caches still hold an entry (R317), and which entry a full TLB replaces. -/
opaque walkHolds : Nat → Nat → Bool
opaque tlbVictim : Nat → Nat
/-- The set of a TLB that an entry belongs to (R317, log 58), applied to the entry's key. -/
opaque tlbSet : Nat → Nat
/-- Whether the far cache still holds a line (R236, R247). -/
opaque farHolds : Nat → Nat → Bool
/-- Which value a word that path C or M reads takes where stores of the issuing agent have not been joined to that path
(R182, R237): how many of the last of those stores it does not show, applied to the step counter and the word. -/
opaque unjoined : Nat → Nat → Nat
/-- What the home of a place says to an access that the part makes for no lane (R315, R321, log 76), applied to the step counter,
the package and the place. -/
opaque homeSays : Nat → Nat → Nat → HomeSays
/-- Whether a request to another package had gone out over a port of this one (R369), applied to the request and the port. -/
opaque onPort : Nat → Nat → Bool
/-- Whether the host holds a changed copy of a line of a frame in host bias (R326, log 77), applied to the step counter and the
line. -/
opaque hostHas : Nat → Nat → Bool
/-- A byte of TEAMSDONE or of the done bitmap after software wrote the completion block, applied to the step counter and the
byte's place, and whether DONE then loses an addition (R284, log 8). -/
opaque undefDone : Nat → Nat → Byte
opaque doneLost : Nat → Bool
/-- A byte of NEXT and LOST of a race log that software has written (R257, log 8). -/
opaque undefLog : Nat → Nat → Byte
/-- A byte of the argument buffer, as LDK reads it after software wrote it (R157, log 8). -/
opaque undefArg : Nat → Nat → Byte
/-- A handle popped from a ring that other instructions have written (R175, log 8), applied to the step counter and the read index. -/
opaque undefHandle : Nat → Nat → Word
/-- Whether a clean line is still held by the L1 (R236), applied to the step counter and the line. -/
opaque l1Holds : Nat → Nat → Bool
/-- Whether the instruction cache still holds an old word where memory holds another (R210). -/
opaque icHolds : Nat → Nat → Bool
/-- A byte of another package's memory as path C, F or the hub reads it (log 59), applied to the step counter, the package and
the address. -/
opaque remoteByte : Nat → Nat → Nat → Byte

/-- Whether a line with a shadow record is still in the L2 (R254), applied to the step counter and the sector. -/
opaque shadowHolds : Nat → Nat → Bool

/-- A byte of an element popped from a ring that software has written (R160), applied to the step counter and its place. -/
opaque undefElem : Nat → Nat → Byte

end Sys2Proof.Config
end

