-- ==== Sys2Proof/WellFormed.lean ====
section
/-! DEFINITION. Which words are instructions: for every opcode, where it is valid, which fields it uses and which
operands each position takes (R70 to R77 and the tables of the instruction chapters), and the checks 4 and 5 of R79
made from them. -/

namespace Sys2Proof

/-- What the checks of a word depend on beside the word: the agent, the level (R306), the team width and
COMPAT16 (R82). -/
structure Ctx where
  shep   : Bool
  level2 : Bool
  width  : Nat
  compat : Bool
  deriving DecidableEq, Repr, Inhabited

/-- A drove of a level 3 launch of team width 32. -/
def Ctx.drove : Ctx := { shep := false, level2 := false, width := 32, compat := false }
/-- A shepherd of a level 3 launch. -/
def Ctx.shepherd : Ctx := { Ctx.drove with shep := true }

/-- What a source position takes. -/
inductive SrcK where
  | none      -- unused: must hold 0xF0
  | r32       -- any 32-bit source
  | r64       -- an even pair, zero or the immediate
  | r128      -- four registers from a multiple of 4
  | pred      -- a predicate code
  | predZ     -- a predicate code or 0xF0
  | special   -- a special register
  | lit       -- 0xF0 or 0xF1
  deriving DecidableEq, Repr

/-- What a destination position takes. 0xF0 discards wherever a register of general kind is taken (R71). -/
inductive DstK where
  | none
  | g         -- w or c, s in the shepherd
  | p         -- a predicate only (R99, R101)
  | pz        -- a predicate, or 0xF0 (R71)
  | gp        -- either
  | g64
  | g128
  | creg      -- a c register only
  | sreg      -- an s register only
  deriving DecidableEq, Repr

/-- How the immediate is used (R74, R76). -/
inductive ImmK where
  | operand                      -- zero unless a source names 0xF1
  | own (ok : Word → Bool)       -- the group's own meaning: no source may name 0xF1

/-- The use that an opcode makes of its word. `fields` is what check 4 still asks of the word, `operands` what
check 5 still asks. -/
structure Spec where
  opc   : BitVec 8
  drove : Bool := true
  shep  : Bool := true
  d : DstK := .none
  a : SrcK := .none
  b : SrcK := .none
  c : SrcK := .none
  fmt   : Option (Nat → Bool) := none
  rm    : Bool := false
  sat   : Bool := false
  scope : Bool := false
  mods  : BitVec 7 → Bool := fun m => m == 0
  imm   : ImmK := .operand
  fields   : Op → Bool := fun _ => true
  operands : Ctx → Op → Bool := fun _ _ => true

namespace Opnd

/-- A predicate code (p, or sp in the shepherd). -/
def isPred : Opnd → Bool
  | .p _ | .sp _ => true
  | _ => false

/-- Whether the code belongs to the agent at all (R71, R73). -/
def forAgent (shep : Bool) : Opnd → Bool
  | .w _ | .c _ | .snap _ | .p _ => !shep
  | .s _ | .sp _ => shep
  | .resv _ => false
  | _ => true

/-- The number of the register in its file, for the alignment of pairs and quads. -/
def regNo : Opnd → Option Nat
  | .w n | .c n | .s n => some n.toNat
  | .k n | .snap n => some n.toNat
  | _ => none

def alignedTo (m : Nat) (o : Opnd) : Bool :=
  match o.regNo with
  | some n => n % m == 0
  | none => false

/-- w or c, s in the shepherd. -/
def isGpr : Opnd → Bool
  | .w _ | .c _ | .s _ => true
  | _ => false

end Opnd

/-- A source against its position (R19, R71, R77). -/
def SrcK.ok (k : SrcK) (o : Opnd) : Bool :=
  match k with
  | .none => o == .zero
  | .r32 => match o with
    | .resv _ => false
    | _ => true
  | .r64 => o == .zero || o == .imm || o.alignedTo 2
  | .r128 => o == .zero || o == .imm || o.alignedTo 4
  | .pred => o.isPred
  | .predZ => o.isPred || o == .zero
  | .special => match o with
    | .spec _ => true
    | _ => false
  | .lit => o == .zero || o == .imm

/-- A destination against its position. -/
def DstK.ok (k : DstK) (o : Opnd) : Bool :=
  match k with
  | .none => o == .zero
  | .g => o == .zero || o.isGpr
  | .p => o.isPred
  | .pz => o == .zero || o.isPred
  | .gp => o == .zero || o.isGpr || o.isPred
  | .g64 => o == .zero || (o.isGpr && o.alignedTo 2)
  | .g128 => o == .zero || (o.isGpr && o.alignedTo 4)
  | .creg => match o with
    | .c _ => true
    | _ => false
  | .sreg => match o with
    | .s _ => true
    | _ => false

namespace Op

/-- Modifier bits `hi` down to `lo` of bits 38:32, counted from bit 32. -/
def mbits (o : Op) (lo n : Nat) : Nat := (o.mods.toNat / 2 ^ lo) % 2 ^ n
def mbit (o : Op) (i : Nat) : Bool := o.mods.getLsbD i
/-- The memory size code (R77). -/
def size (o : Op) : Nat := o.mbits 0 3
/-- The width of a memory access in bytes. -/
def bytes (o : Op) : Nat := 2 ^ o.size
/-- The second format code of group 0x5_. -/
def fmt2 (o : Op) : Nat := o.mbits 0 5
/-- The element group of group 0x5_. -/
def group (o : Op) : Nat := o.mbits 5 2
/-- Some source names the immediate. -/
def namesImm (o : Op) : Bool := o.a == .imm || o.b == .imm || o.c == .imm

end Op

/-- The destination of an access of the size of its word. -/
def dataDst (o : Op) : DstK := if o.size = 3 then .g64 else if o.size = 4 then .g128 else .g
/-- The source of the data of an access of the size of its word. -/
def dataSrc (o : Op) : SrcK := if o.size = 3 then .r64 else if o.size = 4 then .r128 else .r32
/-- The destination of a member mask (R133). -/
def maskDst (x : Ctx) : DstK :=
  if x.compat then .g else if x.width = 64 then .g64 else if x.width = 128 then .g128 else .g

/-- Elements of a format that a register holds (R26). -/
def perReg (f : Nat) : Nat :=
  if f = 0 ∨ f = 14 then 1
  else if f = 1 ∨ f = 2 ∨ f = 13 then 2
  else if f = 7 ∨ f = 9 ∨ f = 12 ∨ f = 23 ∨ f = 25 ∨ f = 28 ∨ f = 29 then 8
  else if f = 10 ∨ f = 15 ∨ f = 27 then 16
  else 4

/-- A format that CVT takes (R108). -/
def cvtFmt (f : Nat) : Bool := f ≤ 15 || f == 17 || f == 18
/-- A block format of the MX kind. -/
def isMx (f : Nat) : Bool := 19 ≤ f && f ≤ 27
/-- A block-scaled or tensor-scaled format. -/
def isScaled (f : Nat) : Bool := 19 ≤ f && f ≤ 31
def isPk (f : Nat) : Bool := 1 ≤ f && f ≤ 4
def isDot4 (f : Nat) : Bool := f == 8 || f == 11 || f == 3 || f == 4
def isDot8 (f : Nat) : Bool := f == 9 || f == 12 || f == 7
def isLns (f : Nat) : Bool := f == 17 || f == 18
def isTdotB (f : Nat) : Bool := f == 15 || f == 8 || f == 9 || f == 10

/-- The immediate is an 8-bit table or code (R98, R101, R207). -/
def byteImm (w : Word) : Bool := w.toNat < 256
def anyImm (_ : Word) : Bool := true

/-- A system register that R209 lists. -/
def isSysReg (n : Nat) : Bool :=
  n == 0 || n == 1 || n == 2 || n == 4 || n == 5 || n == 6 || n == 0x10 || n == 0x11 || n == 0x12
    || n == 0x100 || n == 0x101 || n == 0x102
/-- A system register that may be read only (R209). -/
def isRoSysReg (n : Nat) : Bool := n == 0 || n == 0x10 || n == 0x11 || n == 0x12
/-- A system register whose write is privileged (R209). -/
def isPrivSysReg (n : Nat) : Bool := n == 0x100 || n == 0x101 || n == 0x102
def sysImm (w : Word) : Bool := w.toNat < 4096 && isSysReg w.toNat

def lowMods (n : Nat) (m : BitVec 7) : Bool := m.toNat < 2 ^ n
/-- IADD, ISUB, IMUL, IMAD: `.u` only with `.sat` (R92). -/
def satUnsigned (o : Op) : Bool := o.sat || o.mods == 0
/-- Bit 35 only on b8 and b16 (R77). -/
def signOk (o : Op) : Bool := !o.mbit 3 || o.size ≤ 1
/-- An acquire or release, an atomic or a fence is not of scope thr (R155, R163, R169, R170). -/
def scopeNotThr (o : Op) : Bool := o.scope != 0
/-- The negate and absolute bits name sources that are read (R103). -/
def fpMods (n : Nat) (m : BitVec 7) : Bool :=
  !m.getLsbD 6 && (1 ≤ n || (!m.getLsbD 0 && !m.getLsbD 3)) && (2 ≤ n || (!m.getLsbD 1 && !m.getLsbD 4))
    && (3 ≤ n || (!m.getLsbD 2 && !m.getLsbD 5))
/-- fadd, fmin, fmax are 32 bits wide (R163). -/
def atomOk (o : Op) : Bool := o.mbits 0 4 ≤ 13 && !(o.mbit 4 && 9 ≤ o.mbits 0 4 && o.mbits 0 4 ≤ 11)
def collOk (o : Op) : Bool :=
  o.mbits 4 3 ≤ 3 && o.scope == 5
    && (if o.mbits 4 3 ≤ 1 then o.mbits 0 4 ≤ 7 || (9 ≤ o.mbits 0 4 && o.mbits 0 4 ≤ 11) else o.mbits 0 4 == 0)

/-- The pattern of group 0x1_ (R91). -/
def intSpec (opc : BitVec 8) (c : SrcK) : Spec := { opc, d := .g, a := .r32, b := .r32, c, mods := lowMods 1 }
/-- The pattern of the saturating four of group 0x1_ (R92). -/
def satSpec (opc : BitVec 8) (c : SrcK) : Spec := { intSpec opc c with sat := true, fields := satUnsigned }
/-- The pattern of group 0x2_ (R95). -/
def bitSpec (opc : BitVec 8) (b c : SrcK) : Spec := { opc, d := .g, a := .r32, b, c }
/-- The pattern of group 0x4_ with n sources (R103). -/
def fpSpec (opc : BitVec 8) (n : Nat) (rm sat : Bool) : Spec :=
  { opc, d := .g, a := .r32, b := if 2 ≤ n then .r32 else .none, c := if 3 ≤ n then .r32 else .none,
    rm, sat, mods := fpMods n }
/-- The pattern of PKADD to PKMAX (R108). -/
def pkSpec (opc : BitVec 8) (c : SrcK) (rnd : Bool) : Spec :=
  { opc, shep := false, d := .g, a := .r32, b := .r32, c, fmt := some isPk, rm := rnd, sat := rnd }
/-- The pattern of the shuffles (R132). -/
def shflSpec (opc : BitVec 8) : Spec := { opc, shep := false, d := .g, a := .r32, b := .r32 }
/-- The pattern of atomics (R163). -/
def atomSpec (opc : BitVec 8) (a : SrcK) (ret cas own : Bool) : Spec :=
  { opc, a, scope := true, mods := fun _ => true, imm := .own anyImm,
    fields := fun o => scopeNotThr o && (!own || o.scope.toNat ≤ 2)
      && (if cas then o.mbits 0 4 == 0 else atomOk o) && (ret || o.mbits 5 2 == 0 || o.mbits 5 2 == 2),
    operands := fun _ o =>
      (if ret then (if o.mbit 4 then DstK.g64 else DstK.g).ok o.d else o.d == .zero)
        && (if o.mbit 4 then SrcK.r64 else SrcK.r32).ok o.b
        && (if cas then (if o.mbit 4 then SrcK.r64 else SrcK.r32).ok o.c else o.c == .zero) }
/-- The pattern of the copies (R179). A bell number without bell-valid is allowed and names nothing (DESIGN CHOICE, log 88). -/
def copySpec (opc : BitVec 8) : Spec :=
  { opc, d := .g128, a := .r64, b := .r32, c := .r32, mods := fun _ => true }
/-- The pattern of the matrix instructions that name a tile (R194, R197). -/
def tileSpec (opc : BitVec 8) (a b c : SrcK) (per : Nat → Bool) : Spec :=
  { opc, a, b, c, mods := fun _ => true, fields := fun o => per (o.mbits 4 3) }
/-- The pattern of MSTAT of one kind (R199). -/
def mstatSpec (a b : SrcK) (kind : Nat) : Spec :=
  { opc := 0xB7, d := .g, a, b, mods := fun m => m.toNat == 16 * kind }
/-- The pattern of CCTL of one operation (R210). -/
def cctlSpec (code : Nat) : Spec := { opc := 0xE4, a := .r64, b := .r32, mods := fun m => m.toNat == code }

/-- The use that an instruction makes of its word; none for BLK, which has its own layout, and for the steps that
are no instruction. -/
def Instr.spec : Instr → Option Spec
  | .nop _ => some { opc := 0x01 }
  | .br _ => some { opc := 0x03, shep := false, imm := .own anyImm }
  | .cbr _ => some { opc := 0x04, shep := false, a := .r32, imm := .own anyImm }
  | .ibr _ => some { opc := 0x05, shep := false, a := .r32 }
  | .call _ => some { opc := 0x06, shep := false, d := .creg, imm := .own anyImm }
  | .icall _ => some { opc := 0x07, shep := false, d := .creg, a := .r32 }
  | .ret _ => some { opc := 0x08, shep := false, a := .r32 }
  | .exit _ => some { opc := 0x09, shep := false, imm := .own fun w => w == 0 }
  | .join _ => some { opc := 0x0A, shep := false, imm := .own fun w => w == 0 }
  | .yield _ => some { opc := 0x0B, shep := false }
  | .sleep _ => some { opc := 0x0C, a := .r64, b := .r32 }
  | .bkpt _ => some { opc := 0x0D, imm := .own anyImm }
  | .probe _ => some { opc := 0x0E, d := .g }
  | .iadd _ => some (satSpec 0x10 .none)
  | .isub _ => some (satSpec 0x11 .none)
  | .imul _ => some (satSpec 0x12 .none)
  | .imulh _ => some (intSpec 0x13 .none)
  | .imad _ => some (satSpec 0x14 .r32)
  | .imadw _ => some { intSpec 0x15 .r64 with d := .g64 }
  | .imin _ => some (intSpec 0x16 .none)
  | .imax _ => some (intSpec 0x17 .none)
  | .iabs _ => some { opc := 0x18, d := .g, a := .r32 }
  | .iaddc _ => some { opc := 0x19, d := .g, a := .r32, b := .r32, c := .pred }
  | .isubb _ => some { opc := 0x1A, d := .g, a := .r32, b := .r32, c := .pred }
  | .idiv _ => some (intSpec 0x1B .none)
  | .irem _ => some (intSpec 0x1C .none)
  | .isad _ => some (intSpec 0x1D .r32)
  | .iclamp _ => some (intSpec 0x1E .r32)
  | .lea _ => some
    { opc := 0x1F, d := .g64, a := .r64, b := .r32,
      mods := fun m => m.toNat % 2 == 0 && decide (m.toNat < 8) }
  | .and _ => some (bitSpec 0x20 .r32 .none)
  | .or _ => some (bitSpec 0x21 .r32 .none)
  | .xor _ => some (bitSpec 0x22 .r32 .none)
  | .andn _ => some (bitSpec 0x23 .r32 .none)
  | .shl _ => some { bitSpec 0x24 .r32 .none with mods := lowMods 1 }
  | .shr _ => some { bitSpec 0x25 .r32 .none with mods := lowMods 1 }
  | .shra _ => some { bitSpec 0x26 .r32 .none with mods := lowMods 1 }
  | .rotl _ => some (bitSpec 0x27 .r32 .none)
  | .bfx _ => some (bitSpec 0x28 .r32 .none)
  | .bfi _ => some (bitSpec 0x29 .r32 .r32)
  | .popc _ => some (bitSpec 0x2A .none .none)
  | .clz _ => some (bitSpec 0x2B .none .none)
  | .brev _ => some (bitSpec 0x2C .none .none)
  | .lut3 _ => some { bitSpec 0x2D .r32 .r32 with imm := .own byteImm }
  | .bperm _ => some { bitSpec 0x2E .r32 .none with imm := .own fun w => w.toNat < 2 ^ 20 }
  | .fns _ => some (bitSpec 0x2F .r32 .none)
  | .icmp _ => some
    { opc := 0x30, d := .p, a := .r32, b := .r32, c := .r32, mods := fun _ => true,
      fields := fun o => o.mbits 0 4 ≤ 5,
      operands := fun _ o => if o.mbits 5 2 = 0 then o.c == .zero else o.c.isPred }
  | .fcmp _ => some
    { opc := 0x31, d := .p, a := .r32, b := .r32, c := .r32, mods := fun m => !m.getLsbD 4,
      fields := fun o => o.mbits 0 4 ≤ 13,
      operands := fun _ o => if o.mbits 5 2 = 0 then o.c == .zero else o.c.isPred }
  | .sel _ => some { opc := 0x32, d := .g, a := .r32, b := .r32, c := .pred }
  | .mov _ => some { opc := 0x33, d := .g, a := .r32 }
  | .movi _ => some { opc := 0x34, d := .g, a := .lit }
  | .mov64 _ => some { opc := 0x35, d := .g64, a := .r64 }
  | .pset _ => some { opc := 0x36, d := .p, a := .predZ, b := .predZ, c := .predZ, imm := .own byteImm }
  -- destination 0xF0 is neither form of R101; it counts as the first, so B must be 0xF0 (DEDUCED, log 40)
  | .pmov _ => some
    { opc := 0x37, d := .gp, a := .r32, b := .r32,
      operands := fun _ o => o.d.isPred || o.b == .zero }
  | .sread _ => some { opc := 0x38, d := .g, a := .special }
  | .add64 _ => some { opc := 0x39, d := .g64, a := .r64, b := .r64 }
  | .sub64 _ => some { opc := 0x3A, d := .g64, a := .r64, b := .r64 }
  | .shl64 _ => some { opc := 0x3B, d := .g64, a := .r64, b := .r32 }
  | .cmp64 _ => some
    { opc := 0x3C, d := .p, a := .r64, b := .r64, c := .r32, mods := fun _ => true,
      fields := fun o => o.mbits 0 4 ≤ 5,
      operands := fun _ o => if o.mbits 5 2 = 0 then o.c == .zero else o.c.isPred }
  | .fadd _ => some (fpSpec 0x40 2 true true)
  | .fsub _ => some (fpSpec 0x41 2 true true)
  | .fmul _ => some (fpSpec 0x42 2 true true)
  | .ffma _ => some (fpSpec 0x43 3 true true)
  | .fmin _ => some (fpSpec 0x44 2 false false)
  | .fmax _ => some (fpSpec 0x45 2 false false)
  | .frcp _ => some (fpSpec 0x46 1 true false)
  | .frsq _ => some (fpSpec 0x47 1 true false)
  | .fsqrt _ => some (fpSpec 0x48 1 true false)
  | .fex2 _ => some (fpSpec 0x49 1 true false)
  | .flg2 _ => some (fpSpec 0x4A 1 true false)
  | .fsin _ => some (fpSpec 0x4B 1 true false)
  | .fcos _ => some (fpSpec 0x4C 1 true false)
  | .frnd _ => some (fpSpec 0x4D 1 true false)
  | .fclass _ => some (fpSpec 0x4E 1 false false)
  | .fscale _ => some (fpSpec 0x4F 2 true true)
  | .cvt _ => some
    { opc := 0x50, shep := false, d := .g, a := .r32, b := .r32, c := .r32, fmt := some cvtFmt,
      rm := true, sat := true, mods := lowMods 5, operands := fun _ o => cvtFmt o.fmt2 }
  | .cvtb _ => some
    { opc := 0x51, shep := false, d := .g, a := .r32, b := .r32, c := .r32, fmt := some isScaled,
      rm := true, scope := true, mods := fun m => m.toNat % 32 == 0, imm := .own anyImm,
      fields := fun o => o.group ≤ 2 && o.scope == 1,
      operands := fun x o => !isMx o.fmt.toNat || (o.c == .zero && !x.compat) }
  | .cvtd _ => some
    { opc := 0x52, shep := false, d := .g, a := .r32, b := .r32, c := .r32, fmt := some isScaled,
      rm := true, operands := fun _ o => !isMx o.fmt.toNat || o.c == .zero }
  | .pkadd _ => some (pkSpec 0x53 .none true)
  | .pkmul _ => some (pkSpec 0x54 .none true)
  | .pkfma _ => some (pkSpec 0x55 .r32 true)
  | .pkmin _ => some (pkSpec 0x56 .none false)
  | .pkmax _ => some (pkSpec 0x57 .none false)
  | .dot4 _ => some
    { opc := 0x58, shep := false, d := .g, a := .r32, b := .r32, c := .r32, fmt := some isDot4,
      mods := lowMods 5, operands := fun _ o => isDot4 o.fmt2 }
  | .dot8 _ => some
    { opc := 0x59, shep := false, d := .g, a := .r32, b := .r32, c := .r32, fmt := some isDot8,
      mods := lowMods 5, operands := fun _ o => isDot8 o.fmt2 }
  | .lnsm _ => some { opc := 0x5A, shep := false, d := .g, a := .r32, b := .r32, fmt := some isLns }
  | .lnsa _ => some { opc := 0x5B, shep := false, d := .g, a := .r32, b := .r32, fmt := some isLns, rm := true }
  | .tdot _ => some
    { opc := 0x5C, shep := false, d := .g, a := .r32, b := .r32, c := .r32, fmt := some (· == 15),
      mods := fun _ => true, fields := fun o => o.group < (if isTdotB o.fmt2 then 16 / perReg o.fmt2 else 3),
      operands := fun _ o => isTdotB o.fmt2 }
  | .rngk _ => some { opc := 0x5D, d := .g, a := .r32, b := .r32 }
  | .fdiv _ => some { opc := 0x5E, shep := false, d := .g, a := .r32, b := .r32, rm := true }
  | .shfl _ => some (shflSpec 0x60)
  | .shflu _ => some (shflSpec 0x61)
  | .shfld _ => some (shflSpec 0x62)
  | .shflx _ => some (shflSpec 0x63)
  | .vall _ => some { opc := 0x64, shep := false, d := .pz, a := .r32 }
  | .vany _ => some { opc := 0x65, shep := false, d := .pz, a := .r32 }
  | .ballot _ => some { opc := 0x66, shep := false, d := .gp, a := .r32, operands := fun x o => (maskDst x).ok o.d }
  | .tred _ => some
    { opc := 0x67, shep := false, d := .g, a := .r32, rm := true, mods := lowMods 4,
      fields := fun o => o.mbits 0 4 ≤ 10 && (o.mbits 0 4 == 8 || o.rm == 0) }
  | .tscan _ => some
    { opc := 0x68, shep := false, d := .g, a := .r32, rm := true, mods := lowMods 5,
      fields := fun o => o.mbits 0 4 ≤ 10 && (o.mbits 0 4 == 8 || o.rm == 0) }
  | .matchT _ => some { opc := 0x69, shep := false, d := .gp, a := .r32, operands := fun x o => (maskDst x).ok o.d }
  | .elect _ => some { opc := 0x6A, shep := false, d := .pz }
  | .tvote _ => some { opc := 0x6B, shep := false, a := .r32, b := .r32 }
  | .ld _ => some
    { opc := 0x70, d := .gp, a := .r64, scope := true, mods := fun _ => true, imm := .own anyImm,
      fields := fun o => o.size ≤ 4 && signOk o && (!o.mbit 6 || scopeNotThr o),
      operands := fun _ o => (dataDst o).ok o.d }
  | .st _ => some
    { opc := 0x71, a := .r64, b := .r32, scope := true, mods := fun _ => true, imm := .own anyImm,
      fields := fun o => o.size ≤ 4 && !o.mbit 3 && (!o.mbit 6 || scopeNotThr o),
      operands := fun _ o => (dataSrc o).ok o.b }
  | .lds _ => some
    { opc := 0x72, d := .gp, a := .r32, mods := lowMods 4, imm := .own anyImm,
      fields := fun o => o.size ≤ 4 && signOk o, operands := fun _ o => (dataDst o).ok o.d }
  | .sts _ => some
    { opc := 0x73, a := .r32, b := .r32, mods := lowMods 3, imm := .own anyImm,
      fields := fun o => o.size ≤ 4, operands := fun _ o => (dataSrc o).ok o.b }
  | .ldsx _ => some
    { opc := 0x74, shep := false, d := .g, a := .r32, b := .r32,
      mods := fun m => m.toNat % 64 == 2, imm := .own anyImm }
  | .stsx _ => some
    { opc := 0x75, shep := false, a := .r32, b := .r32, c := .r32,
      mods := fun m => m.toNat % 64 == 2, imm := .own anyImm }
  | .ldk _ => some
    { opc := 0x76, d := .gp, a := .r32, mods := lowMods 3, imm := .own anyImm,
      fields := fun o => 2 ≤ o.size && o.size ≤ 4, operands := fun _ o => (dataDst o).ok o.d }
  | .pref _ => some
    { opc := 0x77, a := .r64, mods := fun m => m.toNat % 16 == 0 && m.toNat < 64, imm := .own anyImm,
      fields := fun o => o.mbits 4 2 != 1 }
  | .spop _ => some
    { opc := 0x78, shep := false, d := .gp, a := .r32, mods := lowMods 3, imm := .own anyImm,
      fields := fun o => 2 ≤ o.size && o.size ≤ 4, operands := fun _ o => (dataDst o).ok o.d }
  | .ldgs _ => some
    { opc := 0x79, shep := false, a := .r64, b := .r32, c := .r32,
      mods := fun m => m.toNat < 64 && !m.getLsbD 3, imm := .own anyImm, fields := fun o => 2 ≤ o.size && o.size ≤ 4 }
  | .atom _ => some { atomSpec 0x80 .r64 true false false with d := .gp, b := .r32 }
  | .atomc _ => some { atomSpec 0x81 .r64 true true false with d := .gp, b := .r32, c := .r32 }
  | .red _ => some { atomSpec 0x82 .r64 false false false with d := .gp, b := .r32 }
  | .atoms _ => some { atomSpec 0x83 .r32 true false true with d := .gp, b := .r32 }
  | .atomsc _ => some { atomSpec 0x84 .r32 true true true with d := .gp, b := .r32, c := .r32 }
  | .reds _ => some { atomSpec 0x85 .r32 false false true with d := .gp, b := .r32 }
  | .coll _ => some
    { opc := 0x86, d := .g, a := .r64, scope := true, mods := fun _ => true, imm := .own anyImm,
      fields := collOk }
  | .fence _ => some { opc := 0x90, scope := true, mods := fun m => 1 ≤ m.toNat && m.toNat ≤ 3, fields := scopeNotThr }
  | .xfence _ => some
    { opc := 0x91, scope := true, mods := lowMods 6,
      fields := fun o => scopeNotThr o && o.mbits 0 3 ≤ 4 && o.mbits 3 3 ≤ 4,
      operands := fun _ o => o.mbits 0 3 != o.mbits 3 3 }
  | .binit _ => some { opc := 0x92, a := .r32, b := .r32 }
  | .barv _ => some { opc := 0x93, d := .g, a := .r32, b := .r32 }
  | .bwait _ => some { opc := 0x94, d := .g, a := .r32, b := .r32 }
  | .btest _ => some { opc := 0x95, d := .gp, a := .r32, b := .r32 }
  | .bexp _ => some { opc := 0x96, a := .r32, b := .r32 }
  | .chinit _ => some { opc := 0x97, a := .r32, b := .r32, c := .r32 }
  | .chpush _ => some { opc := 0x98, a := .r32, b := .r32 }
  | .chpop _ => some { opc := 0x99, d := .g, a := .r32 }
  | .chtry _ => some { opc := 0x9A, d := .g, a := .r32 }
  | .chclose _ => some { opc := 0x9B, a := .r32 }
  | .cpy _ => some (copySpec 0xA0)
  | .cpyt _ => some (copySpec 0xA1)
  | .cpysc _ => some (copySpec 0xA2)
  | .cpymx _ => some (copySpec 0xA3)
  | .strm _ => some { opc := 0xA4, d := .g, a := .r64, b := .r32 }
  | .strmx _ => some { opc := 0xA5, d := .g, a := .r64, b := .r32 }
  | .cpyr _ => some (copySpec 0xA6)
  | .mcfg _ => some { opc := 0xB0, a := .r32, b := .r32, c := .r64 }
  | .mma _ => some (tileSpec 0xB1 .r32 .r32 .none (· ≤ 1))
  | .mmag _ => some (tileSpec 0xB2 .r32 .r32 .r32 (· ≤ 1))
  | .mmas _ => some (tileSpec 0xB3 .r32 .r32 .r32 (· ≤ 1))
  | .mzero _ => some (tileSpec 0xB4 .none .none .none (· == 0))
  | .mload _ => some (tileSpec 0xB5 .r32 .r32 .none (· == 0))
  | .mloadSc _ => some { opc := 0xB5, a := .r32, b := .r32, c := .r32, mods := fun m => m.toNat == 16 }
  | .mstore _ => some { tileSpec 0xB6 .r32 .r32 .none (· ≤ 1) with fmt := some (fun _ => true), rm := true, sat := true }
  | .mstat _ => some (mstatSpec .none .none 0)
  | .mstatSet _ => some (mstatSpec .r32 .r32 1)
  | .mstatSync _ => some (mstatSpec .none .none 2)
  | .mstatList _ => some (mstatSpec .r32 .none 3)
  | .modrain _ => some { opc := 0xB8, d := .g, a := .r32, b := .r32 }
  | .sbr _ => some { opc := 0xC0, drove := false, a := .r32, imm := .own anyImm }
  | .sjmp _ => some { opc := 0xC1, drove := false, imm := .own anyImm }
  | .sloop _ => some
    { opc := 0xC2, drove := false, d := .sreg, a := .r32, imm := .own anyImm,
      operands := fun _ o => o.d == o.a }
  | .spawn _ => some { opc := 0xC3, drove := false, d := .g, a := .r32, b := .r32, c := .r32 }
  | .dpush _ => some { opc := 0xC4, drove := false, d := .g, a := .r32, b := .r32 }
  | .dpop _ => some { opc := 0xC5, shep := false, d := .g, a := .r32 }
  | .swait _ => some { opc := 0xC6, drove := false, d := .g, a := .r32 }
  | .scond _ => some { opc := 0xC7, drove := false, d := .g64, a := .r32 }
  | .shalt _ => some { opc := 0xC8, drove := false }
  | .enq _ => some { opc := 0xD0, d := .g, a := .r64, b := .r32 }
  | .recN _ => some { opc := 0xD1, shep := false, a := .r32, b := .r32, c := .r32 }
  | .cntadd _ => some { opc := 0xD2, a := .r64, b := .r32 }
  | .cntwait _ => some { opc := 0xD3, d := .g64, a := .r64, b := .r64 }
  | .cancel _ => some { opc := 0xD4, d := .g, a := .r32, mods := lowMods 2 }
  | .trap _ => some { opc := 0xE0, imm := .own byteImm }
  | .tret _ => some { opc := 0xE1 }
  | .srd _ => some { opc := 0xE2, d := .g, imm := .own sysImm }
  | .swr _ => some { opc := 0xE3, a := .r32, imm := .own sysImm, operands := fun _ o => !isRoSysReg o.imm.toNat }
  | .cctlWb _ => some (cctlSpec 1)
  | .cctlInv _ => some (cctlSpec 2)
  | .cctlFarinv _ => some (cctlSpec 3)
  | .cctlIcinv _ => some (cctlSpec 4)
  | .tlbi _ => some { opc := 0xE5, a := .r64, b := .r32 }
  | .halt _ => some { opc := 0xE6, a := .r32 }
  | _ => none

/-- Check 4 of R79 on an instruction word's fields. -/
def Spec.check4 (p : Spec) (o : Op) : Bool :=
  (o.ctl.setv || o.ctl.set == 0)
    && (o.guard.en || (!o.guard.neg && o.guard.pred == 0))
    && (p.fmt.isSome || o.fmt == 0)
    && (if p.rm then o.rm.toNat ≤ 4 else o.rm == 0)
    && (p.sat || !o.sat)
    && (if p.scope then o.scope.toNat ≤ 5 else o.scope == 0)
    && p.mods o.mods
    && (match p.imm with
        | .operand => o.namesImm || o.imm == 0
        | .own ok => ok o.imm)
    && p.fields o

/-- The immediate has no meaning of the opcode's own, or no source names it (check 5 of R79, R74). -/
def Spec.immFree (p : Spec) (o : Op) : Bool :=
  match p.imm with
  | .operand => true
  | .own _ => !o.namesImm

/-- Check 5 of R79 on an instruction word's fields. -/
def Spec.check5 (p : Spec) (x : Ctx) (o : Op) : Bool :=
  o.d.forAgent x.shep && o.a.forAgent x.shep && o.b.forAgent x.shep && o.c.forAgent x.shep
    && p.immFree o && p.d.ok o.d && p.a.ok o.a && p.b.ok o.b && p.c.ok o.c
    && (match p.fmt with
        | some ok => ok o.fmt.toNat
        | none => true)
    && p.operands x o

/-- The opcodes that a level 2 launch does not have (R306). -/
def level3Only (opc : BitVec 8) : Bool :=
  opc == 0x5C || opc == 0x5A || opc == 0x5B || opc == 0x79 || opc == 0x86 || opc == 0xA3 || opc == 0xA5
    || opc == 0xB2 || opc == 0xD1

/-- The fields of an instruction other than BLK. -/
def Instr.op? : Instr → Option Op
  | .nop o | .br o | .cbr o | .ibr o | .call o | .icall o | .ret o | .exit o | .join o | .yield o | .sleep o
  | .bkpt o | .probe o | .iadd o | .isub o | .imul o | .imulh o | .imad o | .imadw o | .imin o | .imax o | .iabs o
  | .iaddc o | .isubb o | .idiv o | .irem o | .isad o | .iclamp o | .lea o | .and o | .or o | .xor o | .andn o
  | .shl o | .shr o | .shra o | .rotl o | .bfx o | .bfi o | .popc o | .clz o | .brev o | .lut3 o | .bperm o | .fns o
  | .icmp o | .fcmp o | .sel o | .mov o | .movi o | .mov64 o | .pset o | .pmov o | .sread o | .add64 o | .sub64 o
  | .shl64 o | .cmp64 o | .fadd o | .fsub o | .fmul o | .ffma o | .fmin o | .fmax o | .frcp o | .frsq o | .fsqrt o
  | .fex2 o | .flg2 o | .fsin o | .fcos o | .frnd o | .fclass o | .fscale o | .cvt o | .cvtb o | .cvtd o | .pkadd o
  | .pkmul o | .pkfma o | .pkmin o | .pkmax o | .dot4 o | .dot8 o | .lnsm o | .lnsa o | .tdot o | .rngk o | .fdiv o
  | .shfl o | .shflu o | .shfld o | .shflx o | .vall o | .vany o | .ballot o | .tred o | .tscan o | .matchT o
  | .elect o | .tvote o | .ld o | .st o | .lds o | .sts o | .ldsx o | .stsx o | .ldk o | .pref o | .spop o | .ldgs o
  | .atom o | .atomc o | .red o | .atoms o | .atomsc o | .reds o | .coll o | .fence o | .xfence o | .binit o | .barv o
  | .bwait o | .btest o | .bexp o | .chinit o | .chpush o | .chpop o | .chtry o | .chclose o | .cpy o | .cpyt o
  | .cpysc o | .cpymx o | .strm o | .strmx o | .cpyr o | .mcfg o | .mma o | .mmag o | .mmas o | .mzero o | .mload o
  | .mloadSc o | .mstore o | .mstat o | .mstatSet o | .mstatSync o | .mstatList o | .modrain o | .sbr o | .sjmp o
  | .sloop o | .spawn o | .dpush o | .dpop o | .swait o | .scond o | .shalt o | .enq o | .recN o | .cntadd o
  | .cntwait o | .cancel o | .trap o | .tret o | .srd o | .swr o | .cctlWb o | .cctlInv o | .cctlFarinv o
  | .cctlIcinv o | .tlbi o | .halt o => some o
  | _ => none

/-- BLK's word is well formed: nothing but the mask, the two bits and the control word (R119). -/
def blkCtlOk (c : Ctl) : Bool := c.setv || c.set == 0

/-- An instruction that passes the checks 2 to 5 of R79 in a context. -/
def Instr.wf (x : Ctx) : Instr → Bool
  | .blk ctl _ _ _ => !x.shep && blkCtlOk ctl
  | i => match i.spec, i.op? with
    | some p, some o =>
      !(x.level2 && level3Only p.opc) && (if x.shep then p.shep else p.drove) && p.check4 o && p.check5 x o
    | _, _ => false

end Sys2Proof
end

