-- ==== Sys2Proof/Decode.lean ====
section
/-! DEFINITION. From the 128 bits of a word to an instruction, in the order of the checks of R79, and back. -/

namespace Sys2Proof

/-- Why a word is no instruction, by the check of R79 that decides. -/
inductive Reject where
  | zeroOrFF        -- check 1: cause 0x01 in every mode
  | reservedOpcode  -- check 2: cause 0x01, or a NOP in probe mode (R80)
  | wrongAgent      -- check 3: cause 0x01
  | badField        -- check 4: cause 0x01
  | badOperand      -- check 5: cause 0x02
  deriving DecidableEq, Repr, Inhabited

/-- Bits `lo + n − 1` down to `lo` of a word. -/
def bits (w : IWord) (lo n : Nat) : BitVec n := w.extractLsb' lo n
def bitAt (w : IWord) (i : Nat) : Bool := w.getLsbD i

def specialOf (n : Nat) : Special :=
  match n with
  | 0 => .tid | 1 => .lane | 2 => .team | 3 => .teamlane | 4 => .nthreads | 5 => .cyclelo | 6 => .cyclehi
  | 7 => .launchid | 8 => .cls | 9 => .corerow | 10 => .corecol | 11 => .chiplet | 12 => .tcause | 13 => .taddrlo
  | 14 => .taddrhi | 15 => .tpc | _ => .probeflag

def specialCode : Special → Nat
  | .tid => 0 | .lane => 1 | .team => 2 | .teamlane => 3 | .nthreads => 4 | .cyclelo => 5 | .cyclehi => 6
  | .launchid => 7 | .cls => 8 | .corerow => 9 | .corecol => 10 | .chiplet => 11 | .tcause => 12 | .taddrlo => 13
  | .taddrhi => 14 | .tpc => 15 | .probeflag => 16

/-- An operand code in a drove (R71) or in the shepherd (R73). -/
def decodeOpnd (shep : Bool) (code : BitVec 8) : Opnd :=
  let n := code.toNat
  if n < 0x40 then (if shep then .s (code.setWidth 6) else .w (code.setWidth 6))
  else if n < 0x80 then (if shep then .resv code else .c (code.setWidth 6))
  else if n < 0xA0 then .k (code.setWidth 5)
  else if n < 0xC0 then (if shep then .resv code else .snap (code.setWidth 5))
  else if n < 0xC8 then (if shep then .sp (code.setWidth 3) else .p (code.setWidth 3))
  else if n < 0xD9 then .spec (specialOf (n - 0xC8))
  else if n = 0xF0 then .zero
  else if n = 0xF1 then .imm
  else .resv code

/-- The code of an operand (R71 to R73). -/
def encodeOpnd : Opnd → BitVec 8
  | .w n | .s n => n.setWidth 8
  | .c n => 0x40#8 + n.setWidth 8
  | .k n => 0x80#8 + n.setWidth 8
  | .snap n => 0xA0#8 + n.setWidth 8
  | .p n | .sp n => 0xC0#8 + n.setWidth 8
  | .spec r => 0xC8#8 + BitVec.ofNat 8 (specialCode r)
  | .zero => 0xF0#8
  | .imm => 0xF1#8
  | .resv code => code

/-- The control word (R63) but for its reserved bits. -/
def decodeCtl (w : IWord) : Ctl :=
  { wait := bits w 120 8, set := bits w 117 3, setv := bitAt w 116, gap := bits w 111 5, cede := bitAt w 110,
    drain := bitAt w 109, hold := bits w 106 3 }

/-- The fields of R70. -/
def decodeOp (shep : Bool) (w : IWord) : Op :=
  { ctl := decodeCtl w
    guard := { en := bitAt w 55, neg := bitAt w 54, pred := bits w 51 3 }
    d := decodeOpnd shep (bits w 80 8)
    a := decodeOpnd shep (bits w 72 8)
    b := decodeOpnd shep (bits w 64 8)
    c := decodeOpnd shep (bits w 56 8)
    fmt := bits w 46 5
    rm := bits w 43 3
    sat := bitAt w 42
    scope := bits w 39 3
    mods := bits w 32 7
    imm := bits w 0 32 }

/-- The instruction of an opcode (R78), or none where the opcode is reserved. MLOAD, MSTAT and CCTL are divided by
their modifiers as the table of steps divides them. -/
def ofOpcode (opc : Nat) (o : Op) : Option Instr :=
  match opc with
  | 0x01 => some (.nop o) | 0x03 => some (.br o) | 0x04 => some (.cbr o) | 0x05 => some (.ibr o)
  | 0x06 => some (.call o) | 0x07 => some (.icall o) | 0x08 => some (.ret o) | 0x09 => some (.exit o)
  | 0x0A => some (.join o) | 0x0B => some (.yield o) | 0x0C => some (.sleep o) | 0x0D => some (.bkpt o)
  | 0x0E => some (.probe o)
  | 0x10 => some (.iadd o) | 0x11 => some (.isub o) | 0x12 => some (.imul o) | 0x13 => some (.imulh o)
  | 0x14 => some (.imad o) | 0x15 => some (.imadw o) | 0x16 => some (.imin o) | 0x17 => some (.imax o)
  | 0x18 => some (.iabs o) | 0x19 => some (.iaddc o) | 0x1A => some (.isubb o) | 0x1B => some (.idiv o)
  | 0x1C => some (.irem o) | 0x1D => some (.isad o) | 0x1E => some (.iclamp o) | 0x1F => some (.lea o)
  | 0x20 => some (.and o) | 0x21 => some (.or o) | 0x22 => some (.xor o) | 0x23 => some (.andn o)
  | 0x24 => some (.shl o) | 0x25 => some (.shr o) | 0x26 => some (.shra o) | 0x27 => some (.rotl o)
  | 0x28 => some (.bfx o) | 0x29 => some (.bfi o) | 0x2A => some (.popc o) | 0x2B => some (.clz o)
  | 0x2C => some (.brev o) | 0x2D => some (.lut3 o) | 0x2E => some (.bperm o) | 0x2F => some (.fns o)
  | 0x30 => some (.icmp o) | 0x31 => some (.fcmp o) | 0x32 => some (.sel o) | 0x33 => some (.mov o)
  | 0x34 => some (.movi o) | 0x35 => some (.mov64 o) | 0x36 => some (.pset o) | 0x37 => some (.pmov o)
  | 0x38 => some (.sread o) | 0x39 => some (.add64 o) | 0x3A => some (.sub64 o) | 0x3B => some (.shl64 o)
  | 0x3C => some (.cmp64 o)
  | 0x40 => some (.fadd o) | 0x41 => some (.fsub o) | 0x42 => some (.fmul o) | 0x43 => some (.ffma o)
  | 0x44 => some (.fmin o) | 0x45 => some (.fmax o) | 0x46 => some (.frcp o) | 0x47 => some (.frsq o)
  | 0x48 => some (.fsqrt o) | 0x49 => some (.fex2 o) | 0x4A => some (.flg2 o) | 0x4B => some (.fsin o)
  | 0x4C => some (.fcos o) | 0x4D => some (.frnd o) | 0x4E => some (.fclass o) | 0x4F => some (.fscale o)
  | 0x50 => some (.cvt o) | 0x51 => some (.cvtb o) | 0x52 => some (.cvtd o) | 0x53 => some (.pkadd o)
  | 0x54 => some (.pkmul o) | 0x55 => some (.pkfma o) | 0x56 => some (.pkmin o) | 0x57 => some (.pkmax o)
  | 0x58 => some (.dot4 o) | 0x59 => some (.dot8 o) | 0x5A => some (.lnsm o) | 0x5B => some (.lnsa o)
  | 0x5C => some (.tdot o) | 0x5D => some (.rngk o) | 0x5E => some (.fdiv o)
  | 0x60 => some (.shfl o) | 0x61 => some (.shflu o) | 0x62 => some (.shfld o) | 0x63 => some (.shflx o)
  | 0x64 => some (.vall o) | 0x65 => some (.vany o) | 0x66 => some (.ballot o) | 0x67 => some (.tred o)
  | 0x68 => some (.tscan o) | 0x69 => some (.matchT o) | 0x6A => some (.elect o) | 0x6B => some (.tvote o)
  | 0x70 => some (.ld o) | 0x71 => some (.st o) | 0x72 => some (.lds o) | 0x73 => some (.sts o)
  | 0x74 => some (.ldsx o) | 0x75 => some (.stsx o) | 0x76 => some (.ldk o) | 0x77 => some (.pref o)
  | 0x78 => some (.spop o) | 0x79 => some (.ldgs o)
  | 0x80 => some (.atom o) | 0x81 => some (.atomc o) | 0x82 => some (.red o) | 0x83 => some (.atoms o)
  | 0x84 => some (.atomsc o) | 0x85 => some (.reds o) | 0x86 => some (.coll o)
  | 0x90 => some (.fence o) | 0x91 => some (.xfence o) | 0x92 => some (.binit o) | 0x93 => some (.barv o)
  | 0x94 => some (.bwait o) | 0x95 => some (.btest o) | 0x96 => some (.bexp o) | 0x97 => some (.chinit o)
  | 0x98 => some (.chpush o) | 0x99 => some (.chpop o) | 0x9A => some (.chtry o) | 0x9B => some (.chclose o)
  | 0xA0 => some (.cpy o) | 0xA1 => some (.cpyt o) | 0xA2 => some (.cpysc o) | 0xA3 => some (.cpymx o)
  | 0xA4 => some (.strm o) | 0xA5 => some (.strmx o) | 0xA6 => some (.cpyr o)
  | 0xB0 => some (.mcfg o) | 0xB1 => some (.mma o) | 0xB2 => some (.mmag o) | 0xB3 => some (.mmas o)
  | 0xB4 => some (.mzero o)
  | 0xB5 => some (if o.mbits 4 3 = 1 then .mloadSc o else .mload o)
  | 0xB6 => some (.mstore o)
  | 0xB7 => some (if o.mbits 4 3 = 1 then .mstatSet o else if o.mbits 4 3 = 2 then .mstatSync o
      else if o.mbits 4 3 = 3 then .mstatList o else .mstat o)
  | 0xB8 => some (.modrain o)
  | 0xC0 => some (.sbr o) | 0xC1 => some (.sjmp o) | 0xC2 => some (.sloop o) | 0xC3 => some (.spawn o)
  | 0xC4 => some (.dpush o) | 0xC5 => some (.dpop o) | 0xC6 => some (.swait o) | 0xC7 => some (.scond o)
  | 0xC8 => some (.shalt o)
  | 0xD0 => some (.enq o) | 0xD1 => some (.recN o) | 0xD2 => some (.cntadd o) | 0xD3 => some (.cntwait o)
  | 0xD4 => some (.cancel o)
  | 0xE0 => some (.trap o) | 0xE1 => some (.tret o) | 0xE2 => some (.srd o) | 0xE3 => some (.swr o)
  | 0xE4 => some (if o.mbits 0 4 = 2 then .cctlInv o else if o.mbits 0 4 = 3 then .cctlFarinv o
      else if o.mbits 0 4 = 4 then .cctlIcinv o else .cctlWb o)
  | 0xE5 => some (.tlbi o) | 0xE6 => some (.halt o)
  | _ => none

/-- BLK's own layout (R119). -/
def decodeBlk (w : IWord) : Instr :=
  .blk (decodeCtl w) (bits w 56 32 ++ bits w 0 32) (bitAt w 32) (bitAt w 33)

/-- The bits of a BLK that must be zero: 55:34 (R119). -/
def blkRest (w : IWord) : Bool := bits w 34 22 == 0

/-- A word, in a context, in the order of R79. -/
def decodeWord (x : Ctx) (w : IWord) : Except Reject Instr :=
  let opc := bits w 88 8
  if w = 0 ∨ opc = 0xFF then .error .zeroOrFF
  else if opc = 0x02 then
    if x.shep then .error .wrongAgent
    else if bits w 96 10 ≠ 0 ∨ !blkCtlOk (decodeCtl w) ∨ !blkRest w then .error .badField
    else .ok (decodeBlk w)
  else match ofOpcode opc.toNat (decodeOp x.shep w) with
    | none => .error .reservedOpcode
    | some i =>
      if x.level2 ∧ level3Only opc then .error .reservedOpcode
      else match i.spec with
        | none => .error .reservedOpcode
        | some p =>
          if !(if x.shep then p.shep else p.drove) then .error .wrongAgent
          else if bits w 96 10 ≠ 0 ∨ !p.check4 (decodeOp x.shep w) then .error .badField
          else if !p.check5 x (decodeOp x.shep w) then .error .badOperand
          else .ok i

/-- The control word as bits 127:96. -/
def encodeCtl (c : Ctl) : BitVec 32 :=
  c.wait ++ c.set ++ BitVec.ofBool c.setv ++ c.gap ++ BitVec.ofBool c.cede ++ BitVec.ofBool c.drain ++ c.hold ++ 0#10

/-- The word of an opcode and its fields. -/
def encodeOp (opc : BitVec 8) (o : Op) : IWord :=
  encodeCtl o.ctl ++ opc ++ encodeOpnd o.d ++ encodeOpnd o.a ++ encodeOpnd o.b ++ encodeOpnd o.c
    ++ BitVec.ofBool o.guard.en ++ BitVec.ofBool o.guard.neg ++ o.guard.pred ++ o.fmt ++ o.rm
    ++ BitVec.ofBool o.sat ++ o.scope ++ o.mods ++ o.imm

/-- The word of an instruction; none for a step that is no instruction. -/
def encode (i : Instr) : Option IWord :=
  match i with
  | .blk ctl live team landing =>
    some (encodeCtl ctl ++ (0x02#8) ++ bits (live.setWidth 128) 32 32 ++ 0#22 ++ BitVec.ofBool landing
      ++ BitVec.ofBool team ++ bits (live.setWidth 128) 0 32)
  | i => match i.spec, i.op? with
    | some p, some o => some (encodeOp p.opc o)
    | _, _ => none

/-- The n bytes of a value, least significant first (R5). -/
def bytesLE : Nat → Nat → List Byte
  | 0, _ => []
  | n + 1, v => BitVec.ofNat 8 v :: bytesLE n (v / 256)

/-- The value of a list of bytes, least significant first (R5). -/
def ofBytesLE : List Byte → Nat
  | [] => 0
  | b :: bs => b.toNat + 256 * ofBytesLE bs

/-- Sixteen bytes as a word (R62). -/
def wordOfBytes (bs : List Byte) : IWord := BitVec.ofNat 128 (ofBytesLE bs)

/-- A word in the contexts in which its opcode can be valid: a drove first, then a shepherd. -/
def decodeAny (w : IWord) : Option Instr :=
  match decodeWord Ctx.drove w with
  | .ok i => some i
  | .error _ => match decodeWord Ctx.shepherd w with
    | .ok i => some i
    | .error _ => none

/-- The instruction read from a word of the opcode table. Every instruction is one word of 16 bytes, and bits above
`nbits` are zero. -/
def decodeTableWord (nbits w : Nat) : Option Instr :=
  if nbits ≤ 128 then decodeAny (wordOfBytes (bytesLE 16 (w % 2 ^ nbits))) else none

end Sys2Proof
end

