-- ==== Sys2Proof/Machine/State.lean ====
section
/-! DEFINITION. The state of one package, as plain data, its faults and refusals, and the state after reset. The
host's registers of BAR 0 stand in `Front.regs` keyed by their offset; `regReset` of Mem gives their resets. -/

namespace Sys2Proof.Machine

/-- Why a step stops the machine. -/
inductive Fault where
  /-- An instruction was given to `exec` with no drove or shepherd granted its issue (`State.cur`). Raised by every
  instruction's meaning; no step of `step` raises it. Safe: the model stops where the hardware does nothing. -/
  | noIssuer
  deriving DecidableEq, Repr

/-- Why a step has no meaning. -/
inductive Refusal where
  /-- The instruction of this mnemonic has no meaning in the model yet. Safe. -/
  | notModelled (mnemonic : String)
  deriving DecidableEq, Repr

/-- A drove or a shepherd: the core, and the number the model gives it there. -/
structure AgentRef where
  core : Nat
  id   : Nat
  deriving DecidableEq, Repr, Inhabited

/-- A register that a result is bound for. In the shepherd `w` and `p` are its s and sp registers. -/
inductive Reg where
  | w (n : Nat)
  | c (n : Nat)
  | p (n : Nat)
  deriving DecidableEq, Repr, Inhabited

/-- One register of one lane to be written. -/
structure LaneWrite where
  lane : Nat
  reg  : Reg
  val  : Word
  deriving DecidableEq, Repr, Inhabited

/-- A result that has not landed (R64 to R68): the scoreboard it counts on, the cycle from which it has landed
(classes F4 and F6), or none (class V), the remote requests that still have data for it, and its writes. -/
structure Pend where
  sb     : Option Nat
  due    : Option Nat
  await  : List Nat
  regs   : List Reg
  writes : List LaneWrite
  deriving DecidableEq, Repr, Inhabited

/-- How a thread leaves its block (R123, R124). -/
inductive ExitKind where
  | plain      -- fall-through, BR, CBR, a failed guard
  | join       -- JOIN whose guard holds
  | ret        -- RET
  | ibr        -- IBR
  | call (creg : Nat) (retAddr : Word)
  | icall (creg : Nat) (retAddr : Word)
  | exit       -- EXIT
  deriving DecidableEq, Repr, Inhabited

/-- The park record of a thread (R124, R202, R229). `acc` and `path` are the kind and the path of the access as a fault record codes them (R322),
`target` is kept for a park at block exit, `tframe` is TFRAME as it stood when the thread parked (R209, R213). -/
structure Park where
  cause  : BitVec 8
  word   : DWord
  blk    : DWord
  addr   : DWord
  acc    : Nat
  path   : Nat
  tframe : DWord
  target : Option (DWord × ExitKind)
  deriving DecidableEq, Repr, Inhabited

/-- One lane of a drove (R18, R220), or the shepherd's one. `seed` names the free values of its registers, and `bad` lists the w
registers that hold uncorrectable data (R363). -/
structure Lane where
  tid     : Nat
  zeroed  : Bool
  seed    : Nat
  w       : Tab Word
  p       : Tab Bool
  cw      : Tab Word
  bad     : List Nat
  parking : Option Park
  exit    : Option (DWord × ExitKind)
  deriving DecidableEq, Repr, Inhabited

/-- What a drove or shepherd waits for. The instruction has had no effect yet, and issues again when the wait ends. `sleep`
names the value of `State.cycles` at which the core's counter reaches the target; `bell` lists the lanes that still wait, with the bell and the parity of each; `chute` the chutes of a CHPUSH or a CHPOP with how
many lanes name each, `dpop` the sequence numbers of a DPOP, `cvtb` is that of a CVTB whose appends stand in the matrix queue, and `fence` the bytes whose stores are awaited, none for every store
that had issued. -/
inductive Wait where
  | bell (ws : List (Nat × Nat × Bool))
  | chute (push : Bool) (needs : List (Nat × Nat))
  | dpop (seqs : List Word)
  | spawn | dpush | swait | cntwait | copySlot | queue | modrain | sync | node
  | stream | fault | bias | cvtb
  | fence (spans : List (Nat × Nat))
  | scond (a : Word)
  | halt (part : Nat)
  | sleep (until_ : Nat) (tickets : Tab Word)
  | yield (until_ : Nat)
  | remote
  deriving DecidableEq, Repr, Inhabited

/-- What a fetch brought: the bytes, or a fault. -/
inductive Elem where
  | data (bytes : List Byte)
  | fault (cause : BitVec 8) (addr : DWord)
  deriving DecidableEq, Repr, Inhabited

/-- A drove (R220) or a shepherd (R233). `cede` is the pipe whose next issue cycle it gave away, `pipe` the one that granted
it last (B if true); `stalled`: this instruction has counted in HINTMISS; `opnds`: the core's counter and the lanes when an
instruction that waits at issue read its operands; `mark`: which of its core's stores an instruction awaits, as those with lower
numbers; `got`: by lane, what other packages have answered to the reads that its instruction makes before it acts. -/
structure Agent where
  shep    : Bool
  lid     : Nat
  quad    : Nat
  slots   : Nat
  size    : Nat
  pc      : DWord
  blk     : DWord
  team    : Bool
  resume  : Bool
  lanes   : Tab Lane
  snap    : Tab Word
  tn      : Word
  formed  : Nat
  pending : List Pend
  next    : Nat
  drain   : Bool
  cede    : Option Bool
  pipe    : Bool
  wait    : Option Wait
  opnds   : Option (Nat × Tab Lane)
  mark    : Option Nat
  got     : Tab Elem
  served  : Tab Word
  stalled : Bool
  ended   : Bool
  livein  : List Nat
  demand  : List Nat
  fetched : List Nat
  held    : List Nat
  deriving DecidableEq, Repr, Inhabited

/-- Where a thread stands (R214). -/
inductive Place where
  | filed (fold : Nat)
  | stray
  | drove (ag : Nat)
  | faultFold
  | exited
  deriving DecidableEq, Repr, Inhabited

/-- A thread, or the per-thread state of a shepherd (R18, R20, R21, R125, R202, R203, R253). `park` is the fault that it
waits on, `trap` the one that its handler works on, `tblk` the block of a resumed drove, and `bad` lists the c registers that
hold uncorrectable data (R363). -/
structure Thread where
  lid     : Nat
  tid     : Nat
  place   : Place
  next    : DWord
  joined  : Bool
  resume  : Bool
  c       : Tab Word
  depth   : Nat
  inHandler : Bool
  probe   : Bool
  hold    : Option Word
  tcause  : Word
  taddr   : DWord
  tpc     : Word
  park    : Option Park
  trap    : Option Park
  row     : Option (Option Nat × Tab Word × Tab Bool)
  epCore  : BitVec 16
  epChip  : BitVec 16
  epPkg   : BitVec 16
  racePass : Bool
  tblk    : DWord
  bad     : List Nat
  deriving DecidableEq, Repr, Inhabited

/-- A thread's place in a fold. -/
structure Member where
  tid     : Nat
  arrived : Nat
  join    : Bool
  deriving DecidableEq, Repr, Inhabited

/-- A fold in use (R215, R219, R222). -/
structure Fold where
  lid     : Nat
  addr    : DWord
  resume  : Bool
  team    : Bool
  landing : Bool
  members : List Member
  since   : Nat
  elig    : Option Nat
  closed  : Bool
  deriving DecidableEq, Repr, Inhabited

/-- A quadrant (R214 to R223): folds in use by number, the stray list as thread keys, the cycle since which no fold has
been eligible, and the refiling under way: its cycle, how many threads it took in that cycle, and its fold while threads
of its key are left. -/
structure Quad where
  folds : Tab Fold
  stray : List Nat
  lastElig : Nat
  refile  : Nat × Nat × Option Nat
  deriving DecidableEq, Repr, Inhabited

/-- A bell (R171); `done` is the cycle in which its last phase completed (R185). -/
structure Bell where
  live  : Bool
  count : Nat
  arr   : Nat
  pend  : Int
  phase : Bool
  errCur  : BitVec 8
  errLast : BitVec 8
  done    : Option Nat
  deriving DecidableEq, Repr, Inhabited

/-- A chute (R175); `own` lists the ring places that no other instruction has written since CHPUSH did, `closing` is the
cycle of its CHCLOSE, `pushes` the cycle of its last pushes and how many entries they were (R185). -/
structure Chute where
  live   : Bool
  closed : Bool
  cap    : Nat
  off    : Nat
  rd     : Nat
  wr     : Nat
  allow  : Nat
  own    : List Nat
  closing : Option Nat
  pushes : Nat × Nat
  deriving DecidableEq, Repr, Inhabited

/-- What a store or an atomic of an agent left behind on the paths that no XFENCE has joined since (R182, R237): the bytes as
they stood before, and whether paths C and M may still show them. -/
structure Stale where
  lid : Nat
  tid : Option Nat
  key : Nat
  old : List Byte
  c   : Bool
  m   : Bool
  deriving DecidableEq, Repr, Inhabited

/-- A stream (R159 to R161): its descriptor, whether it is indexed, the next element to deliver and to fetch, the
elements that have landed, by TID the faulted elements that wait for their threads, whether software has written the ring
while the stream was open, after which every element popped is undefined (R160), and what the stores of the thread that opened it
had left behind (R170). -/
structure Stream where
  live  : Bool
  words : List Word
  idx   : Bool
  pos   : Nat
  next  : Nat
  elems : Tab Elem
  owed  : Tab Nat
  spoilt : Bool
  stale : List Stale
  deriving DecidableEq, Repr, Inhabited

/-- A vote slot (R136). -/
structure Vote where
  vec   : DWord
  count : Word
  deriving DecidableEq, Repr, Inhabited

/-- The matrix configuration of a launch on a core (R191, R192). -/
structure MatCfg where
  set : Bool
  a   : Word
  b   : Word
  c   : DWord
  deriving DecidableEq, Repr, Inhabited

/-- The engine error record (R190). -/
structure EngErr where
  cause : BitVec 8
  addr  : Word
  deriving DecidableEq, Repr, Inhabited

/-- What a launch holds on one core (R15, R136, R141, R143, R151, R171, R175, R191, R199). `ringAt` is the cycle of the last
DPUSH and the first sequence number pushed in it; `gone`: the halted shepherd's state has been released; `raised`: the
cycle in which flags were last raised, and those raised in it (R44); `home`: the core that it was placed on, which names its free
values; `bad` lists the words that hold uncorrectable data (R363). The tile number `tn` has 32 bits, a width that the manual does
not give (DESIGN CHOICE, log 87). -/
structure Res where
  scratch  : Tab Byte
  bells    : Tab Bell
  chutes   : Tab Chute
  streams  : Tab Stream
  ring     : Tab (Word × Nat)
  ringNext : Word
  ringAt   : Nat × Word
  tn       : Word
  votes    : Tab Vote
  spawned  : List (Nat × Nat)
  spawnCnt : Nat
  retired  : Nat
  halted   : Bool
  gone     : Bool
  cfg      : MatCfg
  tiles    : Tab Word
  scale    : Tab Byte
  outlier  : Tab (List (Word × Word))
  engErr   : Option EngErr
  engMore  : Nat
  mcount   : Word
  num      : Word
  raised   : Nat × Word
  home     : Nat
  bad      : List Granule
  deriving DecidableEq, Repr, Inhabited

/-- A matrix instruction in the engine's queue (R187), with the values its sources had at issue, the agent and the
lanes that its result is bound for, and the bell of the copy that carried it. `run` says that it has executed; its
flags, its error and its result take effect when it completes. -/
structure MatOp where
  id    : Nat
  lid   : Nat
  who   : Option AgentRef
  lanes : List Nat
  bell  : Option Nat
  op    : Op
  opc   : BitVec 8
  a     : Word
  b     : Word
  c     : DWord
  run   : Bool
  flags : Word
  err   : Option EngErr
  res   : Option Word
  deriving DecidableEq, Repr, Inhabited

/-- The operand latch of the gather unit (R195): the MMAG it was read for, the indices and, for each, the bytes of its
row and of its scales, the offset of the scales of B, and the error that was met. -/
structure Gather where
  id     : Nat
  lid    : Nat
  idx    : List Nat
  rows   : List (List Byte)
  scales : List (List Byte)
  sb     : Nat
  err    : Option EngErr
  deriving DecidableEq, Repr, Inhabited

/-- A copy (R178 to R184): `live` from issue until it has landed or failed, `held` while it waits on a fault (R184),
`kept` when a halt keeps it to start again (R337), `status` is its status word (R57), `stale` what its thread's stores had
left behind when it issued (R182). -/
structure Copy where
  live   : Bool
  lid    : Nat
  gen    : Nat
  kind   : BitVec 8
  src    : DWord
  dst    : Word
  arg    : Word
  desc   : List Word
  bell   : Option Nat
  issued : Nat
  pc     : DWord
  tid    : Option Nat
  landed : Bool
  failed : Bool
  cause  : BitVec 8
  held   : Bool
  kept   : Bool
  status : Word
  stale  : List Stale
  deriving DecidableEq, Repr, Inhabited

/-- A byte of the L1 data cache (R236). -/
structure L1Byte where
  val   : Byte
  dirty : Bool
  deriving DecidableEq, Repr, Inhabited

/-- Where a leaf leads (R314): of a ROUTE leaf the package, the space, the address and the mode, which is 0 DIRECT, 1 CACHE, 2 MIGRATE, and DRIFT counts as MIGRATE. -/
inductive Loc where
  | dev (pa : Nat)
  | host (pa : Nat)
  | io (pa : Nat)
  | remote (pkg space : Nat) (va : DWord) (leaf64 : Bool) (mode : Nat)
  deriving DecidableEq, Repr, Inhabited

/-- A valid shadow record of race detection (R254). -/
structure Shadow where
  wtid  : Word
  wsh   : Bool
  wcore : Nat
  wep   : BitVec 16
  wat   : Bool
  wmask : BitVec 32
  wsc   : Nat
  deriving DecidableEq, Repr, Inhabited

/-- A store that has issued and is not yet performed (R238, R239), with the shadow record that it makes; one of no bytes is
a release fence that has not performed (R169). -/
structure Outst where
  id    : Nat
  lid   : Nat
  tid   : Option Nat
  loc   : Loc
  bytes : List Byte
  scope : Nat
  rel   : Bool
  rec_  : Option Shadow
  deriving DecidableEq, Repr, Inhabited

/-- A load that has issued and has not taken its value (R241), of the word `pc`; `arg`: it is an LDK (R157); `log`: race
detection checks it in log mode as it takes its value (R255). -/
structure Late where
  id    : Nat
  lid   : Nat
  tid   : Option Nat
  ag    : Nat
  pc    : DWord
  va    : DWord
  log   : Bool
  lane  : Nat
  loc   : Loc
  n     : Nat
  sext  : Bool
  scope : Nat
  keep  : Bool
  dst   : List Reg
  arg   : Bool
  deriving DecidableEq, Repr, Inhabited

/-- An entry of the retirement tracker (R234): accesses, copies by slot and generation, requests. -/
structure Track where
  lid  : Nat
  team : Nat
  acc  : List Nat
  copies : List (Nat × Nat)
  reqs : List Nat
  deriving DecidableEq, Repr, Inhabited

/-- An entry of a TLB (R317): the leaf as the walk found it, its level, and when it was filled and last used, as
`Fabric.clock` counts. -/
structure TlbEntry where
  leaf  : DWord
  level : Nat
  fill  : Nat
  use   : Nat
  deriving DecidableEq, Repr, Inhabited

/-- A core (R15). `agents` are its droves and shepherds, `threads` are keyed by launch and TID. `ictag` holds, for a word of the
instruction cache, the level of the translation that filled it (R319). `picks` holds, by quadrant, a
cycle and the droves chosen in it for pipes A and B (R225), and `pipes`, by quadrant and pipe, the cycle from which it is free
of the passes of its last instruction; `settledAt` is the last cycle in which a store of the core was
performed or accepted (R250). -/
structure Core where
  res      : Tab Res
  agents   : Tab Agent
  nextAg   : Nat
  threads  : Tab Thread
  quads    : Tab Quad
  queue    : List MatOp
  nextMat  : Nat
  gather   : Option Gather
  copies   : Tab Copy
  tracker  : Tab Track
  l1       : Tab L1Byte
  outst    : List Outst
  late     : List Late
  stale    : List Stale
  settledAt : Option Nat
  nextOut  : Nat
  icache   : Tab IWord
  ictag    : Tab Nat
  tlb      : Tab TlbEntry
  frozen   : Bool
  picks    : Tab (Nat × Option Nat × Option Nat)
  pipes    : Tab Nat
  deriving DecidableEq, Repr, Inhabited

/-- Where a launch stands (R274 to R282). -/
inductive LState where
  | head        -- its record has been read and passed R274
  | bound       -- it has a target and waits to be placed
  | running
  | finished (outcome : Nat)
  deriving DecidableEq, Repr, Inhabited

/-- Why a launch stopped (R206, R283). -/
structure Stop where
  cause  : BitVec 8
  cause2 : BitVec 8
  who    : Word
  tpc    : Word
  addr   : DWord
  deriving DecidableEq, Repr, Inhabited

/-- A client of the arbiter (R275). -/
inductive Client where
  | slot (n : Nat)
  | node (graph n : Nat)
  deriving DecidableEq, Repr, Inhabited

/-- An acquire of a race-detecting launch: its cycle, its core, its thread and its scope (R258). -/
structure Acq where
  at_   : Nat
  core  : Nat
  tid   : Nat
  scope : Nat
  deriving DecidableEq, Repr, Inhabited

/-- A launch: its record (R273) and header (R82) as read, and its state. `was` holds the cycle of the last write of TFRAME or
RACECTL, with both as they stood before that cycle (R213, R258); `argNew` and `doneNew`: software has written the first 64 KiB
of the argument buffer (R157), or the completion block or the bitmap (R284), while it ran; `key` and `relocs` are the
translated image and the relocation sites of its binding (R300, R301); `waits`: it could not be placed when it was served
(R275); `acqs` are the acquires of the last cycle that had one (R258). -/
structure Launch where
  rec_    : List Word
  hdrAddr : DWord
  hdr     : List Word
  part    : Nat
  priv    : Bool
  queue   : Option Nat
  node    : Option (Nat × Nat × Nat)
  st      : LState
  ready   : Bool
  target  : Nat
  emul    : Bool
  cores   : List Nat
  codeBase : DWord
  codeSize : Nat
  patches : Tab (Tab Word)
  k       : Tab Word
  num     : Word
  hintmiss : Word
  tframe  : DWord
  racectl : Word
  was     : Option (Nat × DWord × Word)
  racelog : DWord
  lep     : BitVec 16
  acqs    : List Acq
  argNew  : Bool
  doneNew : Bool
  key     : BitVec 128
  relocs  : List (Nat × Nat)
  waits   : Bool
  teams   : Nat
  cancelled : Bool
  stop    : Option Stop
  again   : Bool
  eng     : Option EngErr
  engMore : Nat
  deriving DecidableEq, Repr, Inhabited

/-- QTBASE, QTCOUNT, WOBASE and WOCOUNT as a mapped queue uses them (R266). -/
structure Tables where
  qt : Nat
  qn : Nat
  wo : Nat
  wn : Nat
  deriving DecidableEq, Repr, Inhabited

/-- A queue slot in use (R266, R272, R275): the tables of when the queue was mapped, the queue, the time of its last signal
in ns, its head, the next record's acceptance at the time of the last placement, the record that an ENQ handed over,
with its index (R281), and the cycle in which a signal took the slot while it was free (R292). -/
structure Slot where
  tabs  : Tables
  queue : Nat
  last  : Nat
  head  : Option Nat
  goes  : Bool
  given : Option (DWord × List Word)
  taken : Nat
  deriving DecidableEq, Repr, Inhabited

/-- A work-graph node (R287 to R289); `dropped` are the closed batches that a CANCEL named. -/
structure Node where
  open_  : List (Word × Word)
  since  : Nat
  next   : Nat
  closed : List (Nat × List (Word × Word))
  busy   : List Nat
  part   : Nat
  width  : Nat
  head   : Option Nat
  dropped : List Nat
  deriving DecidableEq, Repr, Inhabited

/-- A registered image (R297): `bytes` is its CODE section as it was hashed at registration (R301). -/
structure Image where
  addr  : DWord
  part  : Nat
  len   : Nat
  code  : Nat
  size  : Nat
  bytes : List Byte
  res   : Option (Nat × Nat)
  relocs : List (Nat × Nat)
  deriving DecidableEq, Repr, Inhabited

/-- A translated image in the binder's cache (R301, R303): its key, its size, its target, the sets of cores of which it has
relocated copies, and whether it goes once no launch is bound to it. -/
structure Transl where
  key    : BitVec 128
  size   : Nat
  target : Nat
  copies : List (List Nat)
  doomed : Bool
  deriving DecidableEq, Repr, Inhabited

/-- The launch front end and the loader (R266 to R305). `regs` are the host's registers of BAR 0 by offset, those at
their reset value not listed; `cache` holds translated images, the least recently placed first; `cancelled` are the unread records that a CANCEL named, by queue and index;
`rebound` are the rebound launches not yet placed, in the order of their rebinding (R291). -/
structure Front where
  regs    : Tab Word
  latch   : Tab (Word × Nat)
  slots   : Tab Slot
  rescan  : List Nat
  pass    : Tab DWord
  serving : Tab Client
  requeue : Tab (List Nat)
  nodes   : Tab Node
  images  : Tab Image
  nextImg : Nat
  cache   : List Transl
  loader  : Option (Nat × DWord × Nat)
  pending : List Nat
  cancelled : List (Nat × Nat)
  halted  : List Nat
  rebound : List Nat
  deriving DecidableEq, Repr, Inhabited

/-- Who waits on a fault record (R322). -/
inductive Waiter where
  | thread (core lid tid : Nat)
  | shepherd (core lid ag : Nat)
  | home (r : HomeReq)
  | copy (core lid slot : Nat)
  deriving DecidableEq, Repr, Inhabited

/-- A record of a fault queue that software has not acknowledged (R322 to R324). -/
structure FqRec where
  kind    : Nat
  open_   : Bool
  page    : Nat
  acc     : Nat
  va      : DWord
  at_     : Nat
  waiters : List Waiter
  deriving DecidableEq, Repr, Inhabited

/-- A fault queue: the next SEQ and the unacknowledged records by slot. -/
structure Fq where
  next  : Nat
  recs  : Tab FqRec
  ovf   : Bool
  deriving DecidableEq, Repr, Inhabited

/-- What a request to another package is for (R314, R316): a load, a store or an atomic of a lane; bytes that an
instruction reads before it acts; the frame of a trap (R203); an element of a stream or its index (R159); the line of a PREF
and whether it goes into the L1 too (R158). -/
inductive ReqKind where
  | load (n : Nat) (sext : Bool) (dst : List Reg)
  | store (bytes : List Byte)
  | atomic (op : Nat) (wide ret : Bool) (x y : DWord) (dst : List Reg)
  | fetch (n : Nat)
  | frame (bytes : List Byte)
  | elem (strm i n : Nat) (index : Bool)
  | pref (n : Nat) (near : Bool)
  deriving DecidableEq, Repr, Inhabited

/-- A request sent to another package and not answered (R316, R321, R330): `pending` while the home waits for its
software (R324), `parked` where its thread then awaits the answer in the fault fold (R229), `noticed` where its core has written the KIND 2 notice
of its page, `keep` while the line that it brings may be kept (R250); `packets` carry it. -/
structure Remote where
  core  : Nat
  ag    : Nat
  lane  : Nat
  lid   : Nat
  tid   : Nat
  kind  : ReqKind
  pkg   : Nat
  va    : DWord
  mode  : Nat
  leaf64 : Bool
  scope : Nat
  sent  : Nat
  again : Bool
  pending : Bool
  parked  : Bool
  noticed : Bool
  hops  : Nat
  word  : DWord
  rel   : Bool
  acq   : Bool
  path  : Nat
  space : Nat
  keep  : Bool
  packets : List HomeReq
  deriving DecidableEq, Repr, Inhabited

/-- What leaves the package. -/
inductive Out where
  | ioStore (pa : Nat) (bytes : List Byte)
  | hostWrite (pa : Nat) (bytes : List Byte)
  | request (idx : Option Nat) (pkg : Nat) (r : HomeReq)
  | reply (pkg : Nat) (tid : Word) (a : HomeAns) (marked : Bool)
  | notHere (pkg : Nat) (tid : Word) (peer : Nat) (marked : Bool)
  | frame (pkg space page : Nat)
  | frameReply (pkg space page : Nat) (granted : Bool)
  | page (pkg space page : Nat) (perms : BitVec 4) (i : Nat) (bytes : List Byte)
  | pageAck (pkg space page i : Nat)
  | ioLoad (pa n : Nat)
  | cacheRequest (pa : Nat)
  | abort (off : Nat)
  | data (bytes : List Byte)
  | msix (vec : Nat)
  | collective (grp seq : Nat) (kind op root : Nat) (data : List Word)
  | sideband (seq : Word) (status : Byte) (res : List Byte)
  | event (code : Nat)
  | switchConfig (bytes : List Byte)
  | config (ready : Bool)
  | recall (frame count : Nat)
  deriving DecidableEq, Repr, Inhabited

/-- A collective in progress (R167, R168): its descriptor, the register that its status is
bound for, this package's own source, and the thread as an error record names it (R362). -/
structure Coll where
  lid   : Nat
  who   : AgentRef
  lane  : Nat
  regs  : List Reg
  part  : Nat
  kind  : Nat
  op    : Nat
  root  : Nat
  dst   : DWord
  count : Nat
  done  : DWord
  data  : List Word
  bad   : Bool
  whoW  : Word
  deriving DecidableEq, Repr, Inhabited

/-- A page on its way to another package (R320): its partition, its page number, the package that takes it, when the
move began, where this package takes it, the frame, and whether the page has been sent. -/
structure Move where
  part  : Nat
  page  : Nat
  pkg   : Nat
  since : Nat
  frame : Option Nat
  sent  : Bool
  deriving DecidableEq, Repr, Inhabited

/-- The rate limiter of a target package (R331): r = num / 2^sh, and the times of its last halving and last change. -/
structure Rate where
  num  : Nat
  sh   : Nat
  mark : Nat
  at_  : Nat
  deriving DecidableEq, Repr, Inhabited

/-- The grant of a line for atomics (R249): the core it went to last, whether it is still held there, the cycles of its
moves of late, and the cycle until which the line is marked contended. -/
structure Grant where
  core  : Nat
  held  : Bool
  moves : List Nat
  mark  : Option Nat
  deriving DecidableEq, Repr, Inhabited

/-- The translation hub and the fabric (R310 to R334, R388). `migr` counts requests by partition, page and package, the
oldest counter first, and `asked` those of which the home has asked the package for a frame; `bias` lists the ranges of frames
in host bias, and `blocked`: an access has met a frame that is changing its bias; `clock` counts the fills and uses of TLB
entries; `sent` and `heard` count the packets of a line and the atomics of an instruction, to another package and from it, and
`early` are packets that came before their turn (R330); `owned` holds what the part has written to lines of the host that no
snoop has taken since (R327); `weak` counts low samples of a lane in a row, 4 where its errors have made it lasting, and
`lanesOut` holds, by port, the mask of its lanes that are out of use. -/
structure Fabric where
  fqs     : Tab Fq
  remote  : Tab Remote
  nextReq : Nat
  tlb     : Tab TlbEntry
  walks   : Tab DWord
  clock   : Nat
  migr    : List ((Nat × Nat × Nat) × Nat)
  asked   : List (Nat × Nat × Nat)
  moving  : List Move
  waiting : List HomeReq
  rate    : Tab Rate
  bias    : List (Nat × Nat)
  biasJob : Option (Nat × Nat × Bool)
  blocked : Bool
  sent    : Tab Nat
  heard   : Tab Nat
  early   : List HomeReq
  owned   : Tab Byte
  tlbi    : Option (Nat × Nat × Nat)
  colls   : Tab Coll
  nextColl : Nat
  grants  : Tab Grant
  far     : Tab Byte
  weak    : Tab Nat
  lanesOut : Tab Nat
  out     : List Out
  deriving DecidableEq, Repr, Inhabited

/-- A saved chiplet (R338, R339): its number and class, its shadow slot (3: the memory area) and its cores by logical
index; of an image in memory also its privileged address, and whether software has written over it. -/
structure SavedChip where
  cls    : Nat
  chip   : Nat
  slot   : Nat
  cores  : Tab Core
  area   : Nat
  spoilt : Bool
  deriving DecidableEq, Repr, Inhabited

/-- What the command engine keeps of a partition beside its registers (R335 to R341): the saved chiplets, the time and
the cycle of its last halt, the answers that wait for it to resume, whether resolved, and the address, and the replies of homes
that do, by request. -/
structure PartSt where
  saved   : List SavedChip
  haltAt  : Nat
  cycleAt : Nat
  answers : List (Waiter × Bool × DWord)
  replies : List (Nat × HomeAns)
  deriving DecidableEq, Repr, Inhabited

/-- An error counter of a location (R365): corrected and uncorrectable errors in this window. -/
structure CeCount where
  unit  : Nat
  loc   : Word
  count : Nat
  ue    : Nat
  deriving DecidableEq, Repr, Inhabited

/-- The error unit (R361 to R369). `counts` is oldest first; `win` is the length of this window in s and `start` its
first ns; `spares` counts the spares used by a structure; `lost` is the overflow record's SEQ and LOST; `bad` lists
uncorrectable sectors of device memory; `worn` lists lasting locations without a spare; `faulty` cores wait to be
spared; `slotsOut` are shadow slots out of use. -/
structure Errs where
  counts  : List CeCount
  window  : Nat
  win     : Nat
  start   : Nat
  spares  : Tab Nat
  lost    : Option (Nat × Nat)
  bad     : List Nat
  worn    : List (Nat × Word)
  faulty  : List Nat
  slotsOut : List Nat
  deriving DecidableEq, Repr, Inhabited

/-- A management command as a mailbox or the journal holds it (R375, R376), the status that the state in which the leader
took it gives it, and the cycle in which it was submitted. -/
structure Cmd where
  master  : Master
  opcode  : Nat
  seq     : Word
  payload : List Byte
  judged  : Nat
  at_     : Nat
  deriving DecidableEq, Repr, Inhabited

/-- The repair record in flash (R366, R383): SVCSTAT and LANESTAT, the spares used, the lasting locations without a spare,
the shadow slots out of use, and the lanes out of use. -/
structure Repair where
  svc      : Word
  lanes    : Word
  spares   : Tab Nat
  worn     : List (Nat × Word)
  slotsOut : List Nat
  lanesOut : Tab Nat
  deriving DecidableEq, Repr, Inhabited

/-- Firmware and management (R373 to R386). A firmware release has a number: `bank` is in use, `boot` is in the boot
bank and `other` in the other one; none where what FWSTAGE has written, `staged`, is there instead (R378). `secNext` lists the
releases whose next boot raises the fused minimum, and to what. `early`: PERST# was released before the rails allow (R386). -/
structure Fw where
  holder  : Option Nat
  leader  : Option Nat
  epoch   : Word
  until_  : Nat
  journal : Option Cmd
  mbHost  : Option Cmd
  mbSide  : Option Cmd
  last    : Option Master
  data    : Tab Byte
  lock    : Option (Master × Nat)
  staged  : Tab Byte
  bank    : Nat
  boot    : Option Nat
  other   : Option Nat
  newest  : Nat
  secvers : Tab Word
  secMin  : Word
  secNext : List (Nat × Word)
  cap     : Nat
  mhz     : Nat
  trip    : Bool
  stage   : Nat
  perst   : Bool
  early   : Bool
  temps   : List Nat
  power   : Nat
  repair  : Option Repair
  deriving DecidableEq, Repr, Inhabited

/-- One package. `mem` is device memory at the L2, in canonical form: addresses strictly rising, no entry equal to what
an unlisted byte reads as, 0 (DESIGN CHOICE, log 2). `phase` is how far the order of service within this cycle has come
(`turnRank`). `shadowWas` holds, by sector, the last cycle in which its shadow record changed and the record before (R258). -/
structure State where
  cur     : Option AgentRef
  agenda  : List Sched
  tick    : Nat
  cycles  : Nat
  phase   : Nat
  nanos   : Nat
  cores   : Tab Core
  launches : Tab Launch
  nextLid : Nat
  mem     : List Host.Cell
  front   : Front
  fabric  : Fabric
  parts   : Tab PartSt
  errs    : Errs
  fw      : Fw
  shadow  : Tab Shadow
  shadowWas : Tab (Nat × Option Shadow)
  migThresh : Word
  qIdle   : Word
  wgTimer : Word
  deriving DecidableEq, Repr, Inhabited

/-- A core after reset: nothing resident. -/
def Core.empty : Core :=
  { res := [], agents := [], nextAg := 0, threads := [], quads := [], queue := [], nextMat := 0, gather := none, copies := [],
    tracker := [], l1 := [], outst := [], late := [], stale := [], settledAt := none, nextOut := 0, icache := [], ictag := [], tlb := [], frozen := false, picks := [], pipes := [] }

/-- The part right after reset. The registers of BAR 0 stand at their resets, so none is listed; firmware begins with
no leader, bring-up before its first stage. -/
def State.reset : State :=
  { cur := none, agenda := [], tick := 0, cycles := 0, phase := 0, nanos := 0, cores := [], launches := [], nextLid := 0, mem := [],
    front :=
      { regs := [], latch := [], slots := [], rescan := [], pass := [], serving := [], requeue := [], nodes := [],
        images := [], nextImg := 0, cache := [], loader := none, pending := [], cancelled := [], halted := [], rebound := [] }
    fabric :=
      { fqs := [], remote := [], nextReq := 0, tlb := [], walks := [], clock := 0, migr := [], asked := [], moving := [], waiting := [], rate := [],
        bias := [], biasJob := none, blocked := false, sent := [], heard := [], early := [], owned := [], tlbi := none, colls := [], nextColl := 0, grants := [], far := [],
        weak := [], lanesOut := [], out := [] }
    parts := []
    errs :=
      { counts := [], window := 0, win := 60, start := 0, spares := [], lost := none, bad := [], worn := [],
        faulty := [], slotsOut := [] }
    fw :=
      { holder := none, leader := none, epoch := 0, until_ := 0, journal := none, mbHost := none,
        mbSide := none, last := none, data := [], lock := none, staged := [], bank := 0, boot := some 0, other := some 1,
        newest := 1, secvers := [], secMin := 0, secNext := [], cap := 3200, mhz := 850, trip := false, stage := 0,
        perst := true, early := false, temps := [], power := 0, repair := none }
    shadow := [], shadowWas := [], migThresh := 256, qIdle := 50, wgTimer := 2000 }

end Sys2Proof.Machine
end

