-- ==== Sys2Proof/Machine/Mem.lean ====
section
/-! DEFINITION. Device memory as a canonical list of cells, the host's registers of BAR 0, page-table walks
(R310, R311, R388) and the accesses of the hub and of a core through its L1. -/

namespace Sys2Proof.Machine

/-! ### Device memory -/

/-- The byte at an address; an unlisted one reads 0. -/
def memGet : List Host.Cell → Nat → Byte
  | [], _ => 0
  | (k, v) :: t, a => if a = k then v else if a < k then 0 else memGet t a

/-- Put a byte at an address, keeping the canonical form. -/
def memPut : List Host.Cell → Nat → Byte → List Host.Cell
  | [], a, b => if b = 0 then [] else [(a, b)]
  | (k, v) :: t, a, b =>
    if a < k then (if b = 0 then (k, v) :: t else (a, b) :: (k, v) :: t)
    else if a = k then (if b = 0 then t else (a, b) :: t)
    else (k, v) :: memPut t a b

/-- `n` bytes from an address. -/
def memRead (m : List Host.Cell) (a : Nat) : Nat → List Byte
  | 0 => []
  | n + 1 => memGet m a :: memRead m (a + 1) n

/-- Put bytes from an address on. -/
def memWrite (m : List Host.Cell) (a : Nat) : List Byte → List Host.Cell
  | [] => m
  | b :: bs => memWrite (memPut m a b) (a + 1) bs

/-- Addresses rise strictly from a bound and no entry is 0. -/
def memRising : Nat → List Host.Cell → Bool
  | _, [] => true
  | lo, (k, v) :: t => decide (lo ≤ k) && v != 0 && memRising (k + 1) t

/-- The canonical form. -/
def Memory.wf (m : List Host.Cell) : Bool := memRising 0 m

/-- The bytes of a 32-bit and a 64-bit value (R5). -/
def bytes32 (w : Word) : List Byte := bytesLE 4 w.toNat
def bytes64 (w : DWord) : List Byte := bytesLE 8 w.toNat
def word32 (bs : List Byte) : Word := BitVec.ofNat 32 (ofBytesLE bs)
def word64 (bs : List Byte) : DWord := BitVec.ofNat 64 (ofBytesLE bs)
/-- A list of bytes as 32-bit words. -/
def wordsOf : Nat → List Byte → List Word
  | 0, _ => []
  | n + 1, bs => word32 (bs.take 4) :: wordsOf n (bs.drop 4)
def bytesOfWords (ws : List Word) : List Byte := ws.flatMap bytes32

/-- 512 GiB (R12). -/
def memSize : Nat := 549755813888

def pairOf (lo hi : Word) : DWord := hi ++ lo

/-- A register result from the bytes of a load (R154). -/
def loadWords (n : Nat) (sext : Bool) (bs : List Byte) : List Word :=
  if n = 1 then [if sext then (BitVec.ofNat 8 (ofBytesLE bs)).signExtend 32 else word32 bs]
  else if n = 2 then [if sext then (BitVec.ofNat 16 (ofBytesLE bs)).signExtend 32 else word32 bs]
  else wordsOf ((n + 3) / 4) bs

/-! ### The host's registers of BAR 0 -/

/-- The value of a register at reset, by offset (R266, R298, R313, R335, R361, R377); a vector of the MSI-X table is masked
(PRESUMED, log 4). -/
def regReset (off : Nat) : Word :=
  if off = 0x20018 then 7
  else if off = 0x3010C then 100
  else if off = 0x810 then 60
  else if off = 0x814 then 3
  else if off = 0x818 then 0x3FF
  else if off = 0x81C then 0x4444
  else if 0x40000 ≤ off ∧ off < 0x40400 ∧ off % 16 = 12 then 1
  else 0

/-- A register of BAR 0. -/
def State.reg (s : State) (off : Nat) : Word := Tab.getD s.front.regs off (regReset off)

/-- Set a register of BAR 0; a value equal to the reset is not listed. -/
def State.setReg (s : State) (off : Nat) (v : Word) : State :=
  { s with front := { s.front with
      regs := if v = regReset off then Tab.erase s.front.regs off else Tab.set s.front.regs off v } }

def State.reg64 (s : State) (off : Nat) : DWord := pairOf (s.reg off) (s.reg (off + 4))

/-! ### Cores and launches -/

def State.core (s : State) (c : Nat) : Core := Tab.getD s.cores c Core.empty
def State.setCore (s : State) (c : Nat) (v : Core) : State := { s with cores := Tab.set s.cores c v }
def State.updCore (s : State) (c : Nat) (f : Core → Core) : State := s.setCore c (f (s.core c))
/-- A core's cycle counter (R21): zero at reset, and then the cycles that the core has counted, which are not another's
(R4). -/
def State.count (s : State) (c : Nat) : Nat := if s.cycles = 0 then 0 else s.cycles + Config.cycleSkew c
/-- The value of `State.cycles` at which a core's counter reaches a value. -/
def cyclesAt (c target : Nat) : Nat := max 1 (target - Config.cycleSkew c)
def State.launch? (s : State) (lid : Nat) : Option Launch := Tab.get? s.launches lid
def State.launchD (s : State) (lid : Nat) : Launch := Tab.getD s.launches lid default
def State.updLaunch (s : State) (lid : Nat) (f : Launch → Launch) : State :=
  { s with launches := Tab.upd s.launches lid f }
/-- A word of a launch's header (R82) and of its record (R273). -/
def Launch.hdrW (l : Launch) (i : Nat) : Word := l.hdr.getD i 0
def Launch.recW (l : Launch) (i : Nat) : Word := l.rec_.getD i 0
def Launch.rec64 (l : Launch) (i : Nat) : DWord := pairOf (l.recW i) (l.recW (i + 1))
/-- The launch runs with race detection (R252). -/
def Launch.race (l : Launch) : Bool := (l.hdrW 0).getLsbD 7

def Res.empty : Res :=
  { scratch := [], bells := [], chutes := [], streams := [], ring := [],
    ringNext := 0, ringAt := (0, 0), tn := 0, votes := [], spawned := [], spawnCnt := 0, retired := 0, halted := false,
    gone := false,
    cfg := { set := false, a := 0, b := 0, c := 0 }, tiles := [], scale := [],
    outlier := [], engErr := none, engMore := 0, mcount := 0, num := 0, raised := (0, 0), home := 0, bad := [] }
def State.res (s : State) (c lid : Nat) : Res := Tab.getD (s.core c).res lid Res.empty
def State.updRes (s : State) (c lid : Nat) (f : Res → Res) : State :=
  s.updCore c fun k => { k with res := Tab.set k.res lid (f (Tab.getD k.res lid Res.empty)) }

def State.emit (s : State) (o : Out) : State :=
  { s with fabric := { s.fabric with out := s.fabric.out ++ [o] } }

/-- A vector of MSI-X is signalled: while the table masks it, it is pending (R312; PRESUMED, log 4). -/
def State.msix (s : State) (v : Nat) : State :=
  if (s.reg (0x4000C + 16 * v)).getLsbD 0 then
    { s with front := { s.front with pending := v :: s.front.pending.filter (· != v) } }
  else s.emit (.msix v)

/-! ### Page tables -/

/-- The kind of an entry (R311). -/
def pteKind (e : DWord) : Nat := (e.toNat / 2) % 8
def pteV (e : DWord) : Bool := e.getLsbD 0
def pteR (e : DWord) : Bool := e.getLsbD 4
def pteW (e : DWord) : Bool := e.getLsbD 5
def pteX (e : DWord) : Bool := e.getLsbD 6
/-- MODE of a ROUTE entry: 0 DIRECT, 1 CACHE, 2 MIGRATE. -/
def pteMode (e : DWord) : Nat := (e.toNat / 16) % 4
def pteAddr (e : DWord) : Nat := (e.toNat / 65536) % 2 ^ 36 * 65536
def ptePeer (e : DWord) : Nat := (e.toNat / 65536) % 4096
/-- The address of the next table. -/
def pteTable (e : DWord) : Nat := pteAddr e + (e.toNat / 256) % 256 * 256

/-- The lowest VA bit that a level indexes (R310). -/
def levelShift (level : Nat) : Nat :=
  match level with
  | 5 => 48 | 4 => 39 | 3 => 30 | 2 => 21 | _ => 16
/-- log2 of the entries of a table. -/
def levelBits (level : Nat) : Nat := if level = 1 then 5 else 9

/-- A leaf entry is valid at its level (R311). -/
def leafOk (level : Nat) (e : DWord) : Bool :=
  let k := pteKind e
  let aligned := pteAddr e % 2 ^ levelShift level == 0
  let hi := e.toNat / 2 ^ 52 == 0
  let b15 := (e.toNat / 256) % 256 == 0
  pteV e && hi && b15 && decide (1 ≤ level) && decide (level ≤ 3) &&
    (if k = 1 then aligned && decide (pteAddr e < memSize)
     else if k = 3 ∨ k = 4 then aligned && !e.getLsbD 7 && !e.getLsbD 6
     else if k = 2 then !e.getLsbD 7 && !e.getLsbD 6 && pteMode e != 3 && (e.toNat / 2 ^ 28) == 0
     else if k = 5 then level == 1 && !e.getLsbD 7 && !e.getLsbD 6 && (e.toNat / 2 ^ 28) == 0
     else false)

/-- A TABLE entry is valid at its level (R311). Bits 5:4 have no meaning for a table and are not examined. -/
def tableOk (level : Nat) (e : DWord) : Bool :=
  pteV e && pteKind e == 0 && e.toNat / 2 ^ 52 == 0 && decide (2 ≤ level)
    && !e.getLsbD 6 && !e.getLsbD 7
    && (level == 2 || pteTable e % 4096 == 0)

/-- The leaf that a walk from a table of a level finds, with its level and the address of its entry. -/
def walk (m : List Host.Cell) : Nat → Nat → Nat → Option (DWord × Nat × Nat)
  | 0, _, _ => none
  | level + 1, tbl, va =>
    let lv := level + 1
    let at_ := tbl + 8 * ((va / 2 ^ levelShift lv) % 2 ^ levelBits lv)
    let e := word64 (memRead m at_ 8)
    if memSize ≤ at_ then none
    else if leafOk lv e then some (e, lv, at_)
    else if tableOk lv e then walk m level (pteTable e) va
    else none

/-- Bits 63:57 are copies of bit 56 (R310). -/
def canonical (va : DWord) : Bool :=
  va.toNat / 2 ^ 56 == 0 || va.toNat / 2 ^ 56 == 255

/-- The 57 bits of an address. -/
def va57 (va : DWord) : Nat := va.toNat % 2 ^ 57

/-- The root of a partition's table (R313); partition 16 is the privileged space (R388). -/
def State.root (s : State) (part : Nat) : Nat :=
  if part = 16 then (s.reg64 0x30160).toNat else (s.reg64 (0x30000 + 16 * part)).toNat

/-- The leaf of an address in a partition's table. -/
def State.walkLeaf (s : State) (part : Nat) (va : DWord) : Option (DWord × Nat × Nat) :=
  walk s.mem 5 (s.root part) (va57 va)

/-- The space number of a partition (R313). -/
def State.space (s : State) (part : Nat) : Nat := (s.reg (0x30008 + 16 * part)).toNat % 65536

/-- What an access does (R322, ACC). -/
structure Acc where
  r : Bool
  w : Bool
  x : Bool
  atomic : Bool
  deriving DecidableEq, Repr, Inhabited

def Acc.read : Acc := { r := true, w := false, x := false, atomic := false }
def Acc.write : Acc := { r := false, w := true, x := false, atomic := false }
def Acc.exec : Acc := { r := false, w := false, x := true, atomic := false }
def Acc.rmw : Acc := { r := true, w := true, x := false, atomic := true }
/-- An access that asks for no permission. -/
def Acc.touch : Acc := { r := false, w := false, x := false, atomic := false }
/-- The ACC field of a fault record: bit 0 read, 1 write, 2 execute, 3 atomic. -/
def Acc.code (a : Acc) : Nat :=
  (if a.r && !a.atomic then 1 else 0) + (if a.w && !a.atomic then 2 else 0) + (if a.x then 4 else 0)
    + (if a.atomic then 8 else 0)

/-- The kind of an access together with its path, as a lane's trap carries them. -/
def Acc.on (a : Acc) (path : Nat) : Nat := path * 16 + a.code

/-- A leaf against an access at the source (R314): where it leads, or the cause. -/
def leafLoc (space path : Nat) (acc : Acc) (va : DWord) (e : DWord) (level : Nat) : Except (BitVec 8) Loc :=
  let off := va57 va % 2 ^ levelShift level
  let k := pteKind e
  if k = 1 then
    if (acc.r && !pteR e) || (acc.w && !pteW e) || (acc.x && !pteX e) then .error 7 else .ok (.dev (pteAddr e + off))
  else if path = 5 ∨ (path = 2 ∧ k ≠ 1) then .error 7
  else if k = 3 then
    if (acc.r && !pteR e) || (acc.w && !pteW e) then .error 7 else .ok (.host (pteAddr e + off))
  else if k = 4 then
    if acc.atomic || path != 0 || (acc.r && !pteR e) || (acc.w && !pteW e) then .error 7 else .ok (.io (pteAddr e + off))
  else .ok (.remote (ptePeer e) space va (level == 1) (if k = 5 then 2 else pteMode e))

/-- The TLB that serves a path (R317): V, C, M, I, or the hub's for F and H. -/
def tlbNo (path : Nat) : Nat := if path = 5 then 3 else min path 4
/-- The sets and the ways of a TLB (R315, R317): V 256 × 8 and C 256 × 4; M, I and the hub's are one set. -/
def tlbSets (c : Option Nat) (path : Nat) : Nat :=
  if c.isSome && decide (tlbNo path ≤ 1) then 256 else 1
def tlbWays (c : Option Nat) (path : Nat) : Nat :=
  match c with
  | none => 4096
  | some _ => match tlbNo path with
    | 0 => 8 | 1 => 4 | 2 => 64 | _ => 256

/-- The key of a cached translation: its TLB, its partition, its page size by level, and its page (R317). -/
def tlbKey (path part level : Nat) (va : DWord) : Nat :=
  ((tlbNo path * 17 + part) * 4 + level) * 2 ^ 41 + va57 va / 2 ^ levelShift level

/-- The key of an entry of kind TABLE in the hub's walk caches (R317). -/
def walkKey (part level va : Nat) : Nat := (part * 8 + level) * 2 ^ 57 + va / 2 ^ levelShift level

/-- The translations that a core, or the hub (`none`), caches. -/
def State.tlbOf (s : State) (c : Option Nat) : Tab TlbEntry :=
  match c with
  | some c => (s.core c).tlb
  | none => s.fabric.tlb

def State.setTlb (s : State) (c : Option Nat) (t : Tab TlbEntry) : State :=
  match c with
  | some c => s.updCore c fun k => { k with tlb := t }
  | none => { s with fabric := { s.fabric with tlb := t } }

/-- A walk through the hub's walk caches: an entry of kind TABLE that they still hold is not read again, and those that
are read enter them (R317). One that is still what the table holds is as good as read again. -/
def State.walkVia (part va : Nat) : Nat → Nat → State → State × Option (DWord × Nat)
  | 0, _, s => (s, none)
  | level + 1, tbl, s =>
    let lv := level + 1
    let key := walkKey part lv va
    let at_ := tbl + 8 * ((va / 2 ^ levelShift lv) % 2 ^ levelBits lv)
    let e := word64 (memRead s.mem at_ 8)
    match (Tab.get? s.fabric.walks key).filter fun x => x == e || Config.walkHolds s.tick key with
    | some e => State.walkVia part va level (pteTable e) s
    | none =>
      if memSize ≤ at_ then (s, none)
      else if leafOk lv e then (s, some (e, lv))
      else if tableOk lv e then
        State.walkVia part va level (pteTable e)
          { s with fabric := { s.fabric with walks := Tab.set s.fabric.walks key e } }
      else (s, none)

/-- The entry of a TLB that serves an address, of whichever page size, and its key: one that is still what a walk gives
(`now`), or one that the TLB still holds. -/
def State.tlbHit? (s : State) (c : Option Nat) (path part : Nat) (va : DWord) (now : Option (DWord × Nat)) :
    Option (Nat × TlbEntry) :=
  [1, 2, 3].findSome? fun level =>
    let key := tlbKey path part level va
    match Tab.get? (s.tlbOf c) key with
    | some t => if some (t.leaf, t.level) == now || Config.tlbHolds s.tick key then some (key, t) else none
    | none => none

/-- The entry with the least value of a measure, the first of those. -/
def leastEntry (f : TlbEntry → Nat) (l : Tab TlbEntry) : Option Nat :=
  (l.foldl (fun (b : Option (Nat × TlbEntry)) e => match b with
    | some x => if f e.2 < f x.2 then some e else b
    | none => some e) none).map (·.1)

/-- The entry of a full set that gives way (R317): in V one that is not the last used, in C and M the oldest, in I the least
recently used; which one pseudo-LRU and the hub choose is free (log 58). -/
def State.tlbVictim (s : State) (c : Option Nat) (path : Nat) (set : Tab TlbEntry) : Option Nat :=
  let free := fun (l : Tab TlbEntry) => (l[Config.tlbVictim s.tick % l.length]?).map (·.1)
  let newest := set.foldl (fun n e => max n e.2.use) 0
  match c with
  | none => free set
  | some _ => match tlbNo path with
    | 0 => free (set.filter fun e => e.2.use != newest)
    | 3 => leastEntry (·.use) set
    | _ => leastEntry (·.fill) set

/-- A fill or a use of an entry of a TLB has been counted. -/
def State.tlbTick (s : State) : State := { s with fabric := { s.fabric with clock := s.fabric.clock + 1 } }

/-- An entry of a TLB is used. -/
def State.tlbUse (s : State) (c : Option Nat) (key : Nat) : State :=
  (s.setTlb c (Tab.upd (s.tlbOf c) key fun t => { t with use := s.fabric.clock })).tlbTick

/-- A walk's leaf enters a TLB: what the TLB held for the page goes, and another entry of its set where that is full. -/
def State.tlbFill (s : State) (c : Option Nat) (path part : Nat) (va : DWord) (leaf : Option (DWord × Nat)) : State :=
  let old := s.tlbOf c
  let t := [1, 2, 3].foldl (fun t level => Tab.erase t (tlbKey path part level va)) old
  match leaf with
  | none => s.setTlb c t
  | some (e, lv) =>
    let key := tlbKey path part lv va
    let sets := tlbSets c path
    let setOf := fun (k : Nat) => if sets = 1 then 0 else Config.tlbSet k % sets
    let own := fun (x : Nat × TlbEntry) => (c.isNone || x.1 / 2 ^ 43 / 17 == tlbNo path) && setOf x.1 == setOf key
    let mine := t.filter own
    let t := if mine.length < tlbWays c path then t
      else match s.tlbVictim c path mine with
        | some k => Tab.erase t k
        | none => t
    let now := s.fabric.clock
    (s.setTlb c (Tab.set t key { leaf := e, level := lv, fill := now, use := now })).tlbTick

/-- The leaf that an access uses: the cached one while the TLB holds it, else the walk's, which the TLB then holds. -/
def State.leaf (s : State) (c : Option Nat) (path part : Nat) (va : DWord) : State × Option (DWord × Nat) :=
  match State.walkVia part (va57 va) 5 (s.root part) s with
  | (s', x) => match s.tlbHit? c path part va x with
    | some (key, t) => (s.tlbUse c key, some (t.leaf, t.level))
    | none => (s'.tlbFill c path part va x, x)

/-- A frame of device memory is changing its bias (R326). -/
def State.frameHeld (s : State) (pa : Nat) : Bool :=
  match s.fabric.biasJob with
  | some (f, n, _) => decide (f ≤ pa / 65536) && decide (pa / 65536 < f + n)
  | none => false

/-- The frame of device memory that an address reaches is changing its bias. -/
def State.pageHeld (s : State) (part : Nat) (a : DWord) : Bool :=
  match s.walkLeaf part a with
  | some (leaf, lv, _) => pteKind leaf == 1 && s.frameHeld (pteAddr leaf + va57 a % 2 ^ levelShift lv)
  | none => false

/-- A frame of device memory is in host bias (R326). -/
def State.hostBiased (s : State) (pa : Nat) : Bool :=
  s.fabric.bias.any fun g => decide (g.1 ≤ pa / 65536) && decide (pa / 65536 < g.1 + g.2)

/-- An access that reaches a frame which is changing its bias must wait (R326): the step that made it has no effect. -/
def State.noteHeld (s : State) (l : Loc) : State :=
  match l with
  | .dev pa => if s.frameHeld pa then { s with fabric := { s.fabric with blocked := true } } else s
  | _ => s

/-- Translation at the source (R150, R314). -/
def State.xlate (s : State) (c : Option Nat) (path part : Nat) (va : DWord) (acc : Acc) :
    State × Except (BitVec 8) Loc :=
  if canonical va then
    match s.leaf c path part va with
    | (s, some (e, lv)) => match leafLoc (s.space part) path acc va e lv with
      | .ok l => (s.noteHeld l, .ok l)
      | .error k => (s, .error k)
    | (s, none) => (s, .error 5)
  else (s, .error 5)

/-- A leaf of the privileged space against an access (R388): only LOCAL and HOST leaves are valid there. -/
def privLoc (va : Nat) (acc : Acc) (e : DWord) (level : Nat) : Option Loc :=
  let off := va % 2 ^ levelShift level
  if (acc.r && !pteR e) || (acc.w && !pteW e) then none
  else if pteKind e = 1 then some (.dev (pteAddr e + off))
  else if pteKind e = 3 then some (.host (pteAddr e + off))
  else none

/-- Translation in the privileged space (R388), partition 16: a cached leaf while the hub holds it, else the table's, or the
identity where there is none. -/
def State.xlatePriv (s : State) (va : Nat) (acc : Acc) : Option Loc :=
  let now := (walk s.mem 5 (s.root 16) (va % 2 ^ 57)).map fun x => (x.1, x.2.1)
  match s.tlbHit? none 0 16 (BitVec.ofNat 64 va) now with
  | some (_, t) => privLoc va acc t.leaf t.level
  | none =>
    if s.root 16 = 0 then (if va < memSize then some (.dev va) else none)
    else match now with
      | some (e, lv) => privLoc va acc e lv
      | none => none

/-- The hub keeps the translation of a privileged address that the part uses. -/
def State.privFill (s : State) (va : Nat) : State :=
  if s.root 16 = 0 then s else (s.leaf none 0 16 (BitVec.ofNat 64 va)).1

/-! ### Places, and requests to other packages (R314, R329, R330) -/

/-- The number of a byte in the L1 and the far cache: of a line homed elsewhere its package, its space and its address. -/
def Loc.key : Loc → Nat
  | .dev pa => pa
  | .host pa => 2 ^ 56 + pa
  | .io pa => 2 ^ 57 + pa
  | .remote pkg space va _ _ => 2 ^ 80 + (pkg * 2 ^ 16 + space) * 2 ^ 57 + va57 va

/-- The place some bytes further on, or back, within a page. -/
def Loc.at_ (l : Loc) (off : Int) : Loc :=
  match l with
  | .dev pa => .dev (pa + off).toNat
  | .host pa => .host (pa + off).toNat
  | .io pa => .io (pa + off).toNat
  | .remote pkg space va f m => .remote pkg space (va + BitVec.ofInt 64 off) f m

/-- The bytes of an unanswered access. A load of a line that may be cached brings its sector (R236). -/
def Remote.size (r : Remote) : Nat :=
  match r.kind with
  | .load n _ _ => n
  | .store bs | .frame bs => bs.length
  | .atomic _ wide _ _ _ _ => if wide then 8 else 4
  | .fetch n | .elem _ _ n _ | .pref n _ => n
def Remote.acc (r : Remote) : Acc :=
  match r.kind with
  | .load _ _ _ | .fetch _ | .elem _ _ _ _ | .pref _ _ => Acc.read
  | .store _ | .frame _ => Acc.write
  | .atomic _ _ _ _ _ _ => Acc.rmw
def Remote.loc (r : Remote) : Loc := .remote r.pkg r.space r.va r.leaf64 r.mode
/-- A lane waits for it. -/
def Remote.ofLane (r : Remote) : Bool :=
  match r.kind with
  | .frame _ | .elem _ _ _ _ | .pref _ _ => false
  | _ => !r.parked
/-- A read that fills the caches of this package with its sectors. -/
def Remote.fills (r : Remote) : Bool := r.mode != 0 && decide (r.path ≤ 1) && r.acc == Acc.read
/-- The place and the length that its packets ask for: whole sectors where the line may be cached. -/
def Remote.span (r : Remote) : Loc × Nat :=
  if r.fills then
    let back := r.loc.key % 32
    (r.loc.at_ (-back), (back + r.size + 31) / 32 * 32)
  else (r.loc, r.size)

/-- The copies that this package holds of lines homed elsewhere for which `f` holds are not to be kept when they come. -/
def State.unkeep (s : State) (f : Remote → Bool) : State :=
  { s with fabric := { s.fabric with remote := s.fabric.remote.mapVals fun _ x => if f x then { x with keep := false } else x } }

/-- The copies of a page's lines that name one home are invalidated, and what is on its way from there is not kept. -/
def State.dropRemotePage (s : State) (pkg space : Nat) (va : DWord) : State :=
  let base := (Loc.remote pkg space 0 true 0).key + va57 va / 65536 * 65536
  let inPage := fun (k : Nat) => decide (base ≤ k) && decide (k < base + 65536)
  let s := s.unkeep fun x => inPage x.loc.key
  { s with
      fabric := { s.fabric with far := s.fabric.far.filter fun e => !inPage e.1 }
      cores := s.cores.mapVals fun _ k => { k with l1 := k.l1.filter fun e => !inPage e.1 } }

/-- What the packets of one access have in common: the path, the thread, the operation and the ordering of an atomic. -/
structure Pack where
  path   : Nat
  tid    : Word
  atomic : Option (Nat × DWord × DWord)
  order  : Nat
  deriving DecidableEq, Repr, Inhabited

/-- The packets of an access to another package, cut at lines of 128 bytes (DESIGN CHOICE, log 76); `fuel` bounds them. -/
def Loc.packets (l : Loc) (k : Pack) : Nat → Nat → Nat → Option (List Byte) → List HomeReq
  | 0, _, _, _ => []
  | fuel + 1, off, size, write =>
    match l with
    | .remote _ space va leaf64 mode =>
      let a := va + BitVec.ofNat 64 off
      let n := min size (128 - va57 a % 128)
      let units := if write.isSome then n else (va57 a % 32 + n + 31) / 32
      if size = 0 then []
      else
        { space, va := a, path := k.path, src := Config.pkgId.toNat, tid := k.tid, mode, leaf64, size := n,
          write := write.map (·.take n), atomic := k.atomic, mask := 2 ^ units - 1, order := k.order, seq := 0, inst := none,
          marked := false } :: l.packets k fuel (off + n) (size - n) (write.map (·.drop n))
    | _ => []

/-- The number under which the packets between this package and another to one line are counted, and the atomics of one
instruction (R330). -/
def lineNo (pkg : Nat) (r : HomeReq) : Nat := ((pkg * 2 ^ 16 + r.space) * 2 ^ 50 + va57 r.va / 128) * 2
def instNo (pkg inst : Nat) : Nat := (inst * 4096 + pkg) * 2 + 1

/-- A packet as it leaves: its number among those to its line, and an atomic's place in its instruction. -/
def State.numbered (s : State) (pkg : Nat) (r : HomeReq) : State × HomeReq :=
  let line := lineNo pkg r
  let inst := instNo pkg s.tick
  let seq := Tab.getD s.fabric.sent line 0
  let place := Tab.getD s.fabric.sent inst 0
  let sent := Tab.set s.fabric.sent line (seq + 1)
  let sent := if r.atomic.isSome then Tab.set sent inst (place + 1) else sent
  ({ s with fabric := { s.fabric with sent } },
   { r with seq, inst := if r.atomic.isSome then some (s.tick, place) else none })

/-- Packets leave in order, for the request of a number or for none. -/
def State.sendPackets (s : State) (idx : Option Nat) (pkg : Nat) (rs : List HomeReq) : State × List HomeReq :=
  rs.foldl (fun (x : State × List HomeReq) r =>
    let (s, r) := x.1.numbered pkg r
    (s.emit (.request idx pkg r), x.2 ++ [r])) (s, [])

/-- The packets of some access. -/
def Loc.packetsOf (l : Loc) (k : Pack) (size : Nat) (write : Option (List Byte)) : List HomeReq :=
  l.packets k (size / 128 + 2) 0 size write

/-! ### Accesses at the coherence point -/

/-- Whether a 32-byte sector among those of a range of device memory is uncorrectable (R363). -/
def State.badRange (s : State) (pa n : Nat) : Bool :=
  s.errs.bad.any fun b => decide (pa / 32 ≤ b) && decide (b ≤ (pa + n - 1) / 32)

def listGen {α : Type} (f : Nat → α) : Nat → List α
  | 0 => []
  | n + 1 => listGen f n ++ [f n]

/-- A byte of a frame in host bias: the host's where it holds a changed copy of the line (R326). -/
def State.biasByte (s : State) (pa : Nat) : Byte :=
  if Config.hostHas s.tick (pa / 64) then Config.hostByte s.tick (2 ^ 60 + pa) else memGet s.mem pa

/-- The bytes at a place as the hub reads them. Those of the host's memory that the part has written and no snoop has taken are
the part's (R327). -/
def State.hubBytes (s : State) (l : Loc) (n : Nat) : List Byte :=
  match l with
  | .dev pa => if s.hostBiased pa then listGen (fun i => s.biasByte (pa + i)) n else memRead s.mem pa n
  | .host pa => listGen (fun i => (Tab.get? s.fabric.owned (pa + i)).getD (Config.hostByte s.tick (pa + i))) n
  | .io pa => listGen (fun i => Config.ioByte s.tick (pa + i)) n
  | .remote pkg _ va _ _ => listGen (fun i => Config.remoteByte s.tick pkg (va57 va + i)) n

/-- Someone reaches bytes of a place below the L1s: the grants of the lines to other cores are recalled before (R249), and a
line of a frame in host bias is requested from the host (R326). -/
def State.approach (s : State) (who : Option Nat) (l : Loc) (n : Nat) : State :=
  match l with
  | .dev pa =>
    let grants := s.fabric.grants.mapVals fun line g =>
      if decide (pa / 128 ≤ line) && decide (line ≤ (pa + n - 1) / 128) && who != some g.core then { g with held := false } else g
    let s := { s with fabric := { s.fabric with grants } }
    if s.hostBiased pa then s.emit (.cacheRequest pa) else s
  | _ => s

/-- The physical place of a page of a partition, if it is device memory. -/
def State.framePa (s : State) (part : Nat) (va : DWord) : Option Nat :=
  match s.walkLeaf part va with
  | some (e, lv, _) => if pteKind e = 1 then some ((pteAddr e + va57 va % 2 ^ levelShift lv) / 65536 * 65536) else none
  | none => none

/-- The race log of a launch (R257). -/
def Launch.logBase (l : Launch) : DWord := (l.racelog >>> 16) <<< 16

/-- How many bytes the done bitmap of a launch has (R284). -/
def Launch.doneBytes (l : Launch) : Nat :=
  let w := match (l.hdrW 0).toNat / 256 % 4 with
    | 0 => 32 | 1 => 64 | _ => 128
  (((l.recW 2).toNat + w - 1) / w + 7) / 8

/-- The number of the first byte of the page that an address of a partition reaches. -/
def State.pageKey (s : State) (part : Nat) (va : DWord) : Option Nat :=
  match s.walkLeaf part va with
  | some (e, lv, _) => match leafLoc (s.space part) 0 Acc.touch va e lv with
    | .ok l => some (l.key - va57 va % 65536)
    | .error _ => none
  | none => none

/-- Some of `m` bytes from a place's number on lie among `n` bytes of a partition from an address, page by page. -/
def State.touches (s : State) (part : Nat) (base : DWord) (n key m : Nat) : Bool :=
  (List.range ((va57 base % 65536 + n + 65535) / 65536)).any fun i =>
    match s.pageKey part (BitVec.ofNat 64 (va57 base / 65536 * 65536 + 65536 * i)) with
    | some f =>
      let lo := if i = 0 then f + va57 base % 65536 else f
      let hi := min (f + 65536) (f + (va57 base % 65536 + n - 65536 * i))
      decide (key < hi) && decide (lo < key + m)
    | none => false

/-- Software writes bytes: where they lie in the argument buffer of a running launch, LDK gives undefined values from now on
(R157), wherever the buffer's pages lead and whether or not the write has performed. -/
def State.argWrite (s : State) (key n : Nat) : State :=
  s.launches.foldl (fun (s : State) (e : Nat × Launch) =>
    if e.2.st = .running ∧ !e.2.argNew ∧ s.touches e.2.part (e.2.rec64 4) 65536 key n then
      s.updLaunch e.1 fun l => { l with argNew := true }
    else s) s

/-- TEAMSDONE and the done bitmap of a launch become undefined (R284). -/
def State.doneUndef (s : State) (l : Launch) : State :=
  ([12, 13, 14, 15] ++ (List.range l.doneBytes).map (64 + ·)).foldl (fun (s : State) (i : Nat) =>
    let a := l.rec64 6 + BitVec.ofNat 64 i
    match s.framePa l.part a with
    | some f => { s with mem := memWrite s.mem (f + va57 a % 65536) [Config.undefDone s.tick i] }
    | none => s) s

/-- Some bytes of device memory lie in the 128 MiB of a save area from a privileged address (R339). -/
def State.inArea (s : State) (base pa n : Nat) : Bool :=
  (List.range 2048).any fun i => match s.xlatePriv (base + 65536 * i) Acc.read with
    | some (.dev f) => decide (pa < f + 65536) && decide (f < pa + n)
    | _ => false

/-- Software has written bytes of device memory: the images of saved partitions that stand there are spoilt (R339). -/
def State.spoilImages (s : State) (pa n : Nat) : State :=
  if s.parts.isEmpty then s
  else
    { s with parts := s.parts.mapVals fun _ p => { p with saved := p.saved.map fun (x : SavedChip) =>
        if x.slot == 3 && !x.cores.isEmpty && (s.inArea x.area pa n) then { x with spoilt := true } else x } }

/-- Software has written bytes of device memory. Of an argument buffer `State.argWrite` says what follows; where they lie in the
completion block or the bitmap of a running launch, TEAMSDONE and the bitmap become undefined (R284); where they lie in its race
log, NEXT and LOST do (R257); images of saved partitions are spoilt (R339). -/
def State.wrote (s : State) (pa n : Nat) : State :=
  s.launches.foldl (fun (s : State) (e : Nat × Launch) =>
    let l := e.2
    if l.st ≠ .running then s
    else
      let done := l.rec64 6 ≠ 0 && s.touches l.part (l.rec64 6) (64 + l.doneBytes) pa n
      let s := if done then (s.doneUndef l).updLaunch e.1 fun l => { l with doneNew := true } else s
      if l.race ∧ l.logBase ≠ 0 then
        match s.framePa l.part l.logBase with
        | some f =>
          if pa / 65536 * 65536 ≤ f ∧ f < pa + n then
            { s with mem := memWrite s.mem f (listGen (Config.undefLog s.tick) 8) }
          else s
        | none => s
      else s) ((s.spoilImages pa n).argWrite pa n)

/-- A write of `n` bytes reaches part of an uncorrectable sector. -/
def State.partBad (s : State) (pa n : Nat) : Bool :=
  s.errs.bad.any fun b => decide (pa / 32 ≤ b) && decide (b ≤ (pa + n - 1) / 32)
    && !(decide (pa ≤ 32 * b) && decide (32 * b + 32 ≤ pa + n))

/-- A sector that a write covers whole gets a new check code; a write of part of an uncorrectable one is dropped
(R363). -/
def State.devWrite (s : State) (pa : Nat) (bs : List Byte) : State :=
  let n := bs.length
  let covered := fun b => decide (pa ≤ 32 * b) && decide (32 * b + 32 ≤ pa + n)
  if s.partBad pa n then s
  else { s with mem := memWrite s.mem pa bs,
                errs := { s.errs with bad := s.errs.bad.filter fun b => !covered b } }

/-- Bytes put into a table of bytes from a key on. -/
def putBytes (t : Tab Byte) (a : Nat) : List Byte → Tab Byte
  | [] => t
  | b :: bs => putBytes (Tab.set t a b) (a + 1) bs

/-- The part writes to a line of the host, which it owns: no L1 keeps a clean copy of it (R327). -/
def State.hostPut (s : State) (pa : Nat) (bs : List Byte) : State :=
  let lo := (Loc.host pa).key / 64
  let hi := ((Loc.host pa).key + bs.length - 1) / 64
  { s.emit (.hostWrite pa bs) with
    cores := s.cores.mapVals fun _ k =>
      { k with l1 := k.l1.filter fun e => e.2.dirty || decide (e.1 / 64 < lo) || decide (hi < e.1 / 64) }
    fabric := { (s.emit (.hostWrite pa bs)).fabric with owned := putBytes s.fabric.owned pa bs } }

/-- Put bytes at a place of this package or of its host. -/
def State.hubPut (s : State) (l : Loc) (bs : List Byte) : State :=
  match l with
  | .dev pa => s.devWrite pa bs
  | .host pa => s.hostPut pa bs
  | .io pa => s.emit (.ioStore pa bs)
  | .remote _ _ _ _ _ => s

/-! ### Invalidation (R211, R318, R319) -/

/-- The 64 KiB pages of an entry's page, the first and how many. -/
def tlbPages (e : Nat × TlbEntry) : Nat × Nat :=
  let size := 2 ^ (levelShift e.2.level - 16)
  (e.1 % 2 ^ 41 * size, size)

/-- Two ranges have something in common. -/
def meets (a n b m : Nat) : Bool := decide (a < b + m) && decide (b < a + n)

/-- A cached translation of a partition overlaps a range of pages. -/
def tlbHit (part : Nat) (g : Nat × Nat) (e : Nat × TlbEntry) : Bool :=
  let x := tlbPages e
  e.1 / 2 ^ 43 % 17 == part && meets x.1 x.2 g.1 g.2

/-- An entry of the walk caches of a partition serves a page of a range. -/
def walkHit (part : Nat) (g : Nat × Nat) (key : Nat) : Bool :=
  let level := key / 2 ^ 57 % 8
  let size := 2 ^ (levelShift level - 16)
  key / 2 ^ 60 == part && meets (key % 2 ^ 57 * size) size g.1 g.2

/-- A word of an instruction cache is tagged with a translation that overlaps a range (R319): `tags` holds the level of the one
that filled it. -/
def wordHit (tags : Tab Nat) (part : Nat) (g : Nat × Nat) (key : Nat) : Bool :=
  let size := 2 ^ (levelShift (Tab.getD tags key 1) - 16)
  key / 2 ^ 57 == part && meets (key % 2 ^ 57 / 65536 / size * size) size g.1 g.2

/-- The invalidation of R211: every TLB of the package, the hub's walk caches, and the instruction-cache words of the pages
(R319). -/
def State.invalidate (s : State) (part : Nat) (g : Nat × Nat) : State :=
  let gone := fun (t : Tab TlbEntry) => t.filter fun e => !tlbHit part g e
  { s with
      cores := s.cores.mapVals fun _ k =>
        { k with tlb := gone k.tlb, icache := k.icache.filter fun e => !wordHit k.ictag part g e.1 }
      fabric := { s.fabric with tlb := gone s.fabric.tlb, walks := s.fabric.walks.filter fun e => !walkHit part g e.1 } }

/-! ### Accesses to another package that no lane awaits (R314, R315, R321, R330) -/

/-- A 64 KiB ROUTE leaf that still names the old home is rewritten to the new one, by a compare and swap (R321). -/
def State.rewritePeer (s : State) (part : Nat) (va : DWord) (old new : Nat) : State :=
  match s.walkLeaf part va with
  | some (e, 1, at_) =>
    if pteKind e = 2 ∧ ptePeer e = old then
      s.devWrite at_ (bytes64 (e - BitVec.ofNat 64 (old * 65536) + BitVec.ofNat 64 (new % 4096 * 65536)))
    else s
  | _ => s

/-- What a source does when a home answers not-here (R321), before it asks again. -/
def State.wentTo (s : State) (part pkg space : Nat) (va : DWord) (peer : Nat) : State :=
  ((s.dropRemotePage pkg space va).rewritePeer part va pkg peer).invalidate part (va57 va / 65536, 1)

/-- An access that the part makes for no lane: of a place in another package the home is asked, and where it has gone the next
one, up to a fifth not-here; what a home says is free (log 76). The place where the access takes effect, or the cause. -/
def State.askNow (part : Nat) (k : Pack) (size : Nat) (write : Option (List Byte)) :
    Nat → State → Loc → State × Except (BitVec 8) Loc
  | 0, s, _ => (s, .error 6)
  | hops + 1, s, l =>
    match l with
    | .remote pkg space va leaf64 mode =>
      let s := (s.sendPackets none pkg (l.packetsOf k size write)).1
      match Config.homeSays s.tick pkg (va57 va) with
      | .taken => (s, .ok l)
      | .missing => (s, .error 6)
      | .denied => (s, .error 7)
      | .lost => (s, .error 0x10)
      | .moved q =>
        State.askNow part k size write hops (s.wentTo part pkg space va q) (.remote q space va leaf64 mode)
    | l => (s, .ok l)

/-- A read of that kind, and a write. -/
def State.askRead (s : State) (part path : Nat) (l : Loc) (n : Nat) : State × Except (BitVec 8) Loc :=
  State.askNow part { path, tid := 0xFFFFFFFF, atomic := none, order := 0 } n none 5 s l
def State.askWrite (s : State) (part path : Nat) (l : Loc) (bs : List Byte) : State × Except (BitVec 8) Loc :=
  State.askNow part { path, tid := 0xFFFFFFFF, atomic := none, order := 0 } bs.length (some bs) 5 s l

def Loc.bad (s : State) (l : Loc) (n : Nat) : Bool :=
  match l with
  | .dev pa => s.badRange pa n
  | _ => false

/-- A read of the front end in a partition's space, within one page. -/
def State.hubRead (s : State) (part : Nat) (va : DWord) (n : Nat) : State × Except (BitVec 8) (List Byte) :=
  match s.xlate none 0 part va Acc.read with
  | (s, .ok l) => match s.askRead part 0 l n with
    | (s, .ok l) => if l.bad s n then (s, .error 0x10) else (s.approach none l n, .ok (s.hubBytes l n))
    | (s, .error c) => (s, .error c)
  | (s, .error c) => (s, .error c)

/-- A write of the front end in a partition's space on a path, within one page. -/
def State.hubWriteOn (s : State) (path part : Nat) (va : DWord) (bs : List Byte) : State × Except (BitVec 8) Unit :=
  match s.xlate none path part va Acc.write with
  | (s, .ok l) => match s.askWrite part path l bs with
    | (s, .ok l) => ((s.approach none l bs.length).hubPut l bs, .ok ())
    | (s, .error c) => (s, .error c)
  | (s, .error c) => (s, .error c)
/-- One on path V. -/
def State.hubWrite (s : State) (part : Nat) (va : DWord) (bs : List Byte) : State × Except (BitVec 8) Unit :=
  s.hubWriteOn 0 part va bs

/-- As `hubWrite`, with a failed write dropped. -/
def State.hubWriteD (s : State) (part : Nat) (va : DWord) (bs : List Byte) : State := (s.hubWrite part va bs).1

/-- A read in the privileged space. -/
def State.privRead (s : State) (va n : Nat) : Option (List Byte) :=
  match s.xlatePriv va Acc.read with
  | some l => if l.bad s n then none else some (s.hubBytes l n)
  | none => none

/-- A write in the privileged space. -/
def State.privWrite (s : State) (va : Nat) (bs : List Byte) : Option State :=
  match s.xlatePriv va Acc.write with
  | some l => some (((s.privFill va).approach none l bs.length).hubPut l bs)
  | none => none

/-! ### Accesses of a core through its L1 -/

/-- The bytes of a place below the L1s: the L2's, the host's, or, of a line homed elsewhere, the far cache's or the home's. -/
def State.below (s : State) (l : Loc) (n : Nat) : List Byte :=
  match l with
  | .remote _ _ _ _ _ => (s.hubBytes l n).mapIdx fun i b => (Tab.get? s.fabric.far (l.key + i)).getD b
  | l => s.hubBytes l n

def l1Put (dirty : Bool) (t : Tab L1Byte) (k : Nat) : List Byte → Tab L1Byte
  | [] => t
  | b :: bs => l1Put dirty (Tab.set t k { val := b, dirty }) (k + 1) bs

/-- Bytes from below enter the L1 where it holds none. -/
def l1Fill (t : Tab L1Byte) (k : Nat) : List Byte → Tab L1Byte
  | [] => t
  | b :: bs => l1Fill (if (Tab.get? t k).isSome then t else Tab.set t k { val := b, dirty := false }) (k + 1) bs

/-- The clean copies of the L1 for which `f` holds are invalidated. -/
def State.l1Drop (s : State) (c : Nat) (f : Nat → Bool) : State :=
  s.updCore c fun k => { k with l1 := k.l1.filter fun e => e.2.dirty || !f e.1 }

/-- The clean copies of a line that the L1 no longer holds are gone (R236); one that is still what is below is as good as
read again. -/
def State.l1Lapse (s : State) (c : Nat) (l : Loc) : State :=
  let k := l.key
  s.updCore c fun x => { x with l1 := x.l1.filter fun e =>
    e.2.dirty || !(e.1 / 128 == k / 128 && s.below (l.at_ ((e.1 : Int) - k)) 1 != [e.2.val] && !Config.l1Holds s.tick (k / 128)) }

/-- A core's read of bytes that lie within one sector, at its L1 (R236, R238): where the read goes `past` the L1 the clean
copies of its sector go before; the sector's missing bytes come from below, and stay where `keep` says so. -/
def State.readL1 (s : State) (c : Nat) (l : Loc) (n : Nat) (past keep : Bool) : State × List Byte :=
  let k := l.key
  let back := k % 32
  let s := if past then s.l1Drop c fun x => x / 32 == k / 32 else s.l1Lapse c l
  let held := (List.range 32).all fun i => (Tab.get? (s.core c).l1 (k - back + i)).isSome
  let s := if held then s else s.approach (some c) (l.at_ (-back)) 32
  let t := l1Fill (s.core c).l1 (k - back) (s.below (l.at_ (-back)) 32)
  let bs := listGen (fun i => ((Tab.get? t (k + i)).getD default).val) n
  (if keep then s.updCore c fun x => { x with l1 := t } else s, bs)

/-- A core's read of any number of bytes, sector by sector; `fuel` bounds the sectors. -/
def State.readL1s (c : Nat) : Nat → Loc → Nat → State → State × List Byte
  | 0, _, _, s => (s, [])
  | fuel + 1, l, n, s =>
    let m := min n (32 - l.key % 32)
    match s.readL1 c l m false true with
    | (s, bs) => match State.readL1s c fuel (l.at_ m) (n - m) s with
      | (s, rest) => (s, bs ++ rest)

def State.coreBytes (s : State) (c : Nat) (l : Loc) (n : Nat) : State × List Byte := State.readL1s c (n / 32 + 2) l n s

/-- A result that awaits `key` has come: the agent's entry gets the writes. -/
def Core.deliver (k : Core) (ag key : Nat) (ws : List LaneWrite) : Core :=
  { k with agents := Tab.upd k.agents ag fun a =>
      { a with pending := a.pending.map fun p =>
          if p.await.contains key then { p with await := p.await.filter (· != key), writes := p.writes ++ ws } else p } }

/-- The number by which a result awaits a load that has not taken its value. -/
def loadKey (id : Nat) : Nat := 2 ^ 66 + id

/-- Some bytes lie among those of a load. -/
def Late.meets (x : Late) (key n : Nat) : Bool := decide (x.loc.key < key + n) && decide (key < x.loc.key + x.n)

/-- Where a word of an allocation stands: its memory, which is 0 the scratchpad, 1 the tiles and 2 scale memory, and its
first byte; 3 where it is no such word. -/
def granPlace : Granule → Nat × Nat
  | .scratch off => (0, off / 4 * 4)
  | .tile i => (1, 4 * i)
  | .scale off => (2, off / 4 * 4)
  | _ => (3, 0)

/-- The first word with uncorrectable data among some bytes of an allocation (R363). -/
def Res.badAt (r : Res) (mem off n : Nat) : Option Nat :=
  (r.bad.map granPlace).findSome? fun p => if p.1 == mem && meets p.2 4 off n then some p.2 else none
/-- A write of some bytes reaches such a word in part. -/
def Res.partBad (r : Res) (mem off n : Nat) : Bool :=
  (r.bad.map granPlace).any fun p =>
    p.1 == mem && meets p.2 4 off n && !(decide (off ≤ p.2) && decide (p.2 + 4 ≤ off + n))
/-- Words that a write covers whole get a new check code. -/
def Res.mend (r : Res) (mem off n : Nat) : Res :=
  { r with bad := r.bad.filter fun g =>
      !((granPlace g).1 == mem && decide (off ≤ (granPlace g).2) && decide ((granPlace g).2 + 4 ≤ off + n)) }

/-- The bytes of an access that some entry of the list still holds. -/
def Outst.covers (o : Outst) (k : Nat) : Bool := decide (o.loc.key ≤ k) && decide (k < o.loc.key + o.bytes.length)

end Sys2Proof.Machine
end

