-- ==== Sys2Proof/Machine/Race.lean ====
section
/-! DEFINITION. A launch's releases and acquires (R45, R253), race detection (R252 to R258), and the loads and stores of a
core that have issued and are not performed (R238 to R241). -/

namespace Sys2Proof.Machine

/-- The chiplet, row and column of a logical core number (R13, R279). -/
def chipOf (c : Nat) : Nat := c / 40
def rowOf (c : Nat) : Nat := c % 40 / 7
def colOf (c : Nat) : Nat := c % 40 % 7
/-- TFRAME and RACECTL as an event of a cycle uses them: as they stood before that cycle's writes (R213, R258). -/
def Launch.tframeAt (l : Launch) (now : Nat) : DWord :=
  match l.was with
  | some (t, f, _) => if t = now then f else l.tframe
  | none => l.tframe
def Launch.racectlAt (l : Launch) (now : Nat) : Word :=
  match l.was with
  | some (t, _, r) => if t = now then r else l.racectl
  | none => l.racectl
/-- A cycle's first write of TFRAME or RACECTL keeps both as they stood. -/
def Launch.keepWas (l : Launch) (now : Nat) : Launch :=
  match l.was with
  | some (t, _, _) => if t = now then l else { l with was := some (now, l.tframe, l.racectl) }
  | none => { l with was := some (now, l.tframe, l.racectl) }

/-- The key of a thread of a launch. -/
def threadKey (lid tid : Nat) : Nat := lid * 2 ^ 32 + tid

/-- The number of the shepherd in a core's table of threads. -/
def shepTid : Nat := 2 ^ 32 - 1

/-- A thread that SPAWN has just made (R140), or a shepherd's per-thread state at its start (R280). -/
def Thread.fresh (lid tid : Nat) (next : DWord) : Thread :=
  { lid, tid, place := .stray, next, joined := false, resume := false, c := [], depth := 0, inHandler := false,
    probe := false, hold := none, tcause := 0, taddr := 0, tpc := 0, park := none, trap := none, row := none, epCore := 0, epChip := 0,
    epPkg := 0, racePass := false, tblk := 0, bad := [] }

def State.thread (s : State) (c lid tid : Nat) : Thread :=
  Tab.getD (s.core c).threads (threadKey lid tid) (Thread.fresh lid tid 0)
def State.setThread (s : State) (c : Nat) (t : Thread) : State :=
  s.updCore c fun k => { k with threads := Tab.set k.threads (threadKey t.lid t.tid) t }
def State.updThread (s : State) (c lid tid : Nat) (f : Thread → Thread) : State :=
  s.updCore c fun k => { k with threads := Tab.set k.threads (threadKey lid tid) (f (s.thread c lid tid)) }

/-- A thread's epochs after an acquire at a scope: those of the scope and of every narrower level are LEP (R253). -/
def Thread.acquired (t : Thread) (lep : BitVec 16) (scope : Nat) : Thread :=
  { t with epCore := lep, epChip := if 3 ≤ scope then lep else t.epChip, epPkg := if 4 ≤ scope then lep else t.epPkg }

/-- Some releases have performed: LEP rises by one for each (R253), and an acquire of the same cycle has the raised value
(R258). -/
def State.releasedBy (s : State) (lid n : Nat) : State :=
  let s := s.updLaunch lid fun l => { l with lep := if l.race then l.lep + BitVec.ofNat 16 n else l.lep }
  let l := s.launchD lid
  if l.race then
    (l.acqs.filter fun x => x.at_ == s.cycles).foldl (fun s x => s.updCore x.core fun k =>
      { k with threads := Tab.upd k.threads (threadKey lid x.tid) fun t => t.acquired l.lep x.scope }) s
  else s

def State.released (s : State) (lid : Nat) : State := s.releasedBy lid 1

/-- OVFCOUNT of two parts added, saturating at 255. -/
def addOvf (x y : Word) : Word :=
  BitVec.ofNat 32 (min 255 (x.toNat / 2 ^ 24 + y.toNat / 2 ^ 24) * 2 ^ 24)

/-- A core's flags and OVFCOUNT join the hub's word (R45). -/
def State.mergeFlags (s : State) (c lid : Nat) : State :=
  match Tab.get? (s.core c).res lid with
  | some r =>
    let s := s.updLaunch lid fun l =>
      { l with num := ((l.num ||| r.num) &&& 0xFF#32) ||| addOvf l.num r.num ||| (l.num &&& 0x7F0000#32) }
    s.updRes c lid fun r => { r with num := r.num &&& 0x7F0000#32 }
  | none => s

/-! ### Race detection (R252 to R258) -/

/-- Who makes a checked access: the core, the launch, the thread or the shepherd, and the word. -/
structure Racer where
  core : Nat
  lid  : Nat
  tid  : Nat
  shep : Bool
  pc   : DWord
  deriving DecidableEq, Repr, Inhabited

/-- The WTID of an agent (R254). -/
def raceTid (shep : Bool) (tid : Nat) : Word := if shep then 0xFFFFFFFF else BitVec.ofNat 32 tid

/-- The shadow record of a sector takes a value; what it was before this cycle stays known in it (R250, R258). -/
def State.putShadow (s : State) (pa : Nat) (x : Shadow) : State :=
  let k := pa / 32
  let was := match Tab.get? s.shadowWas k with
    | some (t, old) => if t = s.cycles then (t, old) else (s.cycles, Tab.get? s.shadow k)
    | none => (s.cycles, Tab.get? s.shadow k)
  { s with shadow := Tab.set s.shadow k x, shadowWas := Tab.set s.shadowWas k was }

/-- The shadow record against which an access of a core is checked, while its line is in the L2; one whose line has left is lost
(R254, R258). A read comes before the stores of other cores in its cycle (R250). -/
def State.shadowOf (s : State) (c pa : Nat) (write : Bool) : State × Option Shadow :=
  let k := pa / 32
  if !Config.shadowHolds s.tick k then ({ s with shadow := Tab.erase s.shadow k }, none)
  else match Tab.get? s.shadow k, Tab.get? s.shadowWas k with
    | some x, some (t, old) => (s, if t = s.cycles ∧ !write ∧ x.wcore ≠ c then old else some x)
    | x, _ => (s, x)

/-- The bytes of a sector that an access touches. -/
def maskOf (pa n : Nat) : BitVec 32 := BitVec.ofNat 32 ((2 ^ n - 1) * 2 ^ (pa % 32))

/-- The conflict of R255, with the epoch that the check used. -/
def raceConflict (rec_ : Option Shadow) (w : Racer) (t : Thread) (m : BitVec 32) (atomic : Bool) :
    Option (Shadow × BitVec 16) :=
  match rec_ with
  | none => none
  | some x =>
    let same := x.wtid == raceTid w.shep w.tid && x.wsh == w.shep && (!w.shep || x.wcore == w.core)
    let ep := if x.wcore = w.core then t.epCore
      else if chipOf x.wcore = chipOf w.core then t.epChip
      else t.epPkg
    let d := (ep - x.wep).toNat
    if m &&& x.wmask != 0 && !same && !(atomic && x.wat) && (d == 0 || decide (2 ^ 15 ≤ d)) then some (x, ep) else none

/-- The words of a race log record (R257). -/
def raceWords (l : Launch) (w : Racer) (x : Shadow) (ep : BitVec 16) (va : DWord) (write atomic : Bool) : List Word :=
  let b := fun (c : Bool) (i : Nat) => if c then 2 ^ i else 0
  [va.setWidth 32, (va >>> 32).setWidth 32, raceTid w.shep w.tid, x.wtid, (w.pc - l.codeBase).setWidth 32,
   BitVec.ofNat 32 (b w.shep 23 + b x.wsh 22 + b atomic 21 + b write 20 + x.wcore % 512 * 2 ^ 11 + w.core * 4),
   BitVec.ofNat 32 (x.wep.toNat * 65536 + ep.toNat), l.recW 8]

/-- One record of the race log, or one more LOST (R257). -/
def State.raceLog (s : State) (lid : Nat) (ws : List Word) : State :=
  let l := s.launchD lid
  let base := l.logBase
  let lost := fun (s : State) => match s.hubRead l.part (base + 4) 4 with
    | (s, .ok bs) => s.hubWriteD l.part (base + 4)
        (bytes32 (if word32 bs = 0xFFFFFFFF then 0xFFFFFFFF else word32 bs + 1))
    | (s, .error _) => s
  if base = 0 then lost s
  else match s.hubRead l.part base 4 with
    | (s, .ok bs) =>
      let n := (word32 bs).toNat
      if 2047 ≤ n then lost s
      else match s.hubWrite l.part (base + BitVec.ofNat 64 (32 * (n + 1))) (bytesOfWords ws) with
        | (s, .ok _) => s.hubWriteD l.part base (bytes32 (word32 bs + 1))
        | (s, .error _) => lost s
    | (s, .error _) => lost s

/-- The shadow record that a write makes; its WEP is LEP as the write performs (R254). -/
def Racer.shadow (w : Racer) (l : Launch) (pa n scope : Nat) (atomic : Bool) : Shadow :=
  { wtid := raceTid w.shep w.tid, wsh := w.shep, wcore := w.core, wep := l.lep, wat := atomic, wmask := maskOf pa n,
    wsc := scope }

/-- An access as race detection checks it: its virtual address, whether it writes, is an atomic, acquires, its scope, whether the
log mode was in force as it issued (R252), and the number of the first store of its own instruction. -/
structure RaceAcc where
  va     : DWord
  write  : Bool
  atomic : Bool
  acq    : Bool
  scope  : Nat
  log    : Bool
  since  : Nat
  deriving DecidableEq, Repr, Inhabited

/-- The record of a sector that a lane is checked against: that of a store of its own instruction which has not performed, else
the sector's (R255: lanes of one instruction that write the same bytes conflict). -/
def State.raceRecord (s : State) (w : Racer) (x : RaceAcc) (pa : Nat) : State × Option Shadow :=
  match (s.shadowOf w.core pa x.write) with
  | (s, r) =>
    let own := (s.core w.core).outst.foldl (fun (b : Option Shadow) o =>
      if decide (x.since ≤ o.id) && o.loc.key / 32 == pa / 32 && o.rec_.isSome then o.rec_ else b) none
    (s, own.or r)

/-- The check of R255 on the bytes of one sector, before the access takes effect: true where it parks. An access that acquires
is checked with the epochs that it sets, so that it does not conflict with the release that it reads (log 68). -/
def State.raceCheck (s : State) (w : Racer) (x : RaceAcc) (pa n : Nat) : State × Bool :=
  let l := s.launchD w.lid
  let t := s.thread w.core w.lid w.tid
  let t := if x.acq then t.acquired l.lep x.scope else t
  match s.raceRecord w x pa with
  | (s, rec_) => match raceConflict rec_ w t (maskOf pa n) x.atomic with
    | none => (s, false)
    | some (y, ep) =>
      if x.log then ((s.mergeFlags w.core w.lid).raceLog w.lid (raceWords l w y ep x.va x.write x.atomic), false)
      else (s, true)

/-- The sectors of a range: the offset of each piece and its length. -/
def sectorsOf (pa : Nat) : Nat → Nat → Nat → List (Nat × Nat)
  | 0, _, _ => []
  | fuel + 1, off, n =>
    if n = 0 then []
    else
      let m := min n (32 - (pa + off) % 32)
      (off, m) :: sectorsOf pa fuel (off + m) (n - m)

/-- The checks of race detection on an access to a place (R252): whether it parks. Only memory of this package that the L2
holds has records; the access that a handler lets through once is not checked (R256). -/
def State.raced (s : State) (w : Racer) (x : RaceAcc) (l : Loc) (n : Nat) : State × Bool :=
  match l with
  | .dev pa =>
    if !(s.launchD w.lid).race || s.hostBiased pa then (s, false)
    else if (s.thread w.core w.lid w.tid).racePass then
      (s.updThread w.core w.lid w.tid fun t => { t with racePass := false }, false)
    else (sectorsOf pa (n / 32 + 2) 0 n).foldl (fun (y : State × Bool) g =>
      if y.2 then y else y.1.raceCheck w { x with va := x.va + BitVec.ofNat 64 g.1 } (pa + g.1) g.2) (s, false)
  | _ => (s, false)

/-- A write of some bytes to memory of this package is performed: its sectors take its record (R254, R255). -/
def State.raceWrote (s : State) (w : Racer) (l : Loc) (n scope : Nat) (atomic : Bool) : State :=
  match l with
  | .dev pa =>
    let la := s.launchD w.lid
    if la.race && !s.hostBiased pa && !s.partBad pa n then
      (sectorsOf pa (n / 32 + 2) 0 n).foldl (fun s g => s.putShadow (pa + g.1) (w.shadow la (pa + g.1) g.2 scope atomic)) s
    else s
  | _ => s

/-- An acquire sets the epochs of its scope and of every narrower level to LEP (R253). -/
def State.acquireEpoch (s : State) (c lid tid scope : Nat) : State :=
  let l := s.launchD lid
  let a : Acq := { at_ := s.cycles, core := c, tid, scope }
  if l.race then
    (s.updThread c lid tid fun t => t.acquired l.lep scope).updLaunch lid fun l =>
      { l with acqs := (l.acqs.filter fun x => x.at_ == s.cycles) ++ [a] }
  else s

/-- A write of a path other than V makes the shadow records of its sectors invalid (R254). -/
def State.shadowClear (s : State) (pa n : Nat) : State :=
  { s with shadow := s.shadow.filter fun e => decide (e.1 < pa / 32) || decide ((pa + n - 1) / 32 < e.1) }

/-! ### Loads and stores of a core -/

/-- A load takes its value (R238, R241), with its check by race detection where that is in log mode (R255). One of an argument
buffer that software has written is undefined (R157). -/
def State.takeLate (s : State) (c : Nat) (x : Late) : State :=
  let w : Racer := { core := c, lid := x.lid, tid := x.tid.getD shepTid, shep := x.tid.isNone, pc := x.pc }
  let s := if x.log then
      (s.raced w { va := x.va, write := false, atomic := false, acq := false, scope := x.scope, log := true,
                   since := (s.core c).nextOut } x.loc x.n).1
    else s
  match s.readL1 c x.loc x.n (!x.keep || decide (3 ≤ x.scope)) x.keep with
  | (s, bs) =>
    let bs := if x.arg && (s.launchD x.lid).argNew then listGen (Config.undefArg s.tick) x.n else bs
    let ws := x.dst.zipWith (fun g v => ({ lane := x.lane, reg := g, val := v } : LaneWrite)) (loadWords x.n x.sext bs)
    s.updCore c fun k => { k.deliver x.ag (loadKey x.id) ws with late := k.late.filter fun y => y.id != x.id }

/-- The loads of a core for which `f` holds take their values, in issue order. -/
def State.takeLates (s : State) (c : Nat) (f : Late → Bool) : State :=
  ((s.core c).late.filter f).foldl (fun s x => s.takeLate c x) s

/-- The loads of one thread of some bytes take their values: its reads of a byte keep their order (R240). -/
def State.takeOwn (s : State) (c lid : Nat) (tid : Option Nat) (key n : Nat) : State :=
  s.takeLates c fun x => x.lid == lid && x.tid == tid && x.meets key n

/-- A store or an atomic of a thread leaves what stood there to the paths that it is not joined to (R182, R237). -/
def State.leaveStale (s : State) (c lid : Nat) (tid : Option Nat) (l : Loc) (n : Nat) : State :=
  let old := (s.below l n).mapIdx fun i b => match Tab.get? (s.core c).l1 (l.key + i) with
    | some x => x.val
    | none => b
  s.updCore c fun k => { k with stale := k.stale ++ [{ lid, tid, key := l.key, old, c := true, m := true }] }

/-- A word that path C or M reads where stores of the agent have not been joined to that path: as memory holds it, or as it stood
before one of those stores (R182, R237). `es` are those stores in order. -/
def unjoinedWord (tick key : Nat) (es : List Stale) (bs : List Byte) : List Byte :=
  let mine := es.filter fun x => meets x.key x.old.length key bs.length
  let k := Config.unjoined tick key % (mine.length + 1)
  (mine.drop (mine.length - k)).reverse.foldl (fun bs x => bs.mapIdx fun i b =>
    if x.key ≤ key + i ∧ key + i < x.key + x.old.length then x.old.getD (key + i - x.key) b else b) bs

/-- The bytes that such a path reads from a place, word by word of memory; `fuel` bounds the words. -/
def unjoinedBytes (tick : Nat) (es : List Stale) : Nat → Nat → List Byte → List Byte
  | 0, _, bs => bs
  | fuel + 1, key, bs =>
    let n := 4 - key % 4
    if bs.isEmpty || es.isEmpty then bs
    else unjoinedWord tick key es (bs.take n) ++ unjoinedBytes tick es fuel (key + n) (bs.drop n)

/-- What the stores of a thread have left to path C, or to path M. -/
def State.leftC (s : State) (c lid : Nat) (tid : Option Nat) : List Stale :=
  (s.core c).stale.filter fun x => x.c && x.lid == lid && x.tid == tid
def State.leftM (s : State) (c lid : Nat) (tid : Option Nat) : List Stale :=
  (s.core c).stale.filter fun x => x.m && x.lid == lid && x.tid == tid

/-- An XFENCE of a thread joins paths: what its stores had left to them is gone (R170). -/
def State.joined (s : State) (c lid : Nat) (tid : Option Nat) (pathC pathM : Bool) : State :=
  s.updCore c fun k => { k with stale := (k.stale.map fun x =>
    if x.lid == lid && x.tid == tid then { x with c := x.c && !pathC, m := x.m && !pathM } else x).filter fun x => x.c || x.m }

/-- A store of a thread or shepherd on path V, or of the part on its behalf: visible on the core at once, performed
at its coherence point later (R238). Earlier loads of its bytes that look past the L1, and those of its own thread, have
taken their values (R240). IO stores leave at once (R327). -/
def State.coreStore (s : State) (c lid : Nat) (tid : Option Nat) (l : Loc) (bs : List Byte) (scope : Nat)
    (rel : Bool) (rec_ : Option Shadow) : State :=
  match l with
  | .io pa => s.emit (.ioStore pa bs)
  | _ =>
    let s := s.takeLates c fun x =>
      x.meets l.key bs.length && (decide (3 ≤ x.scope) || (x.lid == lid && x.tid == tid))
    let s := (s.leaveStale c lid tid l bs.length).argWrite l.key bs.length
    s.updCore c fun k =>
      { k with
          l1 := l1Put true k.l1 l.key bs
          outst := k.outst ++ [{ id := k.nextOut, lid, tid, loc := l, bytes := bs, scope, rel, rec_ }]
          nextOut := k.nextOut + 1 }

end Sys2Proof.Machine
end

