-- ==== Sys2Proof/Machine/ErrLog.lean ====
section
/-! DEFINITION. The error log (R361, R362), the performing of a core's stores (R238, R247, R363), and the service state of
cores and chiplets (R367). -/

namespace Sys2Proof.Machine

/-- The fields of a log record but for SEQ, COUNT and WINDOW (R362). -/
structure ErrRec where
  kind   : Nat
  unit   : Nat
  cause  : Nat
  spares : Nat
  addr   : DWord
  loc    : Word
  launch : Word
  who    : Word
  deriving DecidableEq, Repr, Inhabited

/-- A record of a kind about a location. -/
def ErrRec.at_ (kind unit : Nat) (loc : Word) : ErrRec :=
  { kind, unit, cause := 0, spares := 0, addr := 0, loc, launch := 0, who := 0 }

/-- The words of a record; `count` are the corrected errors of its location in this window. -/
def ErrRec.words (f : ErrRec) (seq : Word) (window count : Nat) : List Word :=
  [BitVec.ofNat 32 (f.kind * 2 ^ 28 + f.unit * 2 ^ 24 + f.cause * 65536 + min 255 count * 256 + f.spares), seq,
   f.addr.setWidth 32, (f.addr >>> 32).setWidth 32, f.loc, f.launch, f.who, BitVec.ofNat 32 window]

def State.errBase (s : State) : Nat := (s.reg64 0x800).toNat
/-- The record of a sequence number. -/
def State.errAddr (s : State) (seq : Word) : Nat := s.errBase + 32 * (seq.toNat % 512)

/-- The windows that have ended close (R362, R365): the counts return to zero and a new CEWIN takes effect. -/
def State.closeWindows (s : State) : State :=
  let e := s.errs
  let first := e.start + e.win * 1000000000
  if s.nanos < first then s
  else
    let win := (s.reg 0x810).toNat
    let more := (s.nanos - first) / (win * 1000000000)
    { s with errs := { e with counts := [], window := e.window + 1 + more, start := first + more * (win * 1000000000), win } }

/-- The counter of a location, new where there is none (R365). -/
def State.ceCounter (s : State) (unit : Nat) (loc : Word) : CeCount :=
  (s.errs.counts.find? fun x => x.unit == unit && x.loc == loc).getD { unit, loc, count := 0, ue := 0 }

/-- ERROR_LOG_WRITE (R361): an event is logged. The event that finds 511 unread records writes the overflow record, and
later ones only count in its LOST. Nothing is written without a log, or where the log cannot be written (R388). -/
def State.errLog (s : State) (f : ErrRec) : State :=
  let s := s.closeWindows
  let next := s.reg 0x808
  if s.errBase = 0 then s
  else match s.errs.lost with
    | some (seq, n) =>
      let n := min 0xFFFFFFFF (n + 1)
      let s := { s with errs := { s.errs with lost := some (seq, n) } }
      (s.privWrite (s.errAddr (BitVec.ofNat 32 seq) + 28) (bytes32 (BitVec.ofNat 32 n))).getD s
    | none =>
      let noRoom := decide (511 ≤ (next - s.reg 0x80C).toNat)
      let ws := if noRoom then (ErrRec.at_ 8 0 0).words next 0 0 else f.words next s.errs.window (s.ceCounter f.unit f.loc).count
      match s.privWrite (s.errAddr next) (bytesOfWords ws) with
      | none => s
      | some s =>
        let s := if noRoom then { s with errs := { s.errs with lost := some (next.toNat, 0) } } else s
        (s.setReg 0x808 (next + 1)).msix 3

/-- UNIT and LOC of the sector that a consumer met: of one of device memory its row in HBM, of another they are free
(log 52). -/
def State.ueSector (s : State) (sector : Option Nat) : Nat × Word :=
  match sector with
  | some b => (0, Config.hbmLoc b)
  | none => ((Config.ueUnit s.tick (s.reg 0x808)).toNat, Config.ueLoc s.tick (s.reg 0x808))

/-- The sector of device memory that an address of a partition reaches; address 0 is none (R363). -/
def State.sectorAt (s : State) (part : Nat) (va : DWord) : Option Nat :=
  if va = 0 then none
  else match s.walkLeaf part va with
    | some (e, lv, _) => if pteKind e = 1 then some ((pteAddr e + va57 va % 2 ^ levelShift lv) / 32) else none
    | none => none

/-- A record of KIND 2: uncorrectable data met by a consumer (R362, R363). -/
def State.ueLog (s : State) (sector : Option Nat) (launch who : Word) (addr : DWord) : State :=
  let (unit, loc) := s.ueSector sector
  s.errLog { kind := 2, unit, cause := 0x10, spares := 0, addr, loc, launch, who }

/-- A record of KIND 2 of a launch that read a virtual address. -/
def State.ueRead (s : State) (lid : Nat) (who : Word) (addr : DWord) : State :=
  let l := s.launchD lid
  s.ueLog (s.sectorAt l.part addr) (l.recW 8) who addr

/-- UNIT of a granule of a core, and what names it there (R362): a word of an allocation by its launch, a register by its
thread. -/
def granKey (lid tid : Nat) : Granule → Nat × Nat
  | .scratch off => (4, lid * 2 ^ 32 + off / 4)
  | .tile i => (7, (lid * 2 ^ 32 + i) * 2)
  | .scale off => (7, (lid * 2 ^ 32 + off / 4) * 2 + 1)
  | .wReg n => (6, threadKey lid tid * 64 + n.toNat)
  | .cReg n => (5, threadKey lid tid * 64 + n.toNat)
  | .global _ => (8, 0)

/-- LOC of a place on a core: its chiplet, its logical core, and a quadrant or bank and a row that are free (R362, log 52). -/
def coreLoc (c unit key : Nat) : Word :=
  BitVec.ofNat 32 (chipOf c * 2 ^ 28 + c % 40 * 2 ^ 22 + (Config.granRow unit c key).toNat)

/-- A record of KIND 2 about data that a launch read on a core: ADDR is the virtual address, or 0 where there is none (R362,
R363). -/
def State.ueMet (s : State) (c lid tid : Nat) (who : Word) (g : Granule) : State :=
  match g with
  | .global va => s.ueRead lid who va
  | g =>
    let (unit, key) := granKey lid tid g
    s.errLog { kind := 2, unit, cause := 0x10, spares := 0, addr := 0, loc := coreLoc c unit key,
               launch := (s.launchD lid).recW 8, who }

/-- A store of part of an uncorrectable sector has been dropped: a record of KIND 2 (R363). -/
def State.partLog (s : State) (l : Loc) (n : Nat) (launch who : Word) : State :=
  match l with
  | .dev pa => if s.partBad pa n then s.ueLog (some (pa / 32)) launch who 0 else s
  | _ => s

/-! ### Stores of a core -/

/-- What a store that is performed writes at the L2, the far cache or the host (R238, R247). One of part of an uncorrectable
sector is dropped, with a record of KIND 2 (R363, log 52). -/
def State.storeLands (s : State) (c : Nat) (o : Outst) : State :=
  if o.bytes.isEmpty then s
  else match o.loc with
    | .dev pa =>
      if s.partBad pa o.bytes.length then
        s.partLog o.loc o.bytes.length ((s.launchD o.lid).recW 8) ((o.tid.map (BitVec.ofNat 32)).getD 0xFFFFFFFF)
      else
        let s := (s.approach (some c) o.loc o.bytes.length).devWrite pa o.bytes
        let s := s.wrote pa o.bytes.length
        match o.rec_ with
        | some x => s.putShadow pa { x with wep := (s.launchD o.lid).lep }
        | none => s
    | l => s.hubPut l o.bytes

/-- An agent that waits for stores of its core goes on once none of those is left. -/
def Agent.wakeStores (a : Agent) (next : Nat) (rest : List Outst) : Agent :=
  match a.wait with
  | some (.fence spans) =>
    let awaited := fun (x : Outst) => if spans.isEmpty then decide (x.id < a.mark.getD next)
      else spans.any fun g => meets x.loc.key x.bytes.length g.1 g.2
    if rest.any awaited then a else { a with wait := none }
  | _ => a

/-- A store leaves those outstanding: its bytes in the L1 are clean, unless another holds them, and agents that wait for the
core's accesses wake once none of those they wait for is left. -/
def Core.settled (k : Core) (now : Nat) (o : Outst) : Core :=
  let rest := k.outst.filter fun x => x.id != o.id
  { k with
      outst := rest
      settledAt := some now
      l1 := k.l1.map fun e =>
        if o.covers e.1 && !(rest.any fun x => x.covers e.1) then (e.1, { e.2 with dirty := false }) else e
      agents := k.agents.mapVals fun _ a => a.wakeStores k.nextOut rest }

/-- A store or a release fence becomes performed. The earlier loads of its thread have taken their values (R241); a release
merges the core's flags before it performs (R45) and raises LEP after (R253). -/
def State.perform (s : State) (c : Nat) (o : Outst) : State :=
  let s := s.takeLates c fun x => x.lid == o.lid && x.tid == o.tid && decide (x.id < o.id)
  let s := if o.rel then s.mergeFlags c o.lid else s
  let s := (s.storeLands c o).updCore c fun k => k.settled s.cycles o
  if o.rel then s.released o.lid else s

/-! ### Cores and chiplets in service -/

/-- Class code of a chiplet (R13). -/
def classOf (chip : Nat) : Nat := if chip ≤ 3 then 2 else if chip ≤ 5 then 1 else if chip ≤ 7 then 3 else 4

/-- A launch that is queued or runs is bound to a translated image: its key and its size (R301, R303). -/
def State.keyBound (s : State) (x : Transl) : Bool :=
  s.launches.any fun e => (e.2.st == .bound || e.2.st == .running) && e.2.key == x.key && e.2.codeSize == x.size

/-- Translated images are discarded; one that a launch is bound to stays until that launch completes (R303). -/
def State.discardImages (s : State) (f : Transl → Bool) : State :=
  let stays := fun (x : Transl) =>
    if f x then (if s.keyBound x then some { x with doomed := true } else none) else some x
  { s with front := { s.front with cache := s.front.cache.filterMap stays } }

/-- A chiplet leaves service: translated images for a target that no chiplet in service has are discarded (R303). -/
def State.chipLeaves (s : State) (chip : Nat) : State :=
  let v := (s.reg 0x818).toNat - 2 ^ chip
  let has := fun (t : Nat) => (List.range 10).any fun c => v.testBit c && (t == 0 || classOf c == t)
  (s.setReg 0x818 (BitVec.ofNat 32 v)).discardImages fun x => !has x.target

/-- Spare cores used on a chiplet (R361, SVCSTAT). -/
def State.sparesUsed (s : State) (chip : Nat) : Nat := (s.reg 0x818).toNat / 2 ^ (10 + 2 * chip) % 4

/-- A core leaves service (R367): its position moves to a spare of the chiplet, and it is left empty, with the row spares
and the counters of the new core; with no spare left the chiplet leaves service, with a record of KIND 6. -/
def State.retireCore (s : State) (c : Nat) : State :=
  let chip := c / 40
  let v := (s.reg 0x818).toNat
  let s := s.updCore c fun k => { Core.empty with frozen := k.frozen }
  let own := fun (unit : Nat) (at_ : Nat) => decide (4 ≤ unit) && decide (unit ≤ 9) && at_ == chip * 64 + c % 40
  let s := { s with errs := { s.errs with
    faulty := s.errs.faulty.filter (· != c)
    spares := s.errs.spares.filter fun e => !own (e.1 / 2 ^ 32) (e.1 % 2 ^ 32 / 2 ^ 6)
    worn := s.errs.worn.filter fun e => !own e.1 (e.2.toNat / 2 ^ 22)
    counts := s.errs.counts.filter fun e => !own e.unit (e.loc.toNat / 2 ^ 22) } }
  if s.sparesUsed chip < 2 then s.setReg 0x818 (BitVec.ofNat 32 (v + 2 ^ (10 + 2 * chip)))
  else if v.testBit chip then
    (s.chipLeaves chip).errLog
      (ErrRec.at_ 6 9 (BitVec.ofNat 32 (chip * 2 ^ 28 + c % 40 * 2 ^ 22)))
  else s

/-- A chiplet belongs to no partition. -/
def State.chipFree (s : State) (chip : Nat) : Bool :=
  (List.range 16).all fun n => !(s.reg (0x400 + 32 * n)).getLsbD chip

/-- The faulty cores of the chiplets that belong to no partition are spared (R367). -/
def State.serviceFaulty (s : State) : State :=
  (s.errs.faulty.filter fun c => s.chipFree (c / 40)).foldl State.retireCore s

end Sys2Proof.Machine
end

