-- ==== Sys2Proof/Machine/Ops.lean ====
section
/-! DEFINITION. The named operations that the instructions and steps share: agents and threads, results and their
landing (R64 to R68), fetching a word (R79, R122), filing threads (R216), the fault queues (R322, R323), taking a trap
(R201 to R206, R229) and returning from one (R204), stopping and cancelling launches (R147, R206). -/

namespace Sys2Proof.Machine

/-! ### The order of service within a cycle -/

/-- The place of an event in the order of service of one cycle (R22, R149, R185, R187, R213, R227, R235, R250, R258): by
kind, then core, then shepherd (0) and Q0 to Q3 (1 to 4), then age. Kinds: 1 completions of copies and timers, 2 the
forming of droves, 3 issue, 4 filing and the landing of results, 5 loads and 6 stores reaching the coherence point. -/
def turnRank (kind core sub id : Nat) : Nat := ((kind * 1024 + core) * 8 + sub) * 2 ^ 64 + id

/-- An event takes its turn in this cycle, once: nothing where the cycle's order has gone past it. -/
def State.turn (s : State) (rank : Nat) (f : State → State) : State :=
  if rank < s.phase then s else f { s with phase := rank + 1 }

/-- As `turn`, for events of which any number may come at one place of the order. -/
def State.turnOpen (s : State) (rank : Nat) (f : State → State) : State :=
  if rank < s.phase then s else f { s with phase := rank }

/-! ### Agents, threads and launches -/

/-- The agent of a reference. -/
def State.agent? (s : State) (r : AgentRef) : Option Agent := Tab.get? (s.core r.core).agents r.id
def State.agentD (s : State) (r : AgentRef) : Agent := Tab.getD (s.core r.core).agents r.id default
def State.setAgent (s : State) (r : AgentRef) (a : Agent) : State :=
  s.updCore r.core fun k => { k with agents := Tab.set k.agents r.id a }
def State.updAgent (s : State) (r : AgentRef) (f : Agent → Agent) : State :=
  s.updCore r.core fun k => { k with agents := Tab.upd k.agents r.id f }
def State.dropAgent (s : State) (r : AgentRef) : State :=
  s.updCore r.core fun k => { k with agents := Tab.erase k.agents r.id }

/-- The team width (R82). -/
def Launch.width (l : Launch) : Nat :=
  match ((l.hdrW 0).toNat / 256) % 4 with
  | 0 => 32 | 1 => 64 | _ => 128
def Launch.trusted (l : Launch) : Bool := (l.hdrW 0).getLsbD 6
def Launch.probe (l : Launch) : Bool := (l.hdrW 0).getLsbD 5
def Launch.compat (l : Launch) : Bool := (l.hdrW 0).getLsbD 4
def Launch.level (l : Launch) : Nat := (l.hdrW 0).toNat % 16
/-- The width of a team as the team instructions count it (R131). -/
def Launch.teamW (l : Launch) : Nat := if l.compat then 16 else l.width
def Launch.entry (l : Launch) : DWord := l.hdrAddr + (l.hdrW 2).signExtend 64
def Launch.handler (l : Launch) : DWord := l.hdrAddr + (l.hdrW 3).signExtend 64
/-- AGELIM, 0 counting as 64 (R217). -/
def Launch.age (l : Launch) : Nat := if (l.hdrW 4).toNat % 2048 = 0 then 64 else (l.hdrW 4).toNat % 2048
def Launch.nthreads (l : Launch) : Nat := (l.recW 2).toNat
def Launch.scratch (l : Launch) : Nat := (l.hdrW 6).toNat
def Launch.nbells (l : Launch) : Nat := (l.hdrW 5).toNat % 128
def Launch.nchutes (l : Launch) : Nat := (l.hdrW 5).toNat / 256 % 32
def Launch.ntiles (l : Launch) : Nat := (l.hdrW 7).toNat % 32
def Launch.scaleKb (l : Launch) : Nat := (l.hdrW 7).toNat / 256 % 128
/-- The bit of TILEMAP for the page at an offset (R17, R82). -/
def Launch.tilePage (l : Launch) (off : Nat) : Bool :=
  off % 4096 == 0 && (l.hdrW (8 + off / 4096 / 32)).getLsbD (off / 4096 % 32)

/-- A logical position that holds a core (R13). -/
def holdsCore (row col : Nat) : Bool := decide (row ≤ 5) && decide (col ≤ 6) && decide (row * 7 + col < 40)
/-- The quadrant of a thread (R140). -/
def homeQuad (w tid : Nat) : Nat := tid / w % 4

/-! ### Results and their landing -/

/-- The loads of an agent that have not taken their values take them (R241, R242): before a store that is visible at once,
a release, a fence or a trap. -/
def State.flushLoads (s : State) (r : AgentRef) : State := s.takeLates r.core fun x => x.ag == r.id

/-- A lane with the registers that its thread brings along, by number the bad w registers among them. -/
def Lane.of (tid seed : Nat) (w : Tab Word) (p : Tab Bool) (bad : List Nat) : Lane :=
  { tid, zeroed := false, seed, w, p, cw := [], bad, parking := none, exit := none }

/-- A thread takes the c writes of its lane (R121, R229); a register that is written holds good data again. -/
def Thread.takeC (t : Thread) (cw : Tab Word) : Thread :=
  { t with c := cw.foldl (fun c e => Tab.set c e.1 e.2) t.c
           bad := t.bad.filter fun n => decide (64 ≤ n) || (Tab.get? cw n).isNone }

/-- Put a value into a lane's register. -/
def Lane.put (l : Lane) (r : Reg) (v : Word) : Lane :=
  match r with
  | .w n => { l with w := Tab.set l.w n v, bad := l.bad.filter (· != n) }
  | .c n => { l with cw := Tab.set l.cw n v }
  | .p n => { l with p := Tab.set l.p n (v != 0) }

def landWrites (lanes : Tab Lane) (ws : List LaneWrite) : Tab Lane :=
  ws.foldl (fun t x => Tab.upd t x.lane fun l => l.put x.reg x.val) lanes

/-- Entries that may land at a cycle, in issue order: those of classes F4 and F6 whose cycle has come, unless an
earlier entry that stays has a register in common (R66: writes to one register land in issue order). -/
def landGo (now : Nat) (force : Bool) : List Pend → List Reg → Tab Lane → List Pend × Tab Lane
  | [], _, lanes => ([], lanes)
  | p :: ps, held, lanes =>
    let due := p.await.isEmpty && (force || (match p.due with
      | some d => decide (d ≤ now)
      | none => false))
    if due && !(p.regs.any fun r => held.contains r) then landGo now force ps held (landWrites lanes p.writes)
    else
      let (rest, lanes') := landGo now force ps (held ++ p.regs) lanes
      (p :: rest, lanes')

/-- Land what has become readable by a cycle. -/
def Agent.landDue (a : Agent) (now : Nat) : Agent :=
  let (ps, lanes) := landGo now false a.pending [] a.lanes
  { a with pending := ps, lanes }

/-- Land everything but what waits for another package (R68). -/
def Agent.landAll (a : Agent) : Agent :=
  let (ps, lanes) := landGo 0 true a.pending [] a.lanes
  { a with pending := ps, lanes }

/-- Land the first entry of class V that nothing holds back (RESULT_LANDING). In which order results for different
registers land is left open by R67; they land in the order of their issue as far as they can (DESIGN CHOICE, log 73). -/
def landFirstV : List Pend → List Reg → Tab Lane → Option (List Pend × Tab Lane)
  | [], _, _ => none
  | p :: ps, held, lanes =>
    if p.due = none ∧ p.await = [] ∧ !(p.regs.any fun r => held.contains r) then
      some (ps, landWrites lanes p.writes)
    else match landFirstV ps (held ++ p.regs) lanes with
      | some (rest, lanes') => some (p :: rest, lanes')
      | none => none

/-- The count of a scoreboard: the results set on it that have not landed (R65). -/
def Agent.sb (a : Agent) (n : Nat) : Nat := (a.pending.filter fun p => p.sb == some n).length

/-- Latency classes (R64); `n`: no register is written. -/
inductive Latency where
  | f4 | f6 | v
  deriving DecidableEq, Repr

/-- The passes of one instruction (R220). -/
def Agent.passes (a : Agent) : Nat := max 1 ((a.size + 31) / 32)

/-- The bookkeeping of an issued instruction (R64, R65, R68): its result is outstanding until it lands, and counts on its
scoreboard where it writes a register; the next issue
is at least max(GAP, passes) cycles away, and the drove goes on at the next word. -/
def Agent.issued (a : Agent) (now : Nat) (ctl : Ctl) (lat : Latency) (regs : List Reg) (ws : List LaneWrite)
    (await : List Nat) : Agent :=
  let due := match lat with
    | .f4 => some (now + 4)
    | .f6 => some (now + 6)
    | .v => none
  let keep := !regs.isEmpty || !await.isEmpty
  let sb := if ctl.setv && !regs.isEmpty then some ctl.set.toNat else none
  { a with
      pending := if keep then a.pending ++ [{ sb, due, await, regs, writes := ws }] else a.pending
      pc := a.pc + 16
      next := now + max ctl.gap.toNat (max 1 a.passes)
      drain := ctl.drain
      cede := if ctl.cede then some a.pipe else none
      wait := none
      opnds := none
      mark := none
      got := []
      served := []
      stalled := false }

/-- Agents of a core that wait for one thing go on. -/
def State.wakeCore (s : State) (c : Nat) (w : Wait) : State :=
  s.updCore c fun k =>
    { k with agents := k.agents.mapVals fun _ a => if a.wait = some w then { a with wait := none } else a }

/-! ### The words of a launch -/

/-- Relocation of a word of the CODE section for the chiplet that runs it (R300). -/
def Launch.patch (l : Launch) (chip : Nat) (va : DWord) (w : IWord) : IWord :=
  match Tab.get? (Tab.getD l.patches chip []) (va - l.codeBase).toNat with
  | some v => (w.extractLsb' 32 96) ++ v
  | none => w

/-- An address lies in the code section of the launch's image (R122, R124). -/
def Launch.inCode (l : Launch) (va : DWord) : Bool :=
  decide (l.codeBase.toNat ≤ va.toNat) && decide (va.toNat + 16 ≤ l.codeBase.toNat + l.codeSize)

/-- The number of a word in the instruction cache. -/
def icKey (part : Nat) (va : DWord) : Nat := part * 2 ^ 57 + va57 va

/-- The word of memory at an address, by instruction fetch. -/
def State.fetchMem (s : State) (c part : Nat) (va : DWord) : State × Except (BitVec 8) IWord :=
  match s.xlate (some c) 5 part va Acc.exec with
  | (s, .ok l) =>
    if l.bad s 16 then (s, .error 0x10) else (s.approach none l 16, .ok (wordOfBytes (s.hubBytes l 16)))
  | (s, .error e) => (s, .error e)

/-- A word enters the instruction cache, tagged with the translation that fetched it (R319). -/
def State.icFill (s : State) (c part : Nat) (va : DWord) (w : IWord) : State :=
  let level := match (s.leaf (some c) 5 part va).2 with
    | some (_, lv) => lv
    | none => 1
  let key := icKey part va
  s.updCore c fun k => { k with icache := Tab.set k.icache key w, ictag := Tab.set k.ictag key level }

/-- Fetch a word on a core (R122, R210): the instruction cache's copy while it holds it, else memory's. -/
def State.fetchWord (s : State) (c : Nat) (l : Launch) (va : DWord) : State × Except (BitVec 8) IWord :=
  if !l.inCode va then (s, .error 8)
  else
    let key := icKey l.part va
    match Tab.get? (s.core c).icache key with
    | some w =>
      match (s.fetchMem c l.part va).2 with
      | .ok w' =>
        if w' = w || Config.icHolds s.tick key then (s, .ok (l.patch (chipOf c) va w))
        else (s.icFill c l.part va w', .ok (l.patch (chipOf c) va w'))
      | .error _ => (s, .ok (l.patch (chipOf c) va w))
    | none =>
      match s.fetchMem c l.part va with
      | (s, .ok w) => (s.icFill c l.part va w, .ok (l.patch (chipOf c) va w))
      | (s, .error e) => (s, .error e)

/-- The context in which a launch's words are checked (R79, R306). -/
def Launch.ctx (l : Launch) (shep : Bool) : Ctx :=
  { shep, level2 := l.level == 2, width := l.width, compat := l.compat }

/-- The BLK at an address, if a word can be fetched there and is one: its mask, team bit and landing bit. A BLK with a
bad field is a BLK, whose issue then traps with 0x01 (R119). -/
def State.blkAt (s : State) (c : Nat) (l : Launch) (va : DWord) : State × Except (BitVec 8) (Option (DWord × Bool × Bool)) :=
  match s.fetchWord c l va with
  | (s, .ok w) =>
    if bits w 88 8 = 0x02 then match decodeBlk w with
      | .blk _ live team landing => (s, .ok (some (live, team, landing)))
      | _ => (s, .ok none)
    else (s, .ok none)
  | (s, .error e) => (s, .error e)

/-! ### Filing (R214 to R222) -/

def State.quad (s : State) (c q : Nat) : Quad := Tab.getD (s.core c).quads q { folds := [], stray := [], lastElig := 0, refile := (0, 0, none) }
def State.setQuad (s : State) (c q : Nat) (v : Quad) : State :=
  s.updCore c fun k => { k with quads := Tab.set k.quads q v }

def Fold.has (f : Fold) (lid : Nat) (addr : DWord) (resume : Bool) : Bool :=
  f.lid == lid && f.addr == addr && f.resume == resume

/-- The lowest free fold of 32 (R216). -/
def freeFold (folds : Tab Fold) : Nat → Nat → Option Nat
  | _, 0 => none
  | i, n + 1 => if (Tab.get? folds i).isNone then some i else freeFold folds (i + 1) n

/-- The fold of a key: a closed one counts before an open one, so that a thread whose key matches it enters the stray list
(R222). -/
def foldOf (folds : Tab Fold) (lid : Nat) (addr : DWord) (resume : Bool) : Option (Nat × Fold) :=
  (folds.find? fun e => e.2.has lid addr resume && e.2.closed).or (folds.find? fun e => e.2.has lid addr resume)

/-- File a thread at an address (R216): into the open fold of its key, else into the lowest free fold while the stray
list is empty, else into the stray list. -/
def State.fileThread (s : State) (c lid tid : Nat) (addr : DWord) (resume join team landing : Bool) : State :=
  let q := homeQuad (s.launchD lid).width tid
  let qd := s.quad c q
  let mem : Member := { tid, arrived := s.cycles, join }
  let place := fun (p : Place) (s : State) =>
    s.updThread c lid tid fun t => { t with place := p, next := addr, resume, joined := join }
  match foldOf qd.folds lid addr resume with
  | some (n, f) =>
    if f.closed then place .stray (s.setQuad c q { qd with stray := qd.stray ++ [threadKey lid tid] })
    else place (.filed n) (s.setQuad c q { qd with folds := Tab.set qd.folds n { f with members := f.members ++ [mem] } })
  | none =>
    match (if qd.stray.isEmpty then freeFold qd.folds 0 32 else none) with
    | some n =>
      let f : Fold :=
        { lid, addr, resume, team := team && !resume, landing, members := [mem], since := s.cycles, elig := none,
          closed := false }
      place (.filed n) (s.setQuad c q { qd with folds := Tab.set qd.folds n f })
    | none => place .stray (s.setQuad c q { qd with stray := qd.stray ++ [threadKey lid tid] })

/-- File a thread for resumption at a word of a block (R231). -/
def State.fileResume (s : State) (c lid tid : Nat) (addr blk : DWord) : State :=
  (s.updThread c lid tid fun t => { t with tblk := blk }).fileThread c lid tid addr true false false false

/-! ### Eligibility (R217 to R219) -/

/-- The members of a team that exist (R218). -/
def Launch.teamTids (l : Launch) (team : Nat) : List Nat :=
  (List.range l.width).filterMap fun i =>
    if team * l.width + i < l.nthreads then some (team * l.width + i) else none

/-- The arrivals of a fold in order of arrival, ties in ascending TID (R220). -/
def insertMember (m : Member) : List Member → List Member
  | [] => [m]
  | x :: xs =>
    if m.arrived < x.arrived ∨ (m.arrived = x.arrived ∧ m.tid < x.tid) then m :: x :: xs else x :: insertMember m xs
def sortMembers (ms : List Member) : List Member := ms.foldl (fun l m => insertMember m l) []

/-- Numbers in ascending order. -/
def insertNat (x : Nat) : List Nat → List Nat
  | [] => [x]
  | y :: ys => if x ≤ y then x :: y :: ys else y :: insertNat x ys
def sortNat (l : List Nat) : List Nat := l.foldl (fun l x => insertNat x l) []

def minOpt : Option Nat → Option Nat → Option Nat
  | none, b => b
  | a, none => a
  | some a, some b => some (min a b)

/-- The members of a team that have not exited, of those that exist (R218). A TID not yet spawned has not exited. -/
def State.teamLeft (s : State) (c lid team : Nat) : List Nat :=
  ((s.launchD lid).teamTids team).filter fun t => (Tab.get? (s.core c).threads (threadKey lid t)).isSome

/-- The complete teams of a fold, each with the arrival of its last member, by ascending team (R217). -/
def State.completeTeams (s : State) (c : Nat) (f : Fold) : List (Nat × Nat) :=
  let w := (s.launchD f.lid).width
  let teams := (f.members.map fun m => m.tid / w).eraseDups
  (sortNat teams).filterMap fun t =>
    let left := s.teamLeft c f.lid t
    if left.all fun x => f.members.any fun m => m.tid == x then
      some (t, (f.members.filter fun m => m.tid / w == t).foldl (fun x m => max x m.arrived) 0)
    else none

/-- The first cycle in which a fold meets R217, not before the cycle after it was last drawn (R219). -/
def State.eligibleAt (s : State) (c : Nat) (f : Fold) : Option Nat :=
  let l := s.launchD f.lid
  let w := l.width
  let late := fun (x : Option Nat) => x.map fun v => max v f.since
  if f.team then
    late ((s.completeTeams c f).foldl (fun m t => minOpt m (some (t.2 + 1))) none)
  else
    let ms := sortMembers f.members
    let full := (ms[w - 1]?).map fun m => m.arrived + 1
    let oldest := fun (ms : List Member) => ms.foldl (fun m x => minOpt m (some x.arrived)) none
    let other := (oldest (ms.filter fun m => !m.join)).map (· + l.age)
    let join := (oldest (ms.filter fun m => m.join)).map (· + 4 * l.age)
    late (minOpt full (minOpt other join))

/-- The eligibility instant of a fold (R219): the one fixed, else the first cycle in which it meets R217. -/
def State.instant (s : State) (c : Nat) (f : Fold) : Option Nat :=
  match f.elig with
  | some t => some t
  | none => s.eligibleAt c f

/-- Quadrants of a core that runs in which a fold is eligible count as such in this cycle (R223). -/
def State.renewElig (s : State) (c : Nat) : State :=
  let now := fun (q : Quad) => q.folds.any fun f => match s.instant c f.2 with
    | some t => decide (t ≤ s.cycles)
    | none => false
  if (s.core c).frozen then s
  else s.updCore c fun k =>
    { k with quads := Tab.mapVals k.quads fun _ q => if now q then { q with lastElig := s.cycles } else q }

/-! ### Stopping and cancelling (R147, R206) -/

/-- All folds open again when the stray list is empty (R222). -/
def Quad.reopen (q : Quad) : Quad :=
  if q.stray.isEmpty then { q with folds := q.folds.map fun e => (e.1, { e.2 with closed := false }) } else q

/-- A launch's threads outside droves are discarded on a core, and its shepherd, idle slots and held rows go (R147,
R235). -/
def Core.discard (k : Core) (lid : Nat) : Core :=
  { k with
      quads := k.quads.map fun e =>
        (e.1, ({ e.2 with
          folds := e.2.folds.filter fun f => f.2.lid != lid
          stray := e.2.stray.filter fun t => t / 2 ^ 32 != lid } : Quad).reopen)
      threads := k.threads.filter fun e => e.2.lid != lid || (match e.2.place with
        | .drove _ => true
        | _ => false)
      agents := (k.agents.filter fun e => e.2.lid != lid || (!e.2.shep && !e.2.lanes.isEmpty)).map fun e =>
        (e.1, if e.2.lid = lid then { e.2 with held := [] } else e.2) }

/-- A launch is cancelled on every core that runs it (R147), and in the images of a partition that is saved. -/
def State.cancelLaunch (s : State) (lid : Nat) : State :=
  let s := s.updLaunch lid fun l => { l with cancelled := true }
  let s := { s with parts := Tab.upd s.parts (s.launchD lid).part fun p =>
    { p with saved := p.saved.map fun (x : SavedChip) => { x with cores := Tab.mapVals x.cores fun _ k => Core.discard k lid } } }
  (s.launchD lid).cores.foldl (fun s c => (s.renewElig c).updCore c fun k => k.discard lid) s

/-- A launch stops (R206): its error record is kept for completion and it is cancelled everywhere. The first stop
stays. -/
def State.stopLaunch (s : State) (lid : Nat) (st : Stop) : State :=
  let st := { st with addr := BitVec.ofNat 64 (va57 st.addr) }
  let s := s.updLaunch lid fun l => if l.stop.isNone && !l.cancelled then { l with stop := some st } else l
  s.cancelLaunch lid

/-- A byte offset from the image base (R20). -/
def Launch.offset (l : Launch) (va : DWord) : Word := (va - l.codeBase).setWidth 32

/-! ### Fault queues (R322, R323, R388) -/

/-- Queue 400 is the home queue. -/
def fqSize (q : Nat) : Nat := if q = 400 then 4096 else 256
def fqAddr (q : Nat) : Nat := if q = 400 then 0x320000 else 8192 * q
def State.fq (s : State) (q : Nat) : Fq := Tab.getD s.fabric.fqs q { next := 0, recs := [], ovf := false }
def State.setFq (s : State) (q : Nat) (v : Fq) : State :=
  { s with fabric := { s.fabric with fqs := Tab.set s.fabric.fqs q v } }

/-- What came of a fault that needs a record: it waits on one, no queue exists, or the queue is full. -/
inductive FqOut where
  | waits | noQueue | full
  deriving DecidableEq, Repr

/-- The words of a record but for SEQ. -/
structure FqWords where
  kind : Nat
  path : Nat
  cause : Nat
  acc : Nat
  va : DWord
  launch : Word
  who : Word
  space : Nat
  part : Nat
  peer : Nat
  info : Word
  deriving Repr

def FqWords.words (f : FqWords) (seq : Word) : List Word :=
  [BitVec.ofNat 32 (f.kind * 2 ^ 28 + f.path * 2 ^ 24 + f.cause * 2 ^ 16 + f.acc * 2 ^ 12), seq,
   f.va.setWidth 32, (f.va >>> 32).setWidth 32, f.launch, f.who,
   BitVec.ofNat 32 (f.space * 65536 + f.part * 4096 + f.peer), f.info]

/-- The next sequence number whose slot is acknowledged (R323, R334). -/
def freeSeq (recs : Tab FqRec) (size : Nat) : Nat → Nat → Nat
  | n, 0 => n
  | n, fuel + 1 => if (Tab.get? recs (n % size)).isNone then n else freeSeq recs size (n + 1) fuel

/-- Write a record into a queue. Records of KIND 1 and 5 wait for an answer; one whose page, kind and access match an
unanswered record joins it, and INFO counts what is parked on it, for KIND 1 up to 128 (R322). -/
def State.fqRecord (s : State) (q : Nat) (f : FqWords) (page : Nat) (ws : List Waiter) : State × FqOut :=
  let base := (s.reg64 0x30100).toNat
  let fq := s.fq q
  let opens := f.kind == 1 || f.kind == 5
  let join := fq.recs.find? fun e => opens && e.2.open_ && e.2.kind == f.kind && e.2.page == page && e.2.acc == f.acc
  if base = 0 then (s, .noQueue)
  else match join with
    | some (slot, r) =>
      let ws := r.waiters ++ ws
      let info := if f.kind = 1 then min 128 ws.length else ws.length
      let s := (s.privWrite (base + fqAddr q + 32 * slot + 28) (bytes32 (BitVec.ofNat 32 info))).getD s
      (s.setFq q { fq with recs := Tab.set fq.recs slot { r with waiters := ws } }, .waits)
    | none =>
      if fq.ovf then (s, .full)
      else
        let next := freeSeq fq.recs (fqSize q) fq.next (fqSize q)
        let slot := next % fqSize q
        let full := fqSize q - 1 ≤ fq.recs.length
        let f' := if full then { f with kind := 4, info := 0 } else f
        match s.privWrite (base + fqAddr q + 32 * slot) (bytesOfWords (f'.words (BitVec.ofNat 32 next))) with
        | none => (s, .noQueue)
        | some s =>
          let r : FqRec :=
            { kind := f'.kind, open_ := opens && !full, page, acc := f.acc, va := f.va, at_ := s.nanos,
              waiters := if full then [] else ws }
          let s := s.setFq q { fq with next := next + 1, recs := Tab.set fq.recs slot r, ovf := full }
          (s.msix (if q = 400 then 2 else 1), if full then .full else .waits)

/-! ### Requests to other packages (R314, R316) -/

/-- The packets of a request. -/
def Remote.packetsOf (r : Remote) : List HomeReq :=
  let write := match r.kind with
    | .store bs | .frame bs => some bs
    | _ => none
  let atomic := match r.kind with
    | .atomic op _ _ x y _ => some (op, x, y)
    | _ => none
  let tid := if r.tid = shepTid then 0xFFFFFFFF else BitVec.ofNat 32 r.tid
  let order := if atomic.isSome then (if r.acq then 1 else 0) + (if r.rel then 2 else 0) else 0
  r.span.1.packetsOf { path := r.path, tid, atomic, order } r.span.2 write

/-- Send a request to another package. What a thread writes there it has left to the other paths (R182), and a line that a store
or an atomic of it reaches may be that of an argument buffer (R157). -/
def State.sendRemote (s : State) (x : Remote) : State × Nat :=
  let idx := s.fabric.nextReq
  let s := if x.acc.w then s.argWrite x.loc.key x.size else s
  let s := match x.kind with
    | .store _ => s.leaveStale x.core x.lid (if x.tid = shepTid then none else some x.tid) x.loc x.size
    | _ => s
  let (s, packets) := s.sendPackets (some idx) x.pkg x.packetsOf
  ({ s with fabric := { s.fabric with
      remote := Tab.set s.fabric.remote idx { x with packets }, nextReq := idx + 1 } }, idx)

/-- A core's clean L1 lines go, and those on their way to it are not kept (R242, R250). -/
def State.l1Clear (s : State) (c : Nat) : State := (s.l1Drop c fun _ => true).unkeep fun x => x.core == c

/-- The far cache is empty, and lines on their way to it are not kept (R247, R250). -/
def State.farClear (s : State) : State :=
  let s := s.unkeep fun _ => true
  { s with fabric := { s.fabric with far := [] } }

/-! ### Taking a trap (R201 to R206, R229) -/

/-- The frame of a thread in the handler's memory (R202). -/
def frameWords (w : Nat → Word) (preds : Word) (resume : Nat) (p : Park) (tpc target creg : Word) (depth : Nat)
    (ret : Word) : List Word :=
  listGen w 64 ++ [preds, BitVec.ofNat 32 (resume * 256) + p.cause.setWidth 32, p.addr.setWidth 32,
    (p.addr >>> 32).setWidth 32 &&& 0x1FFFFFF#32, tpc, target, creg * 256#32 + BitVec.ofNat 32 depth, ret]
    ++ listGen (fun _ => 0) 56

/-- A register of a lane as the frame and the resumed drove see it (R9, R18). One with uncorrectable data reaches only the frame,
with a free value (R363, log 52). -/
def Lane.wD (l : Lane) (n : Nat) : Word :=
  if l.bad.contains n then Config.undefWord l.seed (64 + n)
  else (Tab.get? l.w n).getD (if l.zeroed then 0 else Config.undefWord l.seed n)
def Lane.pD (l : Lane) (n : Nat) : Bool :=
  (Tab.get? l.p n).getD (if l.zeroed then false else Config.undefPred l.seed n)

def Lane.preds (l : Lane) : Word :=
  BitVec.ofNat 32 ((List.range 8).foldl (fun acc i => acc + (if l.pD i then 2 ^ i else 0)) 0)

/-- The RESUME field that a handler's frame holds (R203). -/
def Park.resume (p : Park) : Nat :=
  if p.target.isSome then 2 else if p.cause = 0x11 ∨ p.cause = 0x12 then 1 else 0

/-- The code of the c register of a parked CALL or ICALL, and its return address (R202). -/
def Park.callRegs (p : Park) : Word × Word :=
  match p.target with
  | some (_, .call r a) | some (_, .icall r a) => (BitVec.ofNat 32 (0x40 + r), a)
  | _ => (0xF0, 0)

/-- A launch stops because a thread could not enter its handler. -/
def State.stopEntry (s : State) (lid tid : Nat) (p : Park) (cause cause2 : BitVec 8) : State :=
  s.stopLaunch lid { cause, cause2, who := BitVec.ofNat 32 tid, tpc := (s.launchD lid).offset p.word, addr := p.addr }

/-- A thread whose frame has been written begins its handler (R203). A HANDLER that names no BLK without the team bit stops
the launch. -/
def State.beginHandler (s : State) (c lid tid : Nat) (p : Park) : State :=
  let l := s.launchD lid
  match s.blkAt c l l.handler with
  | (s, .ok (some (_, false, landing))) =>
    let s := s.updThread c lid tid fun t =>
      { t with inHandler := true, tcause := p.cause.setWidth 32, taddr := BitVec.ofNat 64 (va57 p.addr),
               tpc := l.offset p.word, park := none, trap := some p, row := none }
    s.fileThread c lid tid l.handler false false false landing
  | (s, _) => s.stopEntry lid tid p 8 0

/-- A frame is written as stores of its thread on path V (R203, R237), a sector at a time: whether a race stops it. -/
def State.putFrame (s : State) (w : Racer) (va : DWord) (loc : Loc) (bs : List Byte) : State × Bool :=
  let log := ((s.launchD w.lid).racectlAt s.cycles).getLsbD 0
  match s.raced w { va, write := true, atomic := false, acq := false, scope := 0, log, since := (s.core w.core).nextOut } loc
      bs.length with
  | (s, true) => (s, true)
  | (s, false) =>
    let s := (List.range 16).foldl (fun (s : State) (i : Nat) =>
      s.coreStore w.core w.lid (some w.tid) (loc.at_ ((32 * i : Nat) : Int)) ((bs.drop (32 * i)).take 32) 0 false none) s
    (s.raceWrote w loc bs.length 0 false, false)

/-- Handler entry (R203), for a thread whose w and p registers are those of a lane. A frame write that faults stops the
launch; one to another package is answered first. -/
def State.enterHandler (s : State) (c lid tid : Nat) (ln : Lane) (p : Park) : State :=
  let l := s.launchD lid
  let t := s.thread c lid tid
  let tpc := l.offset p.word
  let target := match p.target with
    | some (a, _) => l.offset a
    | none => tpc
  let bs := bytesOfWords (frameWords ln.wD ln.preds p.resume p tpc target p.callRegs.1 t.depth p.callRegs.2)
  let va := p.tframe + BitVec.ofNat 64 (tid * 512)
  match s.xlate (some c) 0 l.part va Acc.write with
  | (s, .error e) => s.stopEntry lid tid p p.cause e
  | (s, .ok (.io _)) => s.stopEntry lid tid p p.cause 7
  | (s, .ok (.remote pkg space va leaf64 mode)) =>
    let s := s.updThread c lid tid fun t => { t with park := some p, row := none, place := .faultFold }
    (s.sendRemote { core := c, ag := 0, lane := 0, lid, tid, kind := .frame bs, pkg, va, mode, leaf64, scope := 0,
                    sent := s.nanos, again := false, pending := false, parked := false, noticed := false, hops := 0,
                    word := p.word, rel := false, acq := false, path := 0, space, keep := true, packets := [] }).1
  | (s, .ok loc) => match s.putFrame { core := c, lid, tid, shep := false, pc := p.word } va loc bs with
    | (s, true) => s.stopEntry lid tid p p.cause 0x0F
    | (s, false) => s.beginHandler c lid tid p

/-- A drove that holds no thread and no held row dissolves; one that holds a row keeps its slots (R204, R229). -/
def State.reap (s : State) (r : AgentRef) : State :=
  match s.agent? r with
  | some a =>
    if a.shep || !a.lanes.isEmpty then s
    else if a.held.isEmpty then s.dropAgent r
    else s.setAgent r { a with ended := true, pending := [], wait := none }
  | none => s

/-- The row that a parked thread holds in a drove's slots is released (R229, R231). -/
def State.releaseRow (s : State) (c lid tid : Nat) : State :=
  match (s.thread c lid tid).row with
  | some (some ag, _, _) =>
    let s := s.updAgent { core := c, id := ag } fun a => { a with held := a.held.filter (· != tid) }
    s.reap { core := c, id := ag }
  | _ => s

/-- Steps 2 to 4 of R201: a double trap or a launch without a handler stops, another thread enters the handler. -/
def State.disposeTrap (s : State) (c lid tid : Nat) (ln : Lane) (p : Park) : State :=
  let l := s.launchD lid
  let t := s.thread c lid tid
  let s := s.releaseRow c lid tid
  let tpc := l.offset p.word
  let who := BitVec.ofNat 32 tid
  if l.cancelled then s.updCore c fun k => { k with threads := Tab.erase k.threads (threadKey lid tid) }
  else if t.inHandler then
    s.stopLaunch lid { cause := t.tcause.setWidth 8, cause2 := p.cause, who, tpc := t.tpc, addr := t.taddr }
  else if l.hdrW 3 = 0 ∨ p.tframe = 0 then s.stopLaunch lid { cause := p.cause, cause2 := 0, who, tpc, addr := p.addr }
  else s.enterHandler c lid tid ln p

/-- A fault record of KIND 1 for the threads of one page (R322, R323). -/
def State.localFault (s : State) (c lid : Nat) (path : Nat) (cause : BitVec 8) (acc : Nat) (va : DWord) (who : Word)
    (count : Nat) (ws : List Waiter) : State × FqOut :=
  let l := s.launchD lid
  s.fqRecord c { kind := 1, path, cause := cause.toNat, acc, va, launch := l.recW 8, who, space := s.space l.part,
                 part := l.part, peer := 0, info := BitVec.ofNat 32 count } (l.part * 2 ^ 41 + va57 va / 65536) ws

/-- The lanes that fault on one page, split from the others. -/
def samePage (va : DWord) (p : Nat × Nat × Lane × Park) : Bool := va57 p.2.2.2.addr / 65536 == va57 va / 65536

/-- Threads parked for resolution (step 1 of R201): one record per distinct page in ascending lane order. `fuel` bounds
the pages. Where the queue is full the threads stay in the fault fold with no record to wait on, and the next
FAULT_RESOLUTION_RESUME resumes them (R230). -/
def State.resolveFaults (s : State) (c lid : Nat) : Nat → List (Nat × Nat × Lane × Park) → State
  | 0, _ => s
  | _, [] => s
  | fuel + 1, (ln, tid, l, p) :: rest =>
    let same := rest.filter (samePage p.addr)
    let group : List (Nat × Nat × Lane × Park) := (ln, tid, l, p) :: same
    let out := s.localFault c lid p.path p.cause p.acc p.addr (BitVec.ofNat 32 tid)
      group.length (group.map fun g => .thread c lid g.2.1)
    let s := match out with
      | (s, .waits) => s
      | (s, .noQueue) => group.foldl (fun s (g : Nat × Nat × Lane × Park) => s.disposeTrap c lid g.2.1 g.2.2.1 g.2.2.2) s
      | (s, .full) => s
    s.resolveFaults c lid fuel (rest.filter fun g => !samePage p.addr g)

/-- Lanes leave their drove and their threads are discarded: those of a cancelled launch (R147). -/
def State.dropLanes (s : State) (r : AgentRef) (ns : List Nat) : State :=
  let a := s.agentD r
  (ns.foldl (fun s n => match Tab.get? a.lanes n with
    | some l => s.updCore r.core fun k =>
      { k with threads := Tab.erase k.threads (threadKey a.lid l.tid)
               agents := Tab.upd k.agents r.id fun a => { a with lanes := Tab.erase a.lanes n } }
    | none => s) s).reap r

/-- A lane leaves its drove for the fault fold (R229): its thread's c writes reach the pen slot; one parked for resolution
(`held`) keeps its registers in its row. -/
def State.parkLane (s : State) (r : AgentRef) (held : Bool) (g : Nat × Nat × Lane × Park) : State :=
  let a := s.agentD r
  let s := s.updThread r.core a.lid g.2.1 fun t =>
    { t.takeC g.2.2.1.cw with
        bad := (t.takeC g.2.2.1.cw).bad ++ if held then g.2.2.1.bad.map (64 + ·) else []
        hold := none
        park := some g.2.2.2
        place := .faultFold
        row := if held then some (some r.id, g.2.2.1.w, g.2.2.1.p) else none }
  s.updAgent r fun a =>
    { a with lanes := Tab.erase a.lanes g.1, held := if held then a.held ++ [g.2.1] else a.held }

/-- The lanes of a drove park (R229): its results land, each lane leaves the drove, and each cause is disposed of by R201. -/
def State.parkLanes (s : State) (r : AgentRef) (ps : List (Nat × Park)) : State :=
  let s := s.updAgent r Agent.landAll
  let a := s.agentD r
  if (s.launchD a.lid).cancelled then s.dropLanes r (ps.map (·.1)) else
  let ls := ps.filterMap fun (n, p) => (Tab.get? a.lanes n).map fun l => (n, l.tid, l, p)
  let isRes : Nat × Nat × Lane × Park → Bool := fun g => g.2.2.2.cause == 5
  let s := ls.foldl (fun s g => s.parkLane r (isRes g) g) s
  let s := s.reap r
  let s := s.resolveFaults r.core a.lid (ls.length + 1) (ls.filter isRes)
  (ls.filter fun g => !isRes g).foldl (fun s g => s.disposeTrap r.core a.lid g.2.1 g.2.2.1 g.2.2.2) s

/-- The requests of lanes of an agent that are not answered. -/
def State.lanesAway (s : State) (r : AgentRef) : Tab Remote :=
  s.fabric.remote.filter fun e => e.2.ofLane && e.2.core == r.core && e.2.ag == r.id

/-- Where every request that a drove still awaits is pending at its home, and no other result is out, its lanes park with cause
0x06 and await the answers in the fault fold, their rows held (R229, R324); the drove goes on with the others. -/
def State.parkPending (s : State) (r : AgentRef) : State :=
  let mine := s.lanesAway r
  let known := fun (p : Pend) => p.await.all fun k => mine.any fun e => e.1 == k
  match s.agent? r with
  | some a =>
    if a.shep || mine.isEmpty || !(mine.all fun e => e.2.pending) || !(a.pending.all known) then s
    else
      let s := s.flushLoads r
      let s := mine.foldl (fun s e => s.updCore r.core fun k => k.deliver r.id e.1 []) s
      let s := s.updAgent r Agent.landAll
      let s := mine.foldl (fun (s : State) e =>
        match Tab.get? (s.agentD r).lanes e.2.lane with
        | some l => s.parkLane r true (e.2.lane, l.tid, l,
            { cause := 6, word := e.2.word, blk := a.blk, addr := e.2.va, acc := e.2.acc.code, path := e.2.path,
              tframe := (s.launchD a.lid).tframeAt s.cycles, target := none })
        | none => s) s
      let s := { s with fabric := { s.fabric with remote := s.fabric.remote.mapVals fun i x =>
        if (Tab.get? mine i).isSome then { x with parked := true } else x } }
      (s.updAgent r fun a => if a.wait = some .remote then { a with wait := none } else a).reap r
  | none => s

/-- A shepherd's trap (R205): cause 0x05 goes to resolution, every other stops the launch. -/
def State.shepTrap (s : State) (r : AgentRef) (p : Park) : State :=
  let a := s.agentD r
  let l := s.launchD a.lid
  let stop := fun (s : State) =>
    s.stopLaunch a.lid { cause := p.cause, cause2 := 0, who := 0x80000000#32 + BitVec.ofNat 32 r.core,
                         tpc := l.offset p.word, addr := p.addr }
  if p.cause = 5 then
    match s.localFault r.core a.lid p.path p.cause p.acc p.addr 0xFFFFFFFF 1
        [.shepherd r.core a.lid r.id] with
    | (s, .waits) =>
      (s.updThread r.core a.lid shepTid fun t => { t with park := some p }).updAgent r fun a =>
        { a with wait := some .fault, opnds := none, got := [] }
    | (s, .noQueue) => stop s
    | (s, .full) => s
  else stop s

/-- A lane or a shepherd has met uncorrectable data (R363). -/
def State.ueLane (s : State) (r : AgentRef) (lane : Nat) (addr : DWord) : State :=
  let a := s.agentD r
  let who := match a.shep, Tab.get? a.lanes lane with
    | false, some ln => BitVec.ofNat 32 ln.tid
    | _, _ => 0xFFFFFFFF
  s.ueRead a.lid who addr

/-- Lanes trap at a word of their agent: the ONE entry of every trap. Where results of the drove still come from another
package, each lane is marked and parks once they have landed (THREAD_PARK). -/
def State.trapLanesAt (s : State) (r : AgentRef) (word : DWord) (ps : List (Nat × BitVec 8 × DWord × Nat)) : State :=
  let s := if ps.isEmpty then s else s.flushLoads r
  let a := s.agentD r
  let park := fun (x : Nat × BitVec 8 × DWord × Nat) =>
    ({ cause := x.2.1, word, blk := a.blk, addr := x.2.2.1, acc := x.2.2.2 % 16,
       path := if x.2.2.2 = 4 then 5 else x.2.2.2 / 16, tframe := (s.launchD a.lid).tframeAt s.cycles, target := none } : Park)
  let s := ps.foldl (fun s x => if x.2.1 = 0x10 ∧ x.2.2.2 ≠ 0 then s.ueLane r x.1 x.2.2.1 else s) s
  match ps with
  | [] => s
  | x :: _ =>
    if a.shep then s.shepTrap r (park x)
    else if a.pending.any fun p => !p.await.isEmpty then
      ps.foldl (fun s x => s.updAgent r fun a =>
        { a with lanes := Tab.upd a.lanes x.1 fun l => { l with parking := some (park x) } }) s
    else s.parkLanes r (ps.map fun x => (x.1, park x))

/-- Lanes trap at their agent's instruction. -/
def State.trapLanes (s : State) (r : AgentRef) (ps : List (Nat × BitVec 8 × DWord × Nat)) : State :=
  s.trapLanesAt r (s.agentD r).pc ps

/-- Every lane of an agent traps with one cause at its word: an encoding fault (R79), or a word that cannot be fetched
(R122), whose address is the word's own. -/
def State.trapWord (s : State) (r : AgentRef) (cause : BitVec 8) (addr : DWord) : State :=
  let a := s.agentD r
  s.trapLanes r ((a.lanes.filter fun e => e.2.parking.isNone).map fun e => (e.1, cause, addr, 4))

/-! ### Leaving a block (R122 to R126, R232) and returning from a trap (R204) -/

/-- The checks of R124 on a next block address, in their order: the team and landing bits of the BLK there, or the cause. -/
def State.checkTarget (s : State) (c : Nat) (l : Launch) (va : DWord) (k : ExitKind) :
    State × Except (BitVec 8) (Bool × Bool) :=
  let byReg := match k with
    | .ibr | .icall _ _ | .ret => true
    | _ => false
  let landing := match k with
    | .ibr | .icall _ _ => true
    | _ => false
  if byReg && (l.offset va).toNat % 16 != 0 then (s, .error 8)
  else match s.blkAt c l va with
    | (s, .ok (some (_, team, land))) => (s, if landing && !land then .error 8 else .ok (team, land))
    | (s, .ok none) => (s, .error 8)
    | (s, .error e) => (s, .error e)

/-- The call depth after an exit, or none where R125 parks the thread with cause 0x13. -/
def depthAfter (k : ExitKind) (depth : Nat) : Option Nat :=
  match k with
  | .call _ _ | .icall _ _ => if depth = 16 then none else some (depth + 1)
  | .ret => if depth = 0 then none else some (depth - 1)
  | _ => some depth

/-- The c register that a completed call writes (R125). -/
def callWrite (k : ExitKind) (c : Tab Word) : Tab Word :=
  match k with
  | .call n a | .icall n a => Tab.set c n a
  | _ => c

/-- A thread leaves its block for a target: the call depth of R125, the checks of R124, then filing; or it parks at block exit
(R232), for resolution with cause 0x05 or 0x06 and otherwise by R201. `word` and `blk` are the terminator and its
block. -/
def State.leaveBlock (s : State) (c lid tid : Nat) (ln : Lane) (word blk target : DWord) (k : ExitKind) : State :=
  let l := s.launchD lid
  let t := s.thread c lid tid
  let park := fun (s : State) (cause : BitVec 8) =>
    let p : Park :=
      { cause, word, blk, addr := target, acc := 4, path := 5, tframe := l.tframeAt s.cycles, target := some (target, k) }
    let s := if cause = 0x10 then s.ueRead lid (BitVec.ofNat 32 tid) target else s
    let s := s.updThread c lid tid fun t => { t with park := some p, place := .faultFold, row := none }
    if cause = 5 then s.resolveFaults c lid 1 [(0, tid, ln, p)] else s.disposeTrap c lid tid ln p
  match depthAfter k t.depth with
  | none => park s 0x13
  | some d => match s.checkTarget c l target k with
    | (s, .error cause) => park s cause
    | (s, .ok (team, landing)) =>
      let s := s.updThread c lid tid fun t =>
        { t with depth := d, c := callWrite k t.c, bad := t.bad.filter fun n => (Tab.get? (callWrite k []) n).isNone, park := none }
      s.fileThread c lid tid target false (k == .join) team landing

/-- Words 2 to 15 of the completion block lie at this address, if there is one (R282, R283). -/
def Launch.compl (l : Launch) : Option DWord :=
  let a := l.rec64 6
  if a = 0 ∨ a.toNat % 64 ≠ 0 then none else some a

/-- Read, change and write a 32-bit word of a partition's memory. -/
def State.hubAdd32 (s : State) (part : Nat) (va : DWord) (n : Nat) : State :=
  match s.hubRead part va 4 with
  | (s, .ok bs) => s.hubWriteD part va (bytes32 (word32 bs + BitVec.ofNat 32 n))
  | (s, .error _) => s
def State.hubAdd64 (s : State) (part : Nat) (va : DWord) (n : DWord) : State :=
  match s.hubRead part va 8 with
  | (s, .ok bs) => s.hubWriteD part va (bytes64 (word64 bs + n))
  | (s, .error _) => s

/-- A team retires (R234): its bit of the done bitmap, then TEAMSDONE, after every access of the core is performed; the
shepherd that spawned it counts its threads (R143). It is a release of the team, and the EXIT of each member is one (R148, R242). -/
def State.retireTeam (s : State) (c lid team : Nat) : State :=
  let l := s.launchD lid
  let s := match l.compl with
    | none => s
    | some a =>
      let bit := a + 64 + BitVec.ofNat 64 (team / 8)
      if l.doneNew then s.doneUndef l else
      let s := match s.hubRead l.part bit 1 with
        | (s, .ok bs) => s.hubWriteD l.part bit ((bs.map fun b => b ||| BitVec.ofNat 8 (2 ^ (team % 8))))
        | (s, .error _) => s
      s.hubAdd32 l.part (a + 12) 1
  let s := (s.mergeFlags c lid).releasedBy lid ((l.teamTids team).length + 1)
  let s := s.updLaunch lid fun l => { l with teams := l.teams + 1 }
  let first := team * l.width
  let by_ := fun (c' : Nat) => (s.res c' lid).spawned.any fun g => decide (g.1 ≤ first) && decide (first < g.1 + g.2)
  s.updRes ((l.cores.find? by_).getD c) lid fun r => { r with retired := r.retired + (l.teamTids team).length }

/-- A shepherd that has halted is released once the last of the launch's threads on its core has retired (R143). -/
def State.releaseShep (s : State) (c lid : Nat) : State :=
  let k := s.core c
  let last := (s.res c lid).halted && !(s.res c lid).gone && !(k.tracker.any fun e => e.2.lid == lid)
    && !(k.threads.any fun e => e.2.lid == lid && e.2.tid != shepTid)
  if last then
    (s.updRes c lid fun r => { r with gone := true }).updCore c fun k =>
      { k with agents := k.agents.filter fun e => !(e.2.shep && e.2.lid == lid)
               threads := Tab.erase k.threads (threadKey lid shepTid) }
  else s

/-- A team whose members have all exited, with no tracker entry, retires (R234). -/
def State.tryRetire (s : State) (c lid team : Nat) : State :=
  let k := s.core c
  let l := s.launchD lid
  let gone := (l.teamTids team).all fun t => (Tab.get? k.threads (threadKey lid t)).isNone
  if gone && !l.cancelled && !(k.tracker.any fun e => e.2.lid == lid && e.2.team == team) then
    (s.retireTeam c lid team).releaseShep c lid
  else s

/-- What a thread has outstanding at its EXIT: its stores, its copies, and its requests to other packages. Once only the threads
`leaving` are left of its team, also every other store of the core: which of them happen before the team's retirement the part
is not told (DESIGN CHOICE, log 78). -/
def State.outstanding (s : State) (c lid tid : Nat) (leaving : List Nat) : List Nat × List (Nat × Nat) × List Nat :=
  let k := s.core c
  let l := s.launchD lid
  let last := (l.teamTids (tid / l.width)).all fun t => leaving.contains t || (Tab.get? k.threads (threadKey lid t)).isNone
  ((k.outst.filter fun o => last || o.lid == lid && o.tid == some tid).map (·.id),
   (k.copies.filter fun e => e.2.live && e.2.lid == lid && e.2.tid == some tid).map fun e => (e.1, e.2.gen),
   (s.fabric.remote.filter fun e => e.2.ofLane && e.2.core == c && e.2.lid == lid && e.2.tid == tid).map (·.1))

/-- The lowest free entry of the tracker (R234). -/
def freeTrack (t : Tab Track) : Nat → Nat → Option Nat
  | _, 0 => none
  | i, n + 1 => if (Tab.get? t i).isNone then some i else freeTrack t (i + 1) n

/-- The EXIT of some threads needs more tracker entries than are free (R234). -/
def State.trackerFull (s : State) (c lid : Nat) (tids : List Nat) : Bool :=
  let k := s.core c
  let owes := tids.filter fun t => match s.outstanding c lid t tids with
    | ([], [], []) => false
    | _ => true
  let teams := ((owes.map fun t => t / (s.launchD lid).width).eraseDups).filter fun team =>
    !(k.tracker.any fun e => e.2.lid == lid && e.2.team == team)
  !teams.isEmpty && decide (64 < k.tracker.length + teams.length)

/-- An EXIT may make a team complete. It moves the instant of a team fold neither where it is fixed nor before the next
cycle (R219, R235). -/
def State.judgeExit (s : State) (c lid tid : Nat) : State :=
  let q := homeQuad (s.launchD lid).width tid
  let qd := s.quad c q
  let judge := fun (f : Fold) =>
    if f.team && f.lid == lid then
      match s.instant c f with
      | some t => if t ≤ s.cycles then { f with elig := some t } else { f with since := max f.since (s.cycles + 1) }
      | none => { f with since := max f.since (s.cycles + 1) }
    else f
  s.setQuad c q { qd with folds := qd.folds.map fun e => (e.1, judge e.2) }

/-- A thread exits (R126, R234): its outstanding accesses are recorded for its team, it is nowhere from now on, and its
team retires if it was the last. -/
def State.exitThread (s : State) (c lid tid : Nat) : State :=
  let s := s.judgeExit c lid tid
  let k := s.core c
  let (a, b, d) := s.outstanding c lid tid [tid]
  let team := tid / (s.launchD lid).width
  let tracker :=
    if a.isEmpty && b.isEmpty && d.isEmpty then k.tracker
    else match k.tracker.find? fun e => e.2.lid == lid && e.2.team == team with
      | some (i, t) => Tab.set k.tracker i { t with acc := t.acc ++ a, copies := t.copies ++ b, reqs := t.reqs ++ d }
      | none => match freeTrack k.tracker 0 64 with
        | some i => Tab.set k.tracker i { lid, team, acc := a, copies := b, reqs := d }
        | none => k.tracker
  let s := s.updCore c fun k =>
    { k with threads := Tab.erase k.threads (threadKey lid tid), tracker
             stale := k.stale.filter fun x => x.lid != lid || x.tid != some tid }
  s.tryRetire c lid team

/-- Reserved fields of a frame that TRET reads are zero (R202). -/
def frameOk (ws : List Word) : Bool :=
  (ws.getD 64 0).toNat < 256 && (ws.getD 65 0).toNat < 1024 && (ws.getD 70 0).toNat < 65536
    && (ws.getD 70 0).toNat / 32 % 8 == 0 && (ws.drop 72).all (· == 0)

/-- A thread goes on after a word (R204, RESUME 1): at the next word of its block, or, where the next word is a BLK, at that
block. -/
def State.goAfter (s : State) (c lid tid : Nat) (word blk : DWord) : State :=
  match s.blkAt c (s.launchD lid) (word + 16) with
  | (s, .ok (some (_, team, landing))) => s.fileThread c lid tid (word + 16) false false team landing
  | (s, _) => s.fileResume c lid tid (word + 16) blk

/-- The bad w registers of a thread's row (R363). -/
def Thread.badRow (t : Thread) : List Nat := (t.bad.filter (64 ≤ ·)).map (· - 64)

/-- A thread that awaited the answer of another package in the fault fold has its result: its row takes the writes, and it goes on
after its instruction (R229, R324). -/
def State.finishParked (s : State) (c lid tid : Nat) (ws : List LaneWrite) : State :=
  let t := s.thread c lid tid
  match t.park, t.row with
  | some p, some (_, w, pr) =>
    let l := ws.foldl (fun (l : Lane) x => l.put x.reg x.val) (Lane.of tid 0 w pr t.badRow)
    let s := s.releaseRow c lid tid
    let s := s.updThread c lid tid fun t =>
      { t.takeC l.cw with
          bad := (t.takeC l.cw).bad.filter (· < 64) ++ l.bad.map (64 + ·), park := none, row := some (none, l.w, l.p) }
    s.goAfter c lid tid p.word p.blk
  | _, _ => s

/-- The return from a trap for one thread, whose frame has been read (R204). The part ignores the frame's RO fields (R202):
TPC, the block, and the call or return that parked are those of the trap as it kept them. -/
def State.trapReturn (s : State) (r : AgentRef) (n : Nat) (ln : Lane) (ws : List Word) : State :=
  let a := s.agentD r
  let l := s.launchD a.lid
  let c := r.core
  let t := s.thread c a.lid ln.tid
  let kind := match t.trap with
    | some { target := some (_, k), .. } => k
    | _ => .plain
  let blk := (t.trap.map (·.blk)).getD a.blk
  let tpc := l.codeBase + t.tpc.setWidth 64
  let code := (ws.getD 65 0).toNat / 256 % 4
  let target := l.codeBase + (ws.getD 69 0).setWidth 64
  let w := (List.range 64).foldl (fun t i => Tab.set t i (ws.getD i 0)) ([] : Tab Word)
  let p := (List.range 8).foldl (fun t i => Tab.set t i ((ws.getD 64 0).getLsbD i)) ([] : Tab Bool)
  let frameLane : Lane := { ln with w, p, cw := [], bad := [] }
  let s := s.updThread c a.lid ln.tid fun t =>
    { t.takeC ln.cw with
             inHandler := false, tcause := 0, taddr := 0, tpc := 0,
             hold := none, park := none, trap := none, row := some (none, w, p),
             racePass := l.race && t.tcause == 0x0F && code == 0 }
  let s := s.updAgent r fun a => { a with lanes := Tab.erase a.lanes n }
  match code with
  | 0 => s.fileResume c a.lid ln.tid tpc blk
  | 1 => s.goAfter c a.lid ln.tid tpc blk
  | 2 => s.leaveBlock c a.lid ln.tid frameLane tpc blk target kind
  | _ => s.exitThread c a.lid ln.tid

end Sys2Proof.Machine
end

