-- ==== Sys2Proof/Machine/Operands.lean ====
section
/-! DEFINITION. Reading source operands (R19, R71 to R75), and carrying an instruction's results to its lanes. -/

namespace Sys2Proof.Machine

/-- The next register of a pair or quad. -/
def opndNext (x : Opnd) (i : Nat) : Opnd :=
  match x with
  | .w n => .w (n + BitVec.ofNat 6 i)
  | .c n => .c (n + BitVec.ofNat 6 i)
  | .s n => .s (n + BitVec.ofNat 6 i)
  | .k n => .k (n + BitVec.ofNat 5 i)
  | .snap n => .snap (n + BitVec.ofNat 5 i)
  | x => x

/-- What the operands of one lane are read from; `now` is the core's counter when they are read. -/
structure Env where
  s    : State
  r    : AgentRef
  a    : Agent
  l    : Launch
  n    : Nat
  lane : Lane
  now  : Nat
  deriving DecidableEq, Repr, Inhabited

/-- The thread of a lane, or the shepherd's per-thread state. -/
def Env.tid (e : Env) : Nat := if e.a.shep then shepTid else e.lane.tid
/-- The thread as an error record names it (R362). -/
def Env.who (e : Env) : Word := if e.a.shep then 0xFFFFFFFF else BitVec.ofNat 32 e.lane.tid
def Env.thread (e : Env) : Thread := e.s.thread e.r.core e.a.lid e.tid

/-- A special register (R20, R21, R72). In the shepherd TID, LANE, TEAM and TEAMLANE read as all ones. -/
def Env.special (e : Env) (x : Special) : Word :=
  let ones := fun (v : Nat) => if e.a.shep then (0xFFFFFFFF#32) else BitVec.ofNat 32 v
  match x with
  | .tid => ones e.lane.tid
  | .lane => ones e.n
  | .team => ones (e.lane.tid / e.l.teamW)
  | .teamlane => ones (e.lane.tid % e.l.teamW)
  | .nthreads => e.l.recW 2
  | .cyclelo => BitVec.ofNat 32 e.now
  | .cyclehi => e.thread.hold.getD (BitVec.ofNat 32 (e.now / 2 ^ 32))
  | .launchid => e.l.recW 8
  | .cls => BitVec.ofNat 32 (classOf (chipOf e.r.core))
  | .corerow => BitVec.ofNat 32 (rowOf e.r.core)
  | .corecol => BitVec.ofNat 32 (colOf e.r.core)
  | .chiplet => BitVec.ofNat 32 (chipOf e.r.core)
  | .tcause => e.thread.tcause
  | .taddrlo => e.thread.taddr.setWidth 32
  | .taddrhi => (e.thread.taddr >>> 32).setWidth 32
  | .tpc => e.thread.tpc
  | .probeflag => if e.thread.probe then 1 else 0

/-- A 32-bit source (R71, R73, R74). -/
def Env.rd (e : Env) (o : Op) (x : Opnd) : Word :=
  match x with
  | .w n | .s n => e.lane.wD n.toNat
  | .c n => (Tab.get? e.lane.cw n.toNat).getD (Tab.getD e.thread.c n.toNat 0)
  | .k n => Tab.getD e.l.k n.toNat 0
  | .snap n => Tab.getD e.a.snap n.toNat 0
  | .p n | .sp n => if e.lane.pD n.toNat then 1 else 0
  | .spec x => e.special x
  | .zero => 0
  | .imm => o.imm
  | .resv _ => 0

/-- A 64-bit source names its low half (R19); the immediate is sign-extended (R74). -/
def Env.rd64 (e : Env) (o : Op) (x : Opnd) : DWord :=
  match x with
  | .zero => 0
  | .imm => o.imm.signExtend 64
  | x => pairOf (e.rd o x) (e.rd o (opndNext x 1))

/-- Four registers (R77). -/
def Env.rd128 (e : Env) (o : Op) (x : Opnd) : List Word :=
  match x with
  | .zero => [0, 0, 0, 0]
  | .imm => [o.imm, 0, 0, 0]
  | x => [e.rd o x, e.rd o (opndNext x 1), e.rd o (opndNext x 2), e.rd o (opndNext x 3)]

/-- The data of an access of 1 to 16 bytes. -/
def Env.rdBytes (e : Env) (o : Op) (x : Opnd) (n : Nat) : List Byte :=
  (bytesOfWords (if n ≤ 4 then [e.rd o x] else if n = 8 then [e.rd o x, e.rd o (opndNext x 1)] else e.rd128 o x)).take n

def Env.a32 (e : Env) (o : Op) : Word := e.rd o o.a
def Env.b32 (e : Env) (o : Op) : Word := e.rd o o.b
def Env.c32 (e : Env) (o : Op) : Word := e.rd o o.c
def Env.a64 (e : Env) (o : Op) : DWord := e.rd64 o o.a
def Env.b64 (e : Env) (o : Op) : DWord := e.rd64 o o.b
def Env.c64 (e : Env) (o : Op) : DWord := e.rd64 o o.c

/-- The guard of an instruction for a lane (R75). -/
def Lane.guard (l : Lane) (g : Guard) : Bool := !g.en || (l.pD g.pred.toNat != g.neg)

/-- The registers that a result of k words writes; none where 0xF0 discards it (R71). -/
def destRegs (d : Opnd) (k : Nat) : List Reg :=
  match d with
  | .w n | .s n => listGen (fun i => Reg.w (n.toNat + i)) k
  | .c n => listGen (fun i => Reg.c (n.toNat + i)) k
  | .p n | .sp n => [.p n.toNat]
  | _ => []

/-- The writes of a result to a lane. -/
def destWrites (lane : Nat) (d : Opnd) (vals : List Word) : List LaneWrite :=
  (destRegs d vals.length).zipWith (fun r v => { lane, reg := r, val := v }) vals

/-- What an instruction does for one lane: the words of its destination, the flags it raises (bits of the numeric
status word), a trap, which then writes nothing, and registers that it writes beside its destination. -/
structure LaneRes where
  vals  : List Word
  flags : Word
  trap  : Option (BitVec 8 × DWord × Nat)
  extra : List (Reg × Word)
  deriving DecidableEq, Repr, Inhabited

/-- A result of some words, without flags. -/
def LaneRes.of (vals : List Word) : LaneRes := { vals, flags := 0, trap := none, extra := [] }
def LaneRes.word (v : Word) : LaneRes := .of [v]
def LaneRes.pair (v : DWord) : LaneRes := .of [v.setWidth 32, (v >>> 32).setWidth 32]
def LaneRes.bool (b : Bool) : LaneRes := .of [if b then 1 else 0]
def LaneRes.fail (cause : BitVec 8) : LaneRes := { vals := [], flags := 0, trap := some (cause, 0, 0), extra := [] }
/-- A word with flags. -/
def LaneRes.flagged (x : Word × Word) : LaneRes := { LaneRes.of [x.1] with flags := x.2 }

/-- The lanes of an agent that can still execute: not marked to park. -/
def Agent.live (a : Agent) : Tab Lane := a.lanes.filter fun e => e.2.parking.isNone

/-- A lane as its instruction's operands are read: as it is now, or as it was when an instruction that waits at issue read
them (R64, log 66). -/
def Agent.source (a : Agent) (e : Nat × Lane) : Lane :=
  match a.opnds with
  | some (_, ls) => Tab.getD ls e.1 e.2
  | none => e.2

/-- The core's counter as an agent's instruction reads it (R21, R64). -/
def State.readTime (s : State) (r : AgentRef) : Nat :=
  match (s.agentD r).opnds with
  | some (t, _) => t
  | none => s.count r.core

/-- The environments of the lanes whose guard holds, in ascending lane order. -/
def State.envs (s : State) (r : AgentRef) (o : Op) : List Env :=
  let a := s.agentD r
  let l := s.launchD a.lid
  (a.live.filter fun e => (a.source e).guard o.guard).map fun e =>
    { s, r, a, l, n := e.1, lane := a.source e, now := s.readTime r }

/-- Sources that name CYCLELO latch the high half of the counter for the threads that read them (R21). -/
def State.latchFor (s : State) (o : Op) (es : List Env) : State :=
  if o.a = .spec .cyclelo ∨ o.b = .spec .cyclelo ∨ o.c = .spec .cyclelo then
    es.foldl (fun s e => s.updThread e.r.core e.a.lid e.tid fun t =>
      { t with hold := some (BitVec.ofNat 32 (e.now / 2 ^ 32)) }) s
  else s

/-- The latching of an instruction that reads its sources for every lane whose guard holds. -/
def State.latch (s : State) (r : AgentRef) (o : Op) : State := s.latchFor o (s.envs r o)

end Sys2Proof.Machine
end

