-- ==== Sys2Proof/Machine/Flags.lean ====
section
/-! DEFINITION. The numeric status word (R43 to R45, R49) and the completion of an instruction that works lane by
lane: its flags, its traps, its results. -/

namespace Sys2Proof.Machine

/-- The cause that raised flags take under the enables (R49): 0x0E for IDZ under IDZE, 0x0D for NV to NX. -/
def flagTrap (enables flags : Word) : Option (BitVec 8) :=
  if flags.getLsbD 7 && enables.getLsbD 21 then some 0x0E
  else if (enables >>> 16) &&& flags &&& 0x1F#32 != 0 then some 0x0D
  else none

/-- The flags raised on a core in this cycle: an MSTAT in the same cycle does not clear them (R44). -/
def Res.fresh (r : Res) (now : Nat) : Word := if r.raised.1 = now then r.raised.2 else 0

/-- A core's copy of the status word takes flags by OR (R44). -/
def State.raise (s : State) (c lid : Nat) (flags : Word) : State :=
  if flags = 0 then s else s.updRes c lid fun r =>
    { r with num := r.num ||| (flags &&& 0xFF#32), raised := (s.cycles, r.fresh s.cycles ||| (flags &&& 0xFF#32)) }

/-- The status word as a core reads it: the hub's word or-ed with its own copy, OVFCOUNT added (R45). -/
def State.numStat (s : State) (c lid : Nat) : Word :=
  let h := (s.launchD lid).num
  let k := (s.res c lid).num
  ((h ||| k) &&& 0x7F00FF#32) ||| addOvf h k

/-- The enables in force on a core (R45, R49). -/
def State.enables (s : State) (c lid : Nat) : Word := (s.res c lid).num &&& 0x7F0000#32

/-- A lane's result after R49: raised and enabled flags turn it into a trap. -/
def LaneRes.checked (enables : Word) (x : LaneRes) : LaneRes :=
  match x.trap with
  | some _ => x
  | none => match flagTrap enables x.flags with
    | some c => { x with trap := some (c, 0, 0) }
    | none => x

/-- An instruction completes with a result for each lane whose guard held: its flags are set, its results are on their
way, the agent goes on, and the lanes that trapped park at the instruction, whose word is the agent's pc before, once
every result has landed (R68). Other lanes' results await what `await` names. -/
def State.commitAwait (s : State) (r : AgentRef) (o : Op) (lat : Latency) (k : Nat) (rs : List (Nat × LaneRes))
    (await : List Nat) : State :=
  let a := s.agentD r
  let en := s.enables r.core a.lid
  let rs := rs.map fun x => (x.1, x.2.checked en)
  let s := s.raise r.core a.lid (rs.foldl (fun f x => f ||| x.2.flags) 0)
  let good := rs.filter fun x => x.2.trap.isNone
  let traps := rs.filterMap fun x => x.2.trap.map fun t => (x.1, t)
  let ws := good.flatMap fun x =>
    destWrites x.1 o.d x.2.vals ++ x.2.extra.map fun e => { lane := x.1, reg := e.1, val := e.2 }
  let regs := if rs.isEmpty && await.isEmpty then [] else destRegs o.d k ++ good.flatMap fun x => x.2.extra.map (·.1)
  if a.shep && !traps.isEmpty then s.trapLanes r traps
  else (s.updAgent r fun a => a.issued s.cycles o.ctl lat regs ws await).trapLanesAt r a.pc traps

def State.commit (s : State) (r : AgentRef) (o : Op) (lat : Latency) (k : Nat) (rs : List (Nat × LaneRes)) : State :=
  s.commitAwait r o lat k rs []

/-- A result that waited for another unit has come: the entry that awaits `key` gets the writes. -/
def State.deliver (s : State) (r : AgentRef) (key : Nat) (ws : List LaneWrite) : State :=
  s.updCore r.core fun k => k.deliver r.id key ws

/-- The number by which a result awaits a matrix instruction, apart from those of requests to other packages. -/
def matKey (id : Nat) : Nat := 2 ^ 64 + id

/-- An instruction of one lane at a time whose operands are registers only. -/
def laneOp (o : Op) (lat : Latency) (k : Nat) (f : Env → LaneRes) (s : State) : Host.Outcome State Fault Refusal :=
  match s.cur with
  | none => .fault .noIssuer
  | some r =>
    let s := s.latch r o
    .next (s.commit r o lat k ((s.envs r o).map fun e => (e.n, f e)))

/-- An instruction that acts on the state as a whole for the agent granted issue. -/
def agentOp (f : AgentRef → State → State) (s : State) : Host.Outcome State Fault Refusal :=
  match s.cur with
  | none => .fault .noIssuer
  | some r => .next (f r s)

/-- A privileged instruction (R81): outside a privileged launch every thread of the drove parks with cause 0x03, whether
or not its guard holds, or the shepherd traps (check 6 of R79). -/
def privileged (f : State → Host.Outcome State Fault Refusal) (s : State) : Host.Outcome State Fault Refusal :=
  match s.cur with
  | none => .fault .noIssuer
  | some r =>
    if (s.launchD (s.agentD r).lid).priv then f s
    else .next (s.trapLanes r ((s.agentD r).live.map fun e => (e.1, 3, 0, 0)))

end Sys2Proof.Machine
end

