-- ==== Sys2Proof/Machine/Issue.lean ====
section
/-! DEFINITION. Which instruction an agent issues next and whether it may issue now (R64 to R68, R79, R120, R225). -/

namespace Sys2Proof.Machine

/-- What the next word of an agent is. -/
inductive Fetched where
  | instr (i : Instr)
  | reject (why : Reject) (w : IWord)
  | fault (cause : BitVec 8)
  deriving DecidableEq, Repr

/-- Fetch and decode the word at an agent's pc. -/
def State.fetchDecode (s : State) (r : AgentRef) : State × Fetched :=
  let a := s.agentD r
  let l := s.launchD a.lid
  match s.fetchWord r.core l a.pc with
  | (s, .error e) => (s, .fault e)
  | (s, .ok w) => match decodeWord (l.ctx a.shep) w with
    | .ok i => (s, .instr i)
    | .error e => (s, .reject e w)

/-- The control word of an instruction. -/
def instrCtl (i : Instr) : Ctl :=
  match i with
  | .blk c _ _ _ => c
  | i => match i.op? with
    | some o => o.ctl
    | none => default

/-- The registers of a source of a kind. -/
def srcRegs (k : SrcK) (x : Opnd) : List Reg :=
  let n := match k with
    | .r64 => 2
    | .r128 => 4
    | _ => 1
  destRegs x n

/-- The registers that an instruction reads (R64). PMOV to a register reads every predicate (R101). -/
def instrReads (i : Instr) : List Reg :=
  match i.spec, i.op? with
  | some p, some o =>
    let wide := if o.mbit 4 then SrcK.r64 else SrcK.r32
    let b := match i with
      | .st _ | .sts _ => dataSrc o
      | .atom _ | .atomc _ | .red _ | .atoms _ | .atomsc _ | .reds _ => wide
      | _ => p.b
    let c := match i with
      | .atomc _ | .atomsc _ => wide
      | _ => p.c
    let all := match i with
      | .pmov _ => if o.d.isPred then [] else listGen Reg.p 8
      | _ => []
    srcRegs p.a o.a ++ srcRegs b o.b ++ srcRegs c o.c ++ all ++ (if o.guard.en then [.p o.guard.pred.toNat] else [])
  | _, _ => []

/-- A register has a write pending from an earlier instruction (R66, R67). -/
def Agent.pendingOn (a : Agent) (rs : List Reg) : Bool := a.pending.any fun p => p.regs.any fun r => rs.contains r

/-- The c registers of an instruction that must still come from the pen: those no lane has written in the block and
that have not been fetched (R120, R228). -/
def Agent.penNeeds (a : Agent) (rs : List Reg) : List Nat :=
  rs.filterMap fun r => match r with
    | .c n =>
      if a.shep || a.fetched.contains n || a.lanes.all (fun e => (Tab.get? e.2.cw n).isSome) then none else some n
    | _ => none

/-- What keeps an agent from issuing at a cycle: a condition that hints and waits already impose, the pen's live-in
registers, the pen on demand, or the interlock. -/
inductive Hold where
  | ready | busy | livein | demand (rs : List Nat) | interlock
  deriving DecidableEq, Repr

/-- SREAD waits for every earlier result of its agent (R102). -/
def isSread : Instr → Bool
  | .sread _ => true
  | _ => false

/-- A word that acts as a NOP in probe mode (R80). -/
def probeNop (l : Launch) (why : Reject) : Bool := why == .reservedOpcode && l.probe

/-- What the issue of the next word depends on: its control word, the registers that it reads, and whether it is an
SREAD. Of a word that is no instruction the part looks at the control word (R63), and at the guard of one that acts as
a NOP (R80). -/
def Fetched.needs (l : Launch) (shep : Bool) : Fetched → Ctl × List Reg × Bool
  | .instr i => (instrCtl i, instrReads i, isSread i)
  | .reject why w =>
    let g := (decodeOp shep w).guard
    (decodeCtl w, if probeNop l why && g.en then [.p g.pred.toNat] else [], false)
  | .fault _ => ({ (default : Ctl) with gap := 0 }, [], false)

/-- Whether an agent may issue its next word at a cycle (R63 to R68, R102, R120). SREAD waits as though its wait mask named
every scoreboard, with the interlock in both hint modes, and for results that no scoreboard counts. -/
def Agent.hold (a : Agent) (now : Nat) (trusted : Bool) (c : Ctl) (reads : List Reg) (sread : Bool) : Hold :=
  let waits := (List.range 8).any fun n => (sread || c.wait.getLsbD n) && a.sb n != 0
  let full := c.setv && decide (63 ≤ a.sb c.set.toNat)
  if a.ended || a.wait.isSome || decide (now < a.next) || (a.drain && !a.pending.isEmpty) || waits || full then .busy
  else
    let need := a.penNeeds reads
    if need.any a.livein.contains then .livein
    else if !need.isEmpty then .demand need
    else if (sread || !trusted) && a.pendingOn reads then .interlock
    else if sread && !a.pending.isEmpty then .busy
    else .ready

/-- A launch's HINTMISS rises by one, saturating (R66). -/
def State.hintMiss (s : State) (lid : Nat) : State :=
  s.updLaunch lid fun l => { l with hintmiss := if l.hintmiss = 0xFFFFFFFF then l.hintmiss else l.hintmiss + 1 }

/-- An agent's next instruction counts in HINTMISS, unless it has counted already (R66). -/
def State.missOnce (s : State) (r : AgentRef) : State :=
  let a := s.agentD r
  if a.stalled then s else (s.hintMiss a.lid).updAgent r fun a => { a with stalled := true }

/-- Judge an agent for issue: whether it is ready; a delay by the interlock or by a read of the pen on demand counts
in HINTMISS, except a resumed drove's reads of the pen (R66, R120, R231). -/
def State.judge (s : State) (r : AgentRef) : State × Bool :=
  let s := s.updAgent r fun a => a.landDue s.cycles
  let a := s.agentD r
  let l := s.launchD a.lid
  match s.fetchDecode r with
  | (t, f) =>
    if t.fabric.blocked then (s, false) else
    let s := t
    let n := f.needs l a.shep
    match a.hold s.cycles l.trusted n.1 n.2.1 n.2.2 with
    | .ready => (s, true)
    | .busy | .livein => (s, false)
    | .interlock => (s.missOnce r, false)
    | .demand ns =>
      ((if a.resume then s else s.missOnce r).updAgent r fun a =>
        { a with demand := a.demand ++ ns.filter fun n => !a.demand.contains n }, false)

/-- Grant an agent its issue on a pipe. In trusted mode an instruction that reads a register with a write pending counts
in HINTMISS (R67). -/
def State.grant (s : State) (r : AgentRef) (pipeB : Bool) : State :=
  let a := s.agentD r
  let l := s.launchD a.lid
  let s := match s.fetchDecode r with
    | (s, f) => if l.trusted && a.pendingOn (f.needs l a.shep).2.1 then s.missOnce r else s
  { s.updAgent r fun a => { a with pipe := pipeB } with cur := some r }

/-- The place of an agent's issue in its cycle: the shepherd first, then the quadrants, the older drove first (R227). -/
def State.issueRank (s : State) (r : AgentRef) : Nat :=
  match s.agent? r with
  | some a => if a.shep then turnRank 3 r.core 0 0 else turnRank 3 r.core (a.quad + 1) (r.id + 1)
  | none => 0

/-- A wait of an agent ends: it is granted its issue again. -/
def State.wake (s : State) (r : AgentRef) : State := s.updAgent r fun a => { a with wait := none }

/-- An agent issues nothing more until something comes. -/
def State.restFor (s : State) (r : AgentRef) (w : Wait) : State := s.updAgent r fun a => { a with wait := some w }

/-- An agent whose instruction cannot proceed waits, with no effect of the instruction yet; its operands stay as they
were read in the cycle of its issue (R64, log 66). -/
def State.waitFor (s : State) (r : AgentRef) (w : Wait) : State :=
  s.updAgent r fun a =>
    { a with wait := some w, opnds := some (a.opnds.getD (s.count r.core, a.lanes)) }

/-- A store of the agent's core that its instruction comes after has not been performed: any that had issued when the instruction
first issued (R242). -/
def State.storesBefore (s : State) (r : AgentRef) : Bool :=
  let k := s.core r.core
  k.outst.any fun o => decide (o.id < (s.agentD r).mark.getD k.nextOut)

/-- Some store of a core that is not performed shares a byte with a range. -/
def State.storeOver (s : State) (c key n : Nat) : Bool :=
  (s.core c).outst.any fun o => meets o.loc.key o.bytes.length key n

/-- An instruction waits for stores of its core: those to some bytes, or, where `spans` is empty, those that come before it; where
the last of these was settled in this cycle, it waits for the next cycle (R250). -/
def State.waitStores (s : State) (r : AgentRef) (spans : List (Nat × Nat)) : State :=
  let next := (s.core r.core).nextOut
  let w : Wait := if spans.isEmpty && !s.storesBefore r then .yield (s.cycles + 1) else .fence spans
  (s.updAgent r fun a => { a with mark := some (a.mark.getD next) }).waitFor r w

/-- The stores that the lanes of an instruction must come after, if any; each lane's as `State.waitStores` has them. -/
def holdOf (es : List Env) (hold : Env → Option (List (Nat × Nat))) : Option (List (Nat × Nat)) :=
  match es.filterMap hold with
  | [] => none
  | hs => some (if hs.any (·.isEmpty) then [] else hs.flatten)

/-- An instruction of lanes of which one must come after stores of its core waits for them first, with no effect yet (R242). -/
def heldOp (o : Op) (hold : State → Env → Option (List (Nat × Nat))) (f : State → Host.Outcome State Fault Refusal)
    (s : State) : Host.Outcome State Fault Refusal :=
  match s.cur with
  | none => .fault .noIssuer
  | some r => match holdOf (s.envs r o) (hold s) with
    | some spans => .next ((s.latch r o).waitStores r spans)
    | none => f s

/-- A register that a lane reads holds uncorrectable data (R363): a w register of the lane, or a c register that its block has not
written. -/
def State.badReg (s : State) (a : Agent) (core : Nat) (l : Lane) : Reg → Bool
  | .w n => l.bad.contains n
  | .c n => (Tab.get? l.cw n).isNone && (s.thread core a.lid (if a.shep then shepTid else l.tid)).bad.contains n
  | .p _ => false

/-- The lanes whose next instruction, one of its guard, reads such a register, with the register. -/
def State.badLanes (s : State) (r : AgentRef) (i : Instr) : List (Nat × Reg) :=
  let a := s.agentD r
  let g := match i.op? with
    | some o => o.guard
    | none => default
  (a.live.filter fun e => (a.source e).guard g).filterMap fun e =>
    ((instrReads i).find? (s.badReg a r.core e.2)).map fun x => (e.1, x)

/-- A register as a granule (R363). -/
def Reg.granule : Reg → Granule
  | .w n | .p n => .wReg (BitVec.ofNat 6 n)
  | .c n => .cReg (BitVec.ofNat 6 n)

/-- Lanes that read uncorrectable registers are marked to park with cause 0x10, with no effect of the instruction and zero as their
address (R363); the others go on. A shepherd's launch stops (R205), and the instruction is not executed. -/
def State.meetBad (s : State) (r : AgentRef) (i : Instr) : State × Bool :=
  let a := s.agentD r
  let bad := s.badLanes r i
  let s := bad.foldl (fun s x =>
    let l := Tab.getD a.lanes x.1 default
    s.ueMet r.core a.lid (if a.shep then shepTid else l.tid)
      (if a.shep then 0xFFFFFFFF else BitVec.ofNat 32 l.tid) x.2.granule) s
  if bad.isEmpty then (s, true)
  else if a.shep then (s.trapLanes r [(0, 0x10, 0, 0)], false)
  else
    let park : Park := { cause := 0x10, word := a.pc, blk := a.blk, addr := 0, acc := 0, path := 0,
                         tframe := (s.launchD a.lid).tframeAt s.cycles, target := none }
    (bad.foldl (fun s x => s.updAgent r fun a =>
      { a with lanes := Tab.upd a.lanes x.1 fun l => { l with parking := some park } }) s, true)

/-- A release fence of the lane's thread has not performed, and the thread's later stores come after it (R169). -/
def State.fencePending (s : State) (e : Env) : Bool :=
  (s.core e.r.core).outst.any fun o =>
    o.bytes.isEmpty && o.lid == e.a.lid && o.tid == (if e.a.shep then none else some e.lane.tid)

/-- A lane comes after every store of its core, where `b` says so. -/
def allStores (b : Bool) : Option (List (Nat × Nat)) := if b then some [] else none

/-- A store that takes effect at once waits for its thread's release fence (R169). -/
def fenceHeld (s : State) (e : Env) : Option (List (Nat × Nat)) := allStores (s.fencePending e)

/-- An encoding fault's cause (R79): check 5 gives 0x02, every other 0x01. -/
def rejectCause : Reject → BitVec 8
  | .badOperand => 2
  | _ => 1

/-- A word that is no instruction (R79, R80): in probe mode a reserved opcode is a NOP that sets the probe flag of the
threads whose guard holds, and the shepherd's where its guard holds (R80 does not speak of the guard there; log 79); every other parks every thread of the drove, or traps the shepherd. -/
def State.badWord (s : State) (r : AgentRef) (why : Reject) (w : IWord) : State :=
  let a := s.agentD r
  let l := s.launchD a.lid
  if probeNop l why then
    let g := (decodeOp a.shep w).guard
    let s := a.live.foldl (fun s e =>
      if e.2.guard g then
        s.updThread r.core a.lid (if a.shep then shepTid else e.2.tid) fun t => { t with probe := true }
      else s) s
    s.updAgent r fun a => a.issued s.cycles { decodeCtl w with gap := 0 } .f4 [] [] []
  else s.trapLanes r (a.live.map fun e => (e.1, rejectCause why, (0 : DWord), 0))

end Sys2Proof.Machine
end

