-- ==== Sys2Proof/Machine/Control.lean ====
section
/-! DEFINITION. Group 0x0_: blocks, terminators and the control instructions that do not end a block (R119 to R130). -/

namespace Sys2Proof.Machine

/-- The block ends (R122): every lane that is not about to park leaves it for the target that `f` gives. -/
def State.endBlock (s : State) (r : AgentRef) (f : Nat → Lane → DWord × ExitKind) : State :=
  s.updAgent r fun a =>
    { a with
        lanes := a.lanes.map fun e => (e.1, if e.2.parking.isNone then { e.2 with exit := some (f e.1 e.2) } else e.2)
        ended := true, wait := none, opnds := none, got := [], served := [], stalled := false, drain := false }

/-- A terminator (R123): a thread whose guard fails goes to the next word as an ordinary arrival. -/
def terminator (o : Op) (f : Env → DWord × ExitKind) (s : State) : Host.Outcome State Fault Refusal :=
  match s.cur with
  | none => .fault .noIssuer
  | some r =>
    let s := s.latch r o
    let a := s.agentD r
    let l := s.launchD a.lid
    .next (s.endBlock r fun n ln =>
      if ln.guard o.guard then f { s, r, a, l, n, lane := ln, now := s.readTime r } else (a.pc + 16, .plain))

/-- The target of a signed offset counted in words (R123). -/
def Env.rel (e : Env) (o : Op) : DWord := e.a.pc + (o.imm.signExtend 64) * 16
/-- The target of a byte offset from the image base (R123). -/
def Env.abs (e : Env) (v : Word) : DWord := e.l.codeBase + v.setWidth 64
/-- The return address of a call (R125). -/
def Env.retAddr (e : Env) : Word := e.l.offset (e.a.pc + 16)
def destC (o : Op) : Nat :=
  match o.d with
  | .c n => n.toNat
  | _ => 0

/-- NOP (R129). -/
def execNop (o : Op) (s : State) : Host.Outcome State Fault Refusal := laneOp o .f4 0 (fun _ => .of []) s

/-- BLK (R119, R122): at the start of its block it only issues; reached by falling through it ends the block, and
every thread goes to it. -/
def execBlk (ctl : Ctl) (_live : DWord) (_team _landing : Bool) (s : State) : Host.Outcome State Fault Refusal :=
  agentOp (fun r s =>
    let a := s.agentD r
    if a.pc = a.blk then s.updAgent r fun a => a.issued s.cycles ctl .f4 [] [] []
    else s.endBlock r fun _ _ => (a.pc, .plain)) s

/-- BR. -/
def execBr (o : Op) (s : State) : Host.Outcome State Fault Refusal := terminator o (fun e => (e.rel o, .plain)) s
/-- CBR. -/
def execCbr (o : Op) (s : State) : Host.Outcome State Fault Refusal :=
  terminator o (fun e => (if e.a32 o ≠ 0 then e.rel o else e.a.pc + 16, .plain)) s
/-- IBR. -/
def execIbr (o : Op) (s : State) : Host.Outcome State Fault Refusal :=
  terminator o (fun e => (e.abs (e.a32 o), .ibr)) s
/-- CALL (R125): the return address reaches cD when the thread is filed. -/
def execCall (o : Op) (s : State) : Host.Outcome State Fault Refusal :=
  terminator o (fun e => (e.rel o, .call (destC o) e.retAddr)) s
/-- ICALL. -/
def execIcall (o : Op) (s : State) : Host.Outcome State Fault Refusal :=
  terminator o (fun e => (e.abs (e.a32 o), .icall (destC o) e.retAddr)) s
/-- RET. -/
def execRet (o : Op) (s : State) : Host.Outcome State Fault Refusal :=
  terminator o (fun e => (e.abs (e.a32 o), .ret)) s
/-- EXIT (R126). -/
def execExit (o : Op) (s : State) : Host.Outcome State Fault Refusal :=
  terminator o (fun e => (e.a.pc + 16, .exit)) s
/-- JOIN (R128). -/
def execJoin (o : Op) (s : State) : Host.Outcome State Fault Refusal :=
  terminator o (fun e => (e.a.pc + 16, .join)) s

/-- YIELD (R129): the drove leaves issue for at most 16 cycles, unless every guard fails (R75). -/
def execYield (o : Op) (s : State) : Host.Outcome State Fault Refusal :=
  agentOp (fun r s =>
    let goes := (s.envs r o).isEmpty
    let s := s.updAgent r fun a => a.issued s.cycles o.ctl .f4 [] [] []
    if goes then s else s.restFor r (.yield (s.cycles + 16))) s

/-- The copy that a promise ticket names, if its slot still holds that generation: it has landed when it is not in
flight (R182). -/
def State.ticketState (s : State) (c : Nat) (ticket : Word) : Option Copy :=
  match Tab.get? (s.core c).copies (ticket.toNat % 512) with
  | some x => if x.gen = ticket.toNat / 512 then some x else none
  | none => none

/-- The cause that SLEEP gives on a ticket when it wakes (R130, R182, R184): none once the copy has landed. -/
def State.ticketCause (s : State) (c : Nat) (ticket : Word) : Option (BitVec 8) :=
  match s.ticketState c ticket with
  | some x => if x.failed then some x.cause else if !x.live then none else some 0x09
  | none => none

/-- The mark in `served` of a SLEEP whose target has been reached. -/
def sleepMark : Nat := 2 ^ 32

/-- SLEEP (R130): threads whose target lies more than 2^31 cycles ahead park with cause 0x02; the others suspend issue
until the largest of their targets, and then have their tickets checked; a landed one acquires at core scope (R182). -/
def execSleep (o : Op) (s : State) : Host.Outcome State Fault Refusal :=
  match s.cur with
  | none => .fault .noIssuer
  | some r =>
    let s := s.latch r o
    let a := s.agentD r
    let woken := (Tab.get? a.served sleepMark).isSome
    let es := s.envs r o
    let far := fun (e : Env) => !woken && decide (e.now + 2 ^ 31 < (e.a64 o).toNat)
    let target := (es.filter fun e => !far e).foldl (fun t e => max t (e.a64 o).toNat) 0
    if !woken && decide (s.count r.core < target) then
      let bad := (es.filter far).map fun e => (e.n, (2 : BitVec 8), (0 : DWord), 0)
      .next ((s.waitFor r (.sleep (cyclesAt r.core target) [])).trapLanes r bad)
    else
      let landed := fun (e : Env) => !far e && o.b != .zero && (s.ticketCause r.core (e.b32 o)).isNone
      let t := (es.filter landed).foldl (fun s e => s.acquireEpoch r.core a.lid e.tid 2) s
      .next (t.commit r o .f4 0 (es.map fun e =>
        if far e then (e.n, .fail 2)
        else if o.b = .zero then (e.n, .of [])
        else match s.ticketCause r.core (e.b32 o) with
          | some c => (e.n, .fail c)
          | none => (e.n, .of [])))

/-- BKPT: every thread whose guard holds parks with cause 0x11. -/
def execBkpt (o : Op) (s : State) : Host.Outcome State Fault Refusal := laneOp o .f4 0 (fun _ => .fail 0x11) s

/-- PROBE: D := PROBEFLAG, which is then cleared. -/
def execProbe (o : Op) (s : State) : Host.Outcome State Fault Refusal :=
  match s.cur with
  | none => .fault .noIssuer
  | some r =>
    let a := s.agentD r
    let es := s.envs r o
    let s := es.foldl (fun s e => s.updThread r.core a.lid e.tid fun t => { t with probe := false }) s
    .next (s.commit r o .f4 1 (es.map fun e => (e.n, .bool e.thread.probe)))

end Sys2Proof.Machine
end

