-- ==== Sys2Proof/Machine/Droves.lean ====
section
/-! DEFINITION. The steps of folds, droves and the pen (R214 to R235), and those that end a wait. -/

namespace Sys2Proof.Machine

/-- RESULT_LANDING: the next class V result of an agent lands, with what has become readable by now (R65). -/
def execResultLanding (core ag : Nat) (s : State) : Host.Outcome State Fault Refusal :=
  .next (s.turnOpen (turnRank 4 core 0 0) fun s => s.updAgent { core, id := ag } fun a =>
    let a := a.landDue s.cycles
    match landFirstV a.pending [] a.lanes with
    | some (ps, lanes) => { a with pending := ps, lanes }
    | none => a)

/-! ### Formation -/

/-- The eligible fold with the earliest instant, ties to the lower number (R219). -/
def State.headFold (s : State) (c q : Nat) : Option (Nat × Fold) :=
  ((s.quad c q).folds.foldl (fun (best : Option (Nat × Nat × Fold)) e =>
    match s.instant c e.2 with
    | some t =>
      if t ≤ s.cycles then
        match best with
        | some (t', _, _) => if t < t' then some (t, e.1, e.2) else best
        | none => some (t, e.1, e.2)
      else best
    | none => best) none).map fun x => x.2

/-- Working-register slots in use on a quadrant (R16). -/
def State.slotsUsed (s : State) (c q : Nat) : Nat :=
  ((s.core c).agents.filter fun e => !e.2.shep && e.2.quad == q).foldl (fun n e => n + e.2.slots) 0

/-- The members that a draw takes (R220). -/
def State.drawn (s : State) (c : Nat) (f : Fold) : List Member :=
  let w := (s.launchD f.lid).width
  let here := f.members.filter fun m => decide (m.arrived < s.cycles) || f.team
  if f.team then
    match (s.completeTeams c f).foldl (fun (best : Option (Nat × Nat)) t => match best with
        | some b => if t.2 < b.2 then some t else best
        | none => some t) none with
    | some (t, _) => f.members.filter fun m => m.tid / w == t
    | none => []
  else (sortMembers here).take w

/-- The shepherd of a launch on a core. -/
def State.shepherd? (s : State) (c lid : Nat) : Option (Nat × Agent) :=
  (s.core c).agents.find? fun e => e.2.shep && e.2.lid == lid

/-- The registers of a 64-bit live-in mask, ascending (R119). -/
def maskRegs (m : DWord) : List Nat := (List.range 64).filter m.getLsbD

/-- The snapshot of s0 to s31 (R19, R22): what the shepherd has written before this cycle. A result counts as written in the
cycle after that from which R64 lets it be read, i + 4 or i + 6: which of the two is left open (DESIGN CHOICE, log 82). -/
def State.snapshot (s : State) (c lid : Nat) : Tab Word :=
  match s.shepherd? c lid with
  | some (_, a) => match Tab.get? (a.landDue (s.cycles - 1)).lanes 0 with
    | some ln => ln.w.filter fun e => e.1 < 32
    | none => []
  | none => []

/-- A drove of the drawn threads (R220, R231). -/
def State.formDrove (s : State) (c q n : Nat) (f : Fold) (ms : List Member) : State :=
  let l := s.launchD f.lid
  let id := (s.core c).nextAg
  let tids := sortNat (ms.map (·.tid))
  let snap := s.snapshot c f.lid
  let blk := if f.resume then (match tids with
      | t :: _ => (s.thread c f.lid t).tblk
      | [] => f.addr) else f.addr
  let (s, live, team) := match s.blkAt c l blk with
    | (s, .ok (some (live, team, _))) => (s, live, team)
    | (s, _) => (s, 0, false)
  let lane := fun (i tid : Nat) =>
    let t := s.thread c f.lid tid
    let (w, p, bad) := match t.row with
      | some (_, w, p) => if f.resume then (w, p, t.badRow) else ([], [], [])
      | none => ([], [], [])
    (i, Lane.of tid (s.tick * 128 + i) w p bad)
  let lanes := tids.mapIdx lane
  let a : Agent :=
    { shep := false, lid := f.lid, quad := q, slots := l.width / 32, size := tids.length, pc := f.addr, blk, team,
      resume := f.resume, lanes, snap, tn := (s.res c f.lid).tn, formed := s.cycles, pending := [], next := s.cycles,
      drain := false, cede := none, pipe := false, wait := none, opnds := none, mark := none, got := [], served := [], stalled := false, ended := false,
      livein := if f.resume then [] else maskRegs live, demand := [], fetched := [], held := [] }
  let s := tids.foldl (fun s t =>
    let s := s.releaseRow c f.lid t
    s.updThread c f.lid t fun x => { x with place := .drove id, hold := none, row := none, park := none, bad := x.bad.filter (· < 64) }) s
  let qd := s.quad c q
  let rest := f.members.filter fun m => !tids.contains m.tid
  let folds := if rest.isEmpty then Tab.erase qd.folds n
    else Tab.set qd.folds n { f with members := rest, since := s.cycles + 1, elig := none, closed := !qd.stray.isEmpty }
  let s := s.setQuad c q { qd with folds, lastElig := s.cycles }
  s.updCore c fun k => { k with agents := Tab.set k.agents id a, nextAg := id + 1 }

/-- DROVE_FORMATION (R219, R220): at most one a cycle on a quadrant. -/
def execDroveFormation (core q : Nat) (s : State) : Host.Outcome State Fault Refusal :=
  .next (s.turn (turnRank 2 core (q + 1) 1) fun s => match s.headFold core q with
    | some (n, f) =>
      let need := (s.launchD f.lid).width / 32
      let ms := s.drawn core f
      if (s.core core).frozen || ms.isEmpty || decide (16 < s.slotsUsed core q + need) then s
      else s.formDrove core q n f ms
    | none => s)

/-- FOLD_AGE_EXPIRY: the eligibility instant of a fold is fixed (R219). -/
def execFoldAgeExpiry (core q fold : Nat) (s : State) : Host.Outcome State Fault Refusal :=
  .next (match Tab.get? (s.quad core q).folds fold with
    | some f => match s.eligibleAt core f with
      | some t =>
        if t ≤ s.cycles ∧ f.elig = none ∧ !(s.core core).frozen then
          let qd := s.quad core q
          s.setQuad core q { qd with folds := Tab.set qd.folds fold { f with elig := some t }, lastElig := s.cycles }
        else s
      | none => s
    | none => s)

/-! ### Issue -/

def insertAge (x : Nat × Agent) : List (Nat × Agent) → List (Nat × Agent)
  | [] => [x]
  | y :: ys => if y.2.formed ≤ x.2.formed then y :: insertAge x ys else x :: y :: ys

/-- Droves of a quadrant by age, older first (R225). -/
def State.byAge (s : State) (c q : Nat) : List (Nat × Agent) :=
  ((s.core c).agents.filter fun e => !e.2.shep && e.2.quad == q && !e.2.ended).foldl (fun l e => insertAge e l) []

/-- Judge every drove of a quadrant: the ready ones by age, each with the pipe whose next issue cycle it gave away. -/
def State.readyDroves (s : State) (c q : Nat) : State × List (Nat × Option Bool) :=
  (s.byAge c q).foldl (fun (x : State × List (Nat × Option Bool)) e =>
    match x.1.judge { core := c, id := e.1 } with
    | (s, true) => (s, x.2 ++ [(e.1, e.2.cede)])
    | (s, false) => (s, x.2)) (s, [])

/-- What a pipe issues of some ready droves: the oldest that has not given away the pipe's cycle, else the oldest
(R68, R225). -/
def pickFor (pipeB : Bool) (ids : List (Nat × Option Bool)) : Option Nat :=
  match ids.find? fun e => e.2 != some pipeB with
  | some e => some e.1
  | none => ids.head?.map (·.1)

/-- The number of a pipe of a core. -/
def pipeNo (q : Nat) (pipeB : Bool) : Nat := 2 * q + if pipeB then 1 else 0

/-- No later pass of an instruction holds a pipe in this cycle (R225). -/
def State.pipeFree (s : State) (c q : Nat) (pipeB : Bool) : Bool :=
  decide (Tab.getD (s.core c).pipes (pipeNo q pipeB) 0 ≤ s.cycles)

/-- The droves that the two pipes of a quadrant issue in this cycle, chosen once: pipe A the oldest ready one, pipe B the
next oldest; where one pipe is held by the passes of an instruction, the other takes the oldest. -/
def State.choose (s : State) (c q : Nat) : State :=
  match Tab.get? (s.core c).picks q with
  | some (t, _, _) => if t = s.cycles then s else go
  | none => go
where
  go : State :=
    match s.readyDroves c q with
    | (s, ids) =>
      let a := if s.pipeFree c q false then pickFor false ids else none
      let b := if s.pipeFree c q true then pickFor true (ids.filter fun e => some e.1 != a) else none
      s.updCore c fun k => { k with picks := Tab.set k.picks q (s.cycles, a, b) }

/-- A pipe issues a drove's instruction in this cycle: its passes hold it, and what was given away of it is used (R68, R225). -/
def State.usePipe (s : State) (c q id : Nat) (pipeB : Bool) : State :=
  let n := (s.agentD { core := c, id }).passes
  s.updCore c fun k =>
    { k with
        pipes := Tab.set k.pipes (pipeNo q pipeB) (s.cycles + n)
        agents := k.agents.mapVals fun _ x =>
          if !x.shep && x.quad == q && x.cede == some pipeB then { x with cede := none } else x }

/-- The droves of a quadrant have been chosen for this cycle. -/
def State.chosen (s : State) (c q : Nat) : Bool :=
  match Tab.get? (s.core c).picks q with
  | some (t, _, _) => t == s.cycles
  | none => false

/-- DROVE_ISSUE (R225): the step after this one issues the granted drove's instruction. -/
def execDroveIssue (core q : Nat) (pipeB : Bool) (s : State) : Host.Outcome State Fault Refusal :=
  .next (if (s.core core).frozen || (!s.chosen core q && decide (turnRank 3 core (q + 1) 0 < s.phase)) then s
    else s.turnOpen (max s.phase (turnRank 3 core (q + 1) 0)) fun s =>
      let s := s.choose core q
      match Tab.get? (s.core core).picks q with
      | some (t, a, b) => match (if pipeB then b else a) with
        | some id =>
          let picks := if pipeB then (t, a, none) else (t, none, b)
          if (s.agent? { core, id }).isSome then
            s.turn (s.issueRank { core, id }) fun s =>
              ((s.updCore core fun k => { k with picks := Tab.set k.picks q picks }).usePipe core q id pipeB).grant
                { core, id } pipeB
          else s
        | none => s
      | none => s)

/-- The grant of the scalar port to the shepherd of a launch (R233). -/
def State.grantShepherd (s : State) (core lid : Nat) : State :=
  if (s.core core).frozen then s
  else s.turnOpen (turnRank 3 core 0 0) fun s => match s.shepherd? core lid with
    | some (id, _) => match s.judge { core, id } with
      | (s, true) => s.turn (turnRank 3 core 0 0) fun s => s.grant { core, id } false
      | (s, false) => s
    | none => s

/-! ### The ends of blocks and threads -/

/-- One thread leaves its drove at the end of its block (R216). -/
def State.fileLane (s : State) (r : AgentRef) (ln : Lane) : State :=
  let a := s.agentD r
  let l := s.launchD a.lid
  let c := r.core
  if l.cancelled then s.updCore c fun k => { k with threads := Tab.erase k.threads (threadKey a.lid ln.tid) }
  else match ln.exit with
    | some (_, .exit) => s.exitThread c a.lid ln.tid
    | some (target, k) =>
      let s := s.updThread c a.lid ln.tid fun t =>
        { t.takeC ln.cw with hold := none }
      s.leaveBlock c a.lid ln.tid ln a.pc a.blk target k
    | none => s

/-- The threads of a drove whose block has ended with an EXIT. -/
def Agent.exits (a : Agent) : List Nat :=
  (a.lanes.filter fun e => match e.2.exit with
    | some (_, .exit) => true
    | _ => false).map fun e => e.2.tid

/-- BLOCK_EXIT_FILING (R216, R68, R122 to R126): the drove's results land, its threads' c writes reach the pen, and in
ascending TID each is filed, parks, or exits. An EXIT that needs a tracker entry while none is free waits. -/
def execBlockExitFiling (core ag : Nat) (s : State) : Host.Outcome State Fault Refusal :=
  let r : AgentRef := { core, id := ag }
  .next (match s.agent? r with
    | some a => s.turn (turnRank 4 core (a.quad + 1) ag) fun s =>
      let waits := a.pending.any fun p => !p.await.isEmpty
      let full := s.trackerFull core a.lid a.exits
      if a.shep || !a.ended || waits || a.lanes.isEmpty || a.lanes.any (fun e => e.2.parking.isSome) || full then s
      else
        let s := s.updAgent r Agent.landAll
        let lanes := (s.agentD r).lanes
        let s := lanes.foldl (fun s e => s.fileLane r e.2) s
        (s.updAgent r fun a => { a with lanes := [] }).reap r
    | none => s)

/-- LIVE_IN_FETCH: the next four live-in registers arrive (R228). -/
def execLiveInFetch (core ag : Nat) (s : State) : Host.Outcome State Fault Refusal :=
  .next (s.updAgent { core, id := ag } fun a =>
    { a with livein := a.livein.drop 4, fetched := a.fetched ++ a.livein.take 4 })

/-- PEN_DEMAND_READ: a c register that was asked for arrives (R120). -/
def execPenDemandRead (core ag reg : Nat) (s : State) : Host.Outcome State Fault Refusal :=
  .next (s.updAgent { core, id := ag } fun a =>
    if a.demand.contains reg then
      { a with demand := a.demand.filter (· != reg), fetched := a.fetched ++ [reg] }
    else a)

/-- A fold with the key of a thread of the stray list takes up to `n` of the list's threads of that key, in order; whether
some are left. -/
def State.refileInto (s : State) (c q fold : Nat) (f : Fold) (n : Nat) : State × Nat × Bool :=
  let qd := s.quad c q
  let key := fun (x : Nat) => Tab.getD (s.core c).threads x (Thread.fresh 0 0 0)
  let same := qd.stray.filter fun x => f.has (key x).lid (key x).next (key x).resume
  let take := same.take n
  let members : List Member := take.map fun x => { tid := (key x).tid, arrived := s.cycles, join := (key x).joined }
  let folds := Tab.set qd.folds fold { f with members := f.members ++ members }
  let s := s.setQuad c q ({ qd with folds, stray := qd.stray.filter fun x => !take.contains x } : Quad).reopen
  (take.foldl (fun s x => s.updCore c fun k =>
    { k with threads := Tab.upd k.threads x fun t => { t with place := .filed fold } }) s, take.length,
   decide (n < same.length))

/-- STRAY_REFILE (R222): a free fold takes the list's first thread and every other of its key, at most 32 threads of the
quadrant in a cycle; what is left of the key follows in later cycles, unless the fold has been drawn meanwhile. -/
def execStrayRefile (core q : Nat) (s : State) : Host.Outcome State Fault Refusal :=
  .next (if (s.core core).frozen then s else s.turnOpen (turnRank 2 core (q + 1) 0) fun s =>
    let qd := s.quad core q
    let used := if qd.refile.1 = s.cycles then qd.refile.2.1 else 0
    let goes := fun (s : State) (n : Nat) (f : Fold) =>
      match s.refileInto core q n f (32 - used) with
      | (s, k, more) => s.setQuad core q { s.quad core q with refile := (s.cycles, used + k, if more then some n else none) }
    let on := match qd.refile.2.2 with
      | some n => match Tab.get? qd.folds n with
        | some f => if f.closed then none else some (n, f)
        | none => none
      | none => none
    if used = 32 then s
    else match on with
    | some (n, f) => goes s n f
    | none => match qd.stray, freeFold qd.folds 0 32 with
      | k :: _, some n =>
        let t := Tab.getD (s.core core).threads k (Thread.fresh 0 0 0)
        match s.blkAt core (s.launchD t.lid) t.next with
        | (s, b) =>
          let (team, landing) := match b with
            | .ok (some (_, team, landing)) => (team && !t.resume, landing)
            | _ => (false, false)
          goes s n { lid := t.lid, addr := t.next, resume := t.resume, team, landing, members := [], since := s.cycles,
                     elig := none, closed := false }
      | _, _ => s)

/-- The fold that a spill takes: the team fold whose oldest thread arrived latest, ties to the higher number (R223). -/
def spillChoice (folds : Tab Fold) : Option (Nat × Fold) :=
  (folds.foldl (fun (best : Option (Nat × Nat × Fold)) e =>
    if e.2.team then
      let old := (e.2.members.map (·.arrived)).foldl min (2 ^ 64)
      match best with
      | some (o, _, _) => if o ≤ old then some (old, e.1, e.2) else best
      | none => some (old, e.1, e.2)
    else best) none).map fun x => x.2

/-- SPILL (R223). -/
def execSpill (core q : Nat) (s : State) : Host.Outcome State Fault Refusal :=
  .next (s.turnOpen (turnRank 4 core (q + 1) (2 ^ 60)) fun s =>
    let qd := s.quad core q
    let age := qd.folds.foldl (fun m e => max m (s.launchD e.2.lid).age) 0
    let due := !(s.core core).frozen && !qd.stray.isEmpty && qd.folds.length == 32 && (s.headFold core q).isNone
      && decide (qd.lastElig + 4 * age ≤ s.cycles)
    match spillChoice qd.folds with
    | some (n, f) =>
      if due then
        let ms := sortMembers f.members
        let s := s.setQuad core q
          { qd with folds := Tab.erase qd.folds n, stray := qd.stray ++ ms.map fun m => threadKey f.lid m.tid }
        ms.foldl (fun s m => s.updThread core f.lid m.tid fun t => { t with place := .stray, joined := m.join }) s
      else s
    | none => s)

/-- THREAD_PARK (R229): a lane marked to park does so once its drove's results have landed; lanes whose accesses are pending at
the homes of their pages park when nothing else is out. -/
def execThreadPark (core ag lane : Nat) (s : State) : Host.Outcome State Fault Refusal :=
  let r : AgentRef := { core, id := ag }
  .next (match s.agent? r with
    | some a =>
      if (Tab.get? a.lanes lane).isNone then s
      else s.turnOpen (turnRank 4 core 0 0) fun s =>
        let s := s.parkPending r
        match (Tab.get? (s.agentD r).lanes lane).bind (·.parking) with
        | some p => if (s.agentD r).pending.any fun p => !p.await.isEmpty then s else s.parkLanes r [(lane, p)]
        | none => s
    | none => s)

/-- A thread in the fault fold waits on no record and on no other package: its fault was resolved, or its record could not be
written. -/
def State.unblocked (s : State) (c lid tid : Nat) : Bool :=
  !(s.fabric.fqs.any fun q => q.2.recs.any fun e => e.2.waiters.contains (.thread c lid tid))
    && !(s.fabric.remote.any fun e => !e.2.ofLane && e.2.core == c && e.2.lid == lid && e.2.tid == tid
      && (e.2.parked || e.2.acc == Acc.write))

/-- FAULT_RESOLUTION_RESUME (R231, R232): a thread parked in its block is filed at the faulting word; one parked at
block exit has the checks of R124 repeated on its kept target. -/
def execFaultResolutionResume (core lid tid : Nat) (s : State) : Host.Outcome State Fault Refusal :=
  .next (match Tab.get? (s.core core).threads (threadKey lid tid) with
    | some t => match t.place, t.park with
      | .faultFold, some p =>
        if s.unblocked core lid tid && !(s.core core).frozen then
          match p.target with
          | some (target, k) =>
            s.leaveBlock core lid tid (Lane.of tid (s.tick * 128) [] [] []) p.word p.blk target k
          | none => s.fileResume core lid tid p.word p.blk
        else s
      | _, _ => s
    | none => s)

/-- SLEEP_WAKE (R130): the target is reached; the SLEEP issues once more and checks its tickets. -/
def execSleepWake (core ag : Nat) (s : State) : Host.Outcome State Fault Refusal :=
  let r : AgentRef := { core, id := ag }
  .next (match s.agent? r with
    | some a => match a.wait with
      | some (.sleep t _) =>
        if t ≤ s.cycles ∧ !(s.core core).frozen then
          s.turn (s.issueRank r) fun s =>
            { s.updAgent r fun a => { a with wait := none, served := [(sleepMark, 1)] } with cur := some r }
        else s
      | _ => s
    | none => s)

/-- YIELD_EXPIRY (R129). -/
def execYieldExpiry (core ag : Nat) (s : State) : Host.Outcome State Fault Refusal :=
  let r : AgentRef := { core, id := ag }
  .next (match s.agent? r with
    | some a => match a.wait with
      | some (.yield t) =>
        match s.readyDroves core a.quad with
        | (s, ids) => if decide (t ≤ s.cycles) || ids.isEmpty then s.wake r else s
      | _ => s
    | none => s)

/-- TRACKER_ENTRY_DRAINED (R234): an entry whose accesses have all drained frees, and its team may retire. -/
def execTrackerEntryDrained (core idx : Nat) (s : State) : Host.Outcome State Fault Refusal :=
  .next (match Tab.get? (s.core core).tracker idx with
    | some t =>
      let k := s.core core
      let busy := t.acc.any (fun i => k.outst.any fun o => o.id == i)
        || t.copies.any (fun i => match Tab.get? k.copies i.1 with
            | some x => x.live && x.gen == i.2
            | none => false)
        || t.reqs.any fun i => (Tab.get? s.fabric.remote i).isSome
      if busy then s
      else (s.updCore core fun k => { k with tracker := Tab.erase k.tracker idx }).tryRetire core t.lid t.team
    | none => s)

/-- A store keeps a later one of its core from being performed first: where they share a byte (R240), where the later is a
release (R242), and where the earlier is a release fence of the same thread (R169). -/
def Outst.before (x o : Outst) : Bool :=
  o.rel || (x.bytes.isEmpty && x.lid == o.lid && x.tid == o.tid)
    || (decide (x.loc.key < o.loc.key + o.bytes.length) && decide (o.loc.key < x.loc.key + x.bytes.length))

/-- A store may be performed before the others of its core. A release at sys scope comes after the cycle in which the last
store that it waits for was settled (R250). -/
def State.canPerform (s : State) (c : Nat) (o : Outst) : Bool :=
  (s.core c).outst.all (fun x => decide (o.id ≤ x.id) || !x.before o)
    && !(o.rel && o.scope == 5 && (s.core c).settledAt == some s.cycles)

/-- A load takes its value after the earlier loads of its thread that share a byte with it (R240). -/
def State.loadPerforms (s : State) (c : Nat) (x : Late) : State :=
  s.takeLates c fun y => y.id == x.id || (decide (y.id < x.id) && y.lid == x.lid && y.tid == x.tid && y.meets x.loc.key x.n)

/-- ACCESS_PERFORMED (R238, R250): one access of a core reaches its coherence point, in a cycle loads first and then stores,
those of the lower core first; the loads that race detection only logs as they take their values are checked in the order of
their cores and of their issue (R258). -/
def execAccessPerformed (core idx : Nat) (s : State) : Host.Outcome State Fault Refusal :=
  .next (match (s.core core).outst.find? fun o => o.id == idx with
    | some o => s.turnOpen (turnRank 6 core 0 0) fun s => if s.canPerform core o then s.perform core o else s
    | none => match (s.core core).late.find? fun x => x.id == idx with
      | some x => s.turnOpen (turnRank 5 0 0 (if x.log then core * 2 ^ 40 + x.id + 1 else 0)) fun s => s.loadPerforms core x
      | none => s)

end Sys2Proof.Machine
end

