-- ==== Sys2Proof/Machine/Bells.lean ====
section
/-! DEFINITION. The scratchpad of a launch on a core (R151), bells (R171 to R174), chutes (R175 to R177), and the end
of a copy (R182). -/

namespace Sys2Proof.Machine

/-! ### The scratchpad -/

/-- A byte of a launch's allocation on a core; one that nothing has written is a free value (log 2). -/
def State.scratchByte (s : State) (c lid off : Nat) : Byte :=
  (Tab.get? (s.res c lid).scratch off).getD (Config.undefScratch lid (s.res c lid).home off)
def State.scratchRead (s : State) (c lid off n : Nat) : List Byte := listGen (fun i => s.scratchByte c lid (off + i)) n

def Stream.none : Stream := { live := false, words := [], idx := false, pos := 0, next := 0, elems := [], owed := [], spoilt := false, stale := [] }
/-- Bytes of an element, elements of the stream, bytes of the ring, and the ring's place (R159). -/
def Stream.esize (x : Stream) : Nat := 4 * 2 ^ ((x.words.getD 2 0).toNat % 4)
def Stream.count0 (x : Stream) : Nat := (x.words.getD 3 0).toNat
def Stream.count (x : Stream) : Nat := x.count0 * if x.idx then 1 else (x.words.getD 5 0).toNat
def Stream.ring (x : Stream) : Nat := (x.words.getD 2 0).toNat / 65536 % 16 * 4096
def Stream.place (x : Stream) (i : Nat) : Nat := (x.words.getD 7 0).toNat + i * x.esize % x.ring

/-- Bytes replace those that a table holds. -/
def replaceBytes (t : Tab Byte) (k : Nat) : List Byte → Tab Byte
  | [] => t
  | b :: bs => replaceBytes (if (Tab.get? t k).isSome then Tab.set t k b else t) (k + 1) bs

/-- Instructions or copies reach bytes of the allocation: what CHPUSH had put there is no longer its own (R175). -/
def Res.reach (r : Res) (off n : Nat) : Res :=
  { r with chutes := Tab.mapVals r.chutes fun _ x => { x with own := x.own.filter fun i => !meets (x.off + 4 * i) 4 off n } }
/-- They write bytes of it: a stream whose ring they reach while it is open is spoilt (R160). -/
def Res.overwrite (r : Res) (off n : Nat) : Res :=
  { r.reach off n with streams := Tab.mapVals r.streams fun _ x =>
      if x.live && meets (x.words.getD 7 0).toNat x.ring off n then { x with spoilt := true } else x }

/-- An instruction reaches bytes of an allocation. -/
def State.reach (s : State) (c lid off n : Nat) : State :=
  if (s.res c lid).chutes.any fun x => x.2.own.any fun i => meets (x.2.off + 4 * i) 4 off n then
    s.updRes c lid fun r => r.reach off n
  else s

/-- Write bytes of the allocation. A write of part of a word that holds uncorrectable data is dropped (R363). -/
def State.scratchWrite (s : State) (c lid off : Nat) (bs : List Byte) : State :=
  s.updRes c lid fun r =>
    if r.partBad 0 off bs.length then r.overwrite off bs.length
    else { (r.overwrite off bs.length).mend 0 off bs.length with scratch := putBytes r.scratch off bs }

/-- A store to the allocation by a thread or a copy: one that is dropped so leaves a record of KIND 2 (R363). -/
def State.scratchStore (s : State) (c lid : Nat) (who : Word) (off : Nat) (bs : List Byte) : State :=
  (if (s.res c lid).partBad 0 off bs.length then s.ueMet c lid 0 who (.scratch off) else s).scratchWrite c lid off bs

/-! ### Bells -/

def Bell.none : Bell := { live := false, count := 0, arr := 0, pend := 0, phase := false, errCur := 0, errLast := 0, done := Option.none }
def State.bell (s : State) (c lid b : Nat) : Bell := Tab.getD (s.res c lid).bells b Bell.none
def State.setBell (s : State) (c lid b : Nat) (x : Bell) : State :=
  s.updRes c lid fun r => { r with bells := Tab.set r.bells b x }

/-- A lane that waits on a bell's old parity gets its result (R173). -/
def Agent.bellReturns (a : Agent) (b : Nat) (phase : Bool) (err : Word) : Agent :=
  match a.wait with
  | some (.bell ws) =>
    let go := ws.filter fun w => w.2.1 == b && w.2.2 != phase
    let stay := ws.filter fun w => !(w.2.1 == b && w.2.2 != phase)
    { a with
        served := go.foldl (fun t w => Tab.set t w.1 err) a.served
        wait := if stay.isEmpty then none else some (.bell stay) }
  | _ => a

/-- A phase completes when ARR = COUNT and PEND = 0 (R173): the parity flips and the waiting BWAITs return. -/
def State.bellCheck (s : State) (c lid b : Nat) : State :=
  let x := s.bell c lid b
  if x.live ∧ x.arr = x.count ∧ x.pend = 0 then
    let s := s.setBell c lid b
      { x with phase := !x.phase, arr := 0, errLast := x.errCur, errCur := 0, done := some s.cycles }
    s.updCore c fun k =>
      { k with agents := k.agents.map fun e =>
          (e.1, if e.2.lid = lid then e.2.bellReturns b (!x.phase) (x.errCur.setWidth 32) else e.2) }
  else s

/-- A copy's completion on its bell (R173), which is a release (R242). -/
def State.bellCompletion (s : State) (c lid b : Nat) (failed : Bool) : State :=
  let x := s.bell c lid b
  let s := s.setBell c lid b { x with pend := x.pend - 1, errCur := if failed then 1 else x.errCur }
  (s.bellCheck c lid b).released lid

/-- A bell that an instruction may name (R174). -/
def State.bellOk (s : State) (c lid : Nat) (b : Word) : Bool :=
  decide (b.toNat < (s.launchD lid).nbells) && (s.bell c lid b.toNat).live

/-- Some party waits on a bell. -/
def State.bellWaited (s : State) (c lid b : Nat) : Bool :=
  (s.core c).agents.any fun e => e.2.lid == lid && match e.2.wait with
    | some (.bell ws) => ws.any fun w => w.2.1 == b
    | _ => false

/-- An instruction that acts on the state for one lane after another, in ascending lane order: the results of the
lanes, and the state they leave. -/
def foldLanes (es : List Env) (f : State → Env → State × LaneRes) (s : State) : State × List (Nat × LaneRes) :=
  es.foldl (fun (x : State × List (Nat × LaneRes)) e =>
    let (s, r) := f x.1 e
    (s, x.2 ++ [(e.n, r)])) (s, [])

/-- The meaning of such an instruction that never waits. -/
def seqOp (o : Op) (k : Nat) (f : State → Env → State × LaneRes) (s : State) : Host.Outcome State Fault Refusal :=
  match s.cur with
  | none => .fault .noIssuer
  | some r =>
    let s := s.latch r o
    let (s', rs) := foldLanes (s.envs r o) f s
    .next (s'.commit r o .v k rs)

/-- BINIT for one lane (R172, R174): of several that name one bell only the lowest active one initialises it. -/
def binitLane (o : Op) (es : List Env) (s : State) (e : Env) : State × LaneRes :=
  let c := e.r.core
  let lid := e.a.lid
  let b := (e.a32 o).toNat
  let n := (e.b32 o).toNat
  let x := s.bell c lid b
  let first := (es.find? fun x => x.a32 o == e.a32 o).map (·.n)
  if e.l.nbells ≤ b ∨ 65535 < n ∨ first ≠ some e.n then (s, .fail 0x0A)
  else if n ≠ 0 then
    if x.live then (s, .fail 0x0A)
    else (s.setBell c lid b
      { Bell.none with live := true, count := n }, .of [])
  else if x.arr ≠ 0 ∨ x.pend ≠ 0 ∨ s.bellWaited c lid b then (s, .fail 0x0A)
  else (s.setBell c lid b { x with live := false }, .of [])

/-- BARV for one lane: an arrival, which is a release at core scope. -/
def barvLane (o : Op) (s : State) (e : Env) : State × LaneRes :=
  let c := e.r.core
  let lid := e.a.lid
  let b := (e.a32 o).toNat
  let x := s.bell c lid b
  if !s.bellOk c lid (e.a32 o) ∨ (e.b32 o).toNat ≠ x.count ∨ x.arr = x.count then (s, .fail 0x0A)
  else
    let s := ((s.flushLoads e.r).setBell c lid b { x with arr := x.arr + 1 }).bellCheck c lid b
    (s.released lid, .bool x.phase)

/-- BEXP for one lane. -/
def bexpLane (o : Op) (s : State) (e : Env) : State × LaneRes :=
  let c := e.r.core
  let lid := e.a.lid
  let b := (e.a32 o).toNat
  let n := (e.b32 o).toNat
  let x := s.bell c lid b
  if !s.bellOk c lid (e.a32 o) ∨ n = 0 ∨ 32767 < n ∨ 32767 < x.pend + n then (s, .fail 0x0A)
  else ((s.setBell c lid b { x with pend := x.pend + n }).bellCheck c lid b, .of [])

/-- BTEST for one lane; one that writes 1 acquires at core scope. -/
def btestLane (o : Op) (s : State) (e : Env) : State × LaneRes :=
  let x := s.bell e.r.core e.a.lid (e.a32 o).toNat
  if !s.bellOk e.r.core e.a.lid (e.a32 o) then (s, .fail 0x0A)
  else if x.phase ≠ (e.b32 o).getLsbD 0 then (s.acquireEpoch e.r.core e.a.lid e.tid 2, .bool true)
  else (s, .bool false)

/-- BINIT. -/
def execBinit (o : Op) (s : State) : Host.Outcome State Fault Refusal :=
  match s.cur with
  | none => .fault .noIssuer
  | some r =>
    let s := s.latch r o
    let es := s.envs r o
    let (s', rs) := foldLanes es (binitLane o es) s
    .next (s'.commit r o .v 0 rs)
/-- A BARV finds its bell's phase full but for a BEXP that may still complete it in this cycle (R174, R185). -/
def barvEarly (o : Op) (s : State) (e : Env) : Bool :=
  let x := s.bell e.r.core e.a.lid (e.a32 o).toNat
  s.bellOk e.r.core e.a.lid (e.a32 o) && (e.b32 o).toNat == x.count && x.arr == x.count && decide (x.pend < 0)

/-- BARV for one lane in the cycle of its issue: what it has done is kept by lane in `served`, its misuse there beyond 256; one
that comes early is decided in the next cycle. -/
def barvFirst (o : Op) (s : State) (e : Env) : State :=
  if barvEarly o s e then s
  else match barvLane o s e with
    | (s, x) => s.updAgent e.r fun a =>
      { a with served := Tab.set a.served (if x.trap.isSome then 256 + e.n else e.n) (x.vals.getD 0 0) }

/-- BARV for one lane once the cycle of its issue, `t`, is over: an early one belongs to the new phase where the phase completed
in that cycle, and is a misuse where it did not. -/
def barvThen (o : Op) (t : Nat) (s : State) (e : Env) : State × LaneRes :=
  let served := (s.agentD e.r).served
  match Tab.get? served e.n with
  | some v => (s, .word v)
  | none =>
    if (Tab.get? served (256 + e.n)).isNone && (s.bell e.r.core e.a.lid (e.a32 o).toNat).done == some t then barvLane o s e
    else (s, .fail 0x0A)

/-- BARV: D := the parity before the arrival. -/
def execBarv (o : Op) (s : State) : Host.Outcome State Fault Refusal :=
  match s.cur with
  | none => .fault .noIssuer
  | some r => match (s.agentD r).mark with
    | some t => seqOp o 1 (barvThen o t) s
    | none =>
      if (s.envs r o).any (barvEarly o s) then
        let s := s.latch r o
        let t := (s.envs r o).foldl (barvFirst o) s
        .next ((t.updAgent r fun a => { a with mark := some s.cycles }).waitFor r (.yield (s.cycles + 1)))
      else seqOp o 1 (barvLane o) s
/-- BTEST. -/
def execBtest (o : Op) (s : State) : Host.Outcome State Fault Refusal := seqOp o 1 (btestLane o) s
/-- BEXP. -/
def execBexp (o : Op) (s : State) : Host.Outcome State Fault Refusal := seqOp o 0 (bexpLane o) s

/-- BWAIT (R172, R173): lanes whose phase has completed have their result; while others wait, the drove waits. -/
def execBwait (o : Op) (s : State) : Host.Outcome State Fault Refusal :=
  match s.cur with
  | none => .fault .noIssuer
  | some r =>
    let s := s.latch r o
    let a := s.agentD r
    let es := s.envs r o
    let bad := es.filter fun e => !s.bellOk r.core a.lid (e.a32 o) && (Tab.get? a.served e.n).isNone
    let good := es.filter fun e => s.bellOk r.core a.lid (e.a32 o) || (Tab.get? a.served e.n).isSome
    let ready := fun (e : Env) => (Tab.get? a.served e.n).isSome
      || (s.bell r.core a.lid (e.a32 o).toNat).phase != (e.b32 o).getLsbD 0
    let waits := good.filter fun e => !ready e
    let now := good.filter ready
    let val := fun (e : Env) => (Tab.get? a.served e.n).getD
      ((s.bell r.core a.lid (e.a32 o).toNat).errLast.setWidth 32)
    if waits.isEmpty then
      let s := now.foldl (fun s e => s.acquireEpoch r.core a.lid e.tid 2) s
      .next (s.commit r o .v 1 (bad.map (fun e => (e.n, .fail 0x0A)) ++ now.map fun e => (e.n, .word (val e))))
    else
      let s := s.updAgent r fun a => { a with served := now.foldl (fun t e => Tab.set t e.n (val e)) a.served }
      let s := s.waitFor r (.bell (waits.map fun e => (e.n, (e.a32 o).toNat, (e.b32 o).getLsbD 0)))
      .next (s.trapLanes r (bad.map fun e => (e.n, 0x0A, 0, 0)))

/-! ### Chutes -/

def Chute.none : Chute := { live := false, closed := false, cap := 0, off := 0, rd := 0, wr := 0, allow := 0, own := [], closing := Option.none, pushes := (0, 0) }
def State.chute (s : State) (c lid n : Nat) : Chute := Tab.getD (s.res c lid).chutes n Chute.none
def State.setChute (s : State) (c lid n : Nat) (x : Chute) : State :=
  s.updRes c lid fun r => { r with chutes := Tab.set r.chutes n x }
/-- The entries that a chute holds. -/
def Chute.held (x : Chute) : Nat := x.cap - x.allow
/-- Those that a CHPOP of a cycle may take: an entry pushed in the same cycle is taken in the next (R185). -/
def Chute.ready (x : Chute) (now : Nat) : Nat := x.held - if x.pushes.1 = now then x.pushes.2 else 0
/-- Closed in a cycle: the pushes of the cycle of its CHCLOSE still come before it, so that no pop finds it closed before the
next (R185). -/
def Chute.shut (x : Chute) (now : Nat) : Bool := x.closed && x.closing != some now

/-- A live chute of the launch. -/
def State.chuteOk (s : State) (c lid : Nat) (n : Word) : Bool :=
  decide (n.toNat < (s.launchD lid).nchutes) && (s.chute c lid n.toNat).live

/-- CHINIT for one lane, the lowest-numbered active one (R176, R177). -/
def chinitLane (o : Op) (first : Nat) (s : State) (e : Env) : State × LaneRes :=
  let c := e.r.core
  let lid := e.a.lid
  let n := (e.a32 o).toNat
  let off := (e.b32 o).toNat
  let cap := (e.c32 o).toNat
  let x := s.chute c lid n
  if e.n ≠ first ∨ e.l.nchutes ≤ n ∨ (x.live ∧ (!x.closed ∨ x.held ≠ 0)) ∨ cap = 0 ∨ 1024 < cap ∨ off % 4 ≠ 0
      ∨ e.l.scratch < off + 4 * cap then (s, .fail 0x0B)
  else (s.setChute c lid n { Chute.none with live := true, cap, off, allow := cap }, .of [])

/-- CHINIT. -/
def execChinit (o : Op) (s : State) : Host.Outcome State Fault Refusal :=
  match s.cur with
  | none => .fault .noIssuer
  | some r =>
    let s := s.latch r o
    let es := s.envs r o
    let first := match es with
      | e :: _ => e.n
      | [] => 0
    let (s', rs) := foldLanes es (chinitLane o first) s
    .next (s'.commit r o .v 0 rs)

/-- The lanes of an instruction that name one chute. -/
def sameChute (o : Op) (es : List Env) (e : Env) : Nat := (es.filter fun x => x.a32 o == e.a32 o).length

/-- One entry is appended (R176). -/
def State.pushHandle (s : State) (c lid n : Nat) (v : Word) : State :=
  let x := s.chute c lid n
  let i := x.wr % x.cap
  let s := s.scratchWrite c lid (x.off + 4 * i) (bytes32 v)
  s.setChute c lid n { x with
    wr := x.wr + 1, allow := x.allow - 1, own := i :: x.own.filter (· != i)
    pushes := (s.cycles, (if x.pushes.1 = s.cycles then x.pushes.2 else 0) + 1) }

/-- The oldest entry is taken; one whose place other instructions have reached, or whose word is uncorrectable, is a free value
(R175; R363 does not name CHPOP: log 52). -/
def State.popHandle (s : State) (c lid n : Nat) : State × Word :=
  let x := s.chute c lid n
  let i := x.rd % x.cap
  let v := if x.own.contains i && ((s.res c lid).badAt 0 (x.off + 4 * i) 4).isNone then word32 (s.scratchRead c lid (x.off + 4 * i) 4) else Config.undefHandle s.tick x.rd
  (s.setChute c lid n { x with rd := x.rd + 1, allow := x.allow + 1 }, v)

/-- A misuse of CHPUSH by one lane (R177). -/
def pushBad (o : Op) (s : State) (es : List Env) (e : Env) : Bool :=
  let x := s.chute e.r.core e.a.lid (e.a32 o).toNat
  !s.chuteOk e.r.core e.a.lid (e.a32 o) || decide (0xFFFFFFFD < (e.b32 o).toNat) || x.shut s.cycles
    || decide (x.cap < sameChute o es e)

/-- The chutes that some lanes name, with how many lanes name each. -/
def chuteNeeds (o : Op) (es : List Env) : List (Nat × Nat) :=
  ((es.map fun e => ((e.a32 o).toNat, sameChute o es e))).eraseDups

/-- CHPUSH (R176): waits until every chute it names has room for the lanes that name it. -/
def execChpush (o : Op) (s : State) : Host.Outcome State Fault Refusal :=
  match s.cur with
  | none => .fault .noIssuer
  | some r =>
    let s := s.latch r o
    let a := s.agentD r
    let es := s.envs r o
    let bad := es.filter (pushBad o s es)
    let good := es.filter fun e => !pushBad o s es e
    let room := good.all fun e => decide (sameChute o good e ≤ (s.chute r.core a.lid (e.a32 o).toNat).allow)
    if room then
      let (s', rs) := foldLanes good (fun s e =>
        ((s.pushHandle r.core a.lid (e.a32 o).toNat (e.b32 o)).released a.lid, .of [])) (s.flushLoads r)
      .next (s'.commit r o .v 0 (bad.map (fun e => (e.n, .fail 0x0B)) ++ rs))
    else .next ((s.waitFor r (.chute true (chuteNeeds o good))).trapLanes r (bad.map fun e => (e.n, 0x0B, 0, 0)))

/-- CHPOP and CHTRY for one lane: the oldest entry, or the value for none. -/
def popLane (o : Op) (none_ : Word) (s : State) (e : Env) : State × LaneRes :=
  let n := (e.a32 o).toNat
  if (s.chute e.r.core e.a.lid n).held = 0 then (s, .word none_)
  else
    let (s, v) := s.popHandle e.r.core e.a.lid n
    (s.acquireEpoch e.r.core e.a.lid e.tid 2, .word v)

/-- A misuse of CHPOP by one lane (R177). -/
def popBad (o : Op) (s : State) (es : List Env) (e : Env) : Bool :=
  !s.chuteOk e.r.core e.a.lid (e.a32 o)
    || decide ((s.chute e.r.core e.a.lid (e.a32 o).toNat).cap < sameChute o es e)

/-- CHPOP (R176): waits until each chute holds an entry for every lane that names it, or is closed. -/
def execChpop (o : Op) (s : State) : Host.Outcome State Fault Refusal :=
  match s.cur with
  | none => .fault .noIssuer
  | some r =>
    let s := s.latch r o
    let a := s.agentD r
    let es := s.envs r o
    let bad := es.filter (popBad o s es)
    let good := es.filter fun e => !popBad o s es e
    let ready := good.all fun e =>
      let x := s.chute r.core a.lid (e.a32 o).toNat
      x.shut s.cycles || decide (sameChute o good e ≤ x.ready s.cycles)
    if ready then
      let (s', rs) := foldLanes good (popLane o 0xFFFFFFFF) s
      .next (s'.commit r o .v 1 (bad.map (fun e => (e.n, .fail 0x0B)) ++ rs))
    else .next ((s.waitFor r (.chute false (chuteNeeds o good))).trapLanes r (bad.map fun e => (e.n, 0x0B, 0, 0)))

/-- CHTRY for one lane: 0xFFFF_FFFE where an open chute holds no entry, 0xFFFF_FFFF where a closed one does. -/
def chtryLane (o : Op) (s : State) (e : Env) : State × LaneRes :=
  if !s.chuteOk e.r.core e.a.lid (e.a32 o) then (s, .fail 0x0B)
  else popLane o (if (s.chute e.r.core e.a.lid (e.a32 o).toNat).shut s.cycles then 0xFFFFFFFF else 0xFFFFFFFE) s e

/-- CHTRY (R176). -/
def execChtry (o : Op) (s : State) : Host.Outcome State Fault Refusal := seqOp o 1 (chtryLane o) s

/-- CHCLOSE for one lane. -/
def chcloseLane (o : Op) (s : State) (e : Env) : State × LaneRes :=
  let n := (e.a32 o).toNat
  if !s.chuteOk e.r.core e.a.lid (e.a32 o) then (s, .fail 0x0B)
  else
    let x := s.chute e.r.core e.a.lid n
    (s.setChute e.r.core e.a.lid n { x with closed := true, closing := if x.closed then x.closing else some s.cycles }, .of [])

/-- CHCLOSE (R176). -/
def execChclose (o : Op) (s : State) : Host.Outcome State Fault Refusal := seqOp o 0 (chcloseLane o) s

/-- A wait of an agent may have ended: it issues its instruction again. -/
def State.retry (s : State) (r : AgentRef) (p : Wait → Bool) : State :=
  match s.agent? r with
  | some a => match a.wait with
    | some w =>
      if p w && !(s.core r.core).frozen then s.turn (s.issueRank r) fun s => { s.wake r with cur := some r } else s
    | none => s
  | none => s

/-- What a CHPUSH or a CHPOP of a launch waits for is there. -/
def State.chuteReady (s : State) (c lid : Nat) (push : Bool) (needs : List (Nat × Nat)) : Bool :=
  needs.all fun g =>
    let x := s.chute c lid g.1
    if push then decide (g.2 ≤ x.allow) else x.shut s.cycles || decide (g.2 ≤ x.ready s.cycles)

/-- An agent that waits at a chute stands behind another whose wait is over (R227). -/
def State.chuteBehind (s : State) (r : AgentRef) (lid : Nat) (push : Bool) (needs : List (Nat × Nat)) : Bool :=
  (s.core r.core).agents.any fun e => e.2.lid == lid && match e.2.wait with
    | some (.chute p ns) => p == push && ns.any (fun g => needs.any fun h => h.1 == g.1)
        && decide (s.issueRank { core := r.core, id := e.1 } < s.issueRank r) && s.chuteReady r.core lid p ns
    | _ => false

/-- CHUTE_WAIT_SATISFIED (R176): a waiting CHPUSH or CHPOP is issued again, and completes if it can; of several at one chute
that could, the first in the order of R227. -/
def execChuteWaitSatisfied (core ag : Nat) (s : State) : Host.Outcome State Fault Refusal :=
  let r : AgentRef := { core, id := ag }
  .next (match s.agent? r with
    | some a => match a.wait with
      | some (.chute push needs) =>
        if s.chuteBehind r a.lid push needs then s else s.retry r (fun _ => true)
      | _ => s
    | none => s)

/-! ### Copies -/

/-- The ticket of a copy (R182). -/
def copyTicket (slot : Nat) (x : Copy) : Word := BitVec.ofNat 32 (slot + 512 * (x.gen % 2 ^ 23))

/-- A copy has ended: its slot is free, and its bell, if one is to be told now, counts the completion. -/
def State.endCopy (s : State) (c slot : Nat) (bell : Option Nat) (failed : Bool) (cause : BitVec 8) : State :=
  match Tab.get? (s.core c).copies slot with
  | some x =>
    let s := s.updCore c fun k =>
      { k with copies := Tab.set k.copies slot { x with live := false, landed := true, failed, cause, held := false } }
    let s := s.wakeCore c .copySlot
    match bell with
    | some b => s.bellCompletion c x.lid b failed
    | none => s
  | none => s

end Sys2Proof.Machine
end

