-- ==== Sys2Proof/Machine/Trans.lean ====
section
/-! DEFINITION. The correctly rounded functions of R106: square roots by an integer root, the others by evaluation in
fixed point between two bounds. Where the bounds round to different values the result is the free value
`Config.hardCase` (DESIGN CHOICE, log 20). -/

namespace Sys2Proof.Machine

/-- Fraction bits of the fixed point. -/
def fixP : Nat := 896
/-- floor(π × 2^fixP) and floor(ln 2 × 2^fixP). -/
def piFix : Nat := 0x3243f6a8885a308d313198a2e03707344a4093822299f31d0082efa98ec4e6c89452821e638d01377be5466cf34e90c6cc0ac29b7c97c50dd3f84d5b5b54709179216d5d98979fb1bd1310ba698dfb5ac2ffd72dbd01adfb7b8e1afed6a267e96ba7c9045f12c7f9924a19947b3916cf7
def ln2Fix : Nat := 0xb17217f7d1cf79abc9e3b39803f2f6af40f343267298b62d8a0d175b8baafa2be7b876206debac98559552fb4afa1b10ed2eae35c138214427573b291169b8253e96ca16224ae8c51acbda11317c387eb9ea9bc3b136603b256fa0ec7657f74b72ce87b19d6548caf5dfa6bd38303248

/-- The integer square root of a number below 4^fuel. -/
def isqrt (n : Nat) : Nat → Nat → Nat
  | 0, r => r
  | k + 1, r => isqrt n k (if (r + 2 ^ k) * (r + 2 ^ k) ≤ n then r + 2 ^ k else r)

/-- √(n ÷ d): exactly, or a value that rounds as it does to any format whose grid and midpoints are multiples of
2^−200. -/
def sqrtVal (n d : Nat) : Val :=
  let x := n * 2 ^ 400 / d
  let r := isqrt x (Nat.log2 x / 2 + 1) 0
  if r * r * d = n * 2 ^ 400 then .fin false r (2 ^ 200) else .fin false (2 * r + 1) (2 ^ 201)

/-- The terms of a series, added: each is the last one times x and divided by a number of its own. -/
def seriesSum (x : Nat) (den : Nat → Nat) (step : Nat) (alt : Bool) : Nat → Nat → Nat → Int → Int
  | 0, _, _, acc => acc
  | k + 1, i, t, acc =>
    let t' := t * x / 2 ^ fixP / den i
    seriesSum x den step alt k (i + step) t' (if alt && (i / step) % 2 == 0 then acc - t' else acc + t')

/-- e^x for x in [0, 1). -/
def expFix (x : Nat) : Int := seriesSum x (fun i => i + 1) 1 false 200 0 (2 ^ fixP) (2 ^ fixP)
/-- sin x and cos x for x in [0, 2). -/
def sinFix (x : Nat) : Int :=
  seriesSum (x * x / 2 ^ fixP) (fun i => (2 * i + 2) * (2 * i + 3)) 1 true 120 0 x x
def cosFix (x : Nat) : Int :=
  seriesSum (x * x / 2 ^ fixP) (fun i => (2 * i + 1) * (2 * i + 2)) 1 true 120 0 (2 ^ fixP) (2 ^ fixP)

/-- The sum of z^(2i+1) ÷ (2i+1), which is atanh z; `t` is the power. -/
def atanhFix (z2 : Nat) : Nat → Nat → Nat → Nat → Nat
  | 0, _, _, acc => acc
  | k + 1, i, t, acc => atanhFix z2 k (i + 1) (t * z2 / 2 ^ fixP) (acc + t / (2 * i + 1))

/-- log2 of n ÷ d in [1, 2). -/
def log2Fix (n d : Nat) : Nat :=
  let z := (n - d) * 2 ^ fixP / (n + d)
  2 * atanhFix (z * z / 2 ^ fixP) 300 0 z 0 * 2 ^ fixP / ln2Fix

/-- The rounding to FP32 of an inexact value known to within 2^128 units of its fixed-point place, times 2^e. -/
def roundBetween (rm : Nat) (x : Int) (e : Int) (hard : Word) : Word × Word :=
  let at_ := fun (y : Int) => arith32 rm false
    ((Val.fin (decide (y < 0)) (2 * y.natAbs + 1) (2 ^ (fixP + 1))).scale e, 0)
  let lo := at_ (x - 2 ^ 128)
  let hi := at_ (x + 2 ^ 128)
  if lo = hi then lo else (hard, fNX)

/-- An invalid operation, or an infinity by DZ. -/
def invalid32 : Word × Word := (0x7FC00000, fNV)
def inf32 (neg : Bool) : Word := if neg then 0xFF800000 else 0x7F800000
def zero32 (neg : Bool) : Word := if neg then 0x80000000 else 0
def nan32 : Word × Word := (0x7FC00000, 0)

/-- FRCP (R106). -/
def frcp (rm : Nat) (x : Word) : Word × Word := arith32 rm false ((Val.fin false 1 1).div (f32 x))

/-- FSQRT (R106). -/
def fsqrt (rm : Nat) (x : Word) : Word × Word :=
  match f32 x with
  | .nan => nan32
  | .inf s => if s then invalid32 else (inf32 false, 0)
  | .fin s n d => if n = 0 then (zero32 s, 0) else if s then invalid32 else arith32 rm false (sqrtVal n d, 0)

/-- FRSQ (R106). -/
def frsq (rm : Nat) (x : Word) : Word × Word :=
  match f32 x with
  | .nan => nan32
  | .inf s => if s then invalid32 else (0, 0)
  | .fin s n d => if n = 0 then (inf32 s, fDZ) else if s then invalid32 else arith32 rm false (sqrtVal d n, 0)

/-- FEX2 (R106). Beyond ±200 a finite operand gives the same rounded extreme as ±200 does. -/
def fex2 (rm : Nat) (x : Word) : Word × Word :=
  match f32 x with
  | .nan => nan32
  | .inf s => (if s then 0 else inf32 false, 0)
  | .fin s n d =>
    let i : Int := (Val.num s n).ediv d
    let f := (Val.num s n).emod d
    if i < -200 then arith32 rm false (.dyadic false 1 (-200), 0)
    else if 200 < i then arith32 rm false (.dyadic false 1 200, 0)
    else if f = 0 then arith32 rm false (.dyadic false 1 i, 0)
    else roundBetween rm (expFix (f.toNat * ln2Fix / d)) i (Config.hardCase 0x49 x)

/-- FLG2 (R106). -/
def flg2 (rm : Nat) (x : Word) : Word × Word :=
  match f32 x with
  | .nan => nan32
  | .inf s => if s then invalid32 else (inf32 false, 0)
  | .fin s n d =>
    if n = 0 then (inf32 true, fDZ)
    else if s then invalid32
    else
      let e := floorLog2 n d
      let (n, d) := if 0 ≤ e then (n, d * 2 ^ e.toNat) else (n * 2 ^ (-e).toNat, d)
      if n = d then arith32 rm false (.ofInt e, 0)
      else roundBetween rm (e * 2 ^ fixP + log2Fix n d) 0 (Config.hardCase 0x4A x)

/-- The sine of |x| by its quarter turn, where `q` adds quarter turns. -/
def sinTurn (n d q : Nat) : Int :=
  let x := n * 2 ^ fixP / d
  let k := x / (piFix / 2)
  let r := x % (piFix / 2)
  match (k + q) % 4 with
  | 0 => sinFix r
  | 1 => cosFix r
  | 2 => -sinFix r
  | _ => -cosFix r

/-- FSIN (R106). -/
def fsin (rm : Nat) (x : Word) : Word × Word :=
  match f32 x with
  | .nan => nan32
  | .inf _ => invalid32
  | .fin s n d =>
    if n = 0 then (zero32 s, 0)
    else roundBetween rm (if s then -sinTurn n d 0 else sinTurn n d 0) 0 (Config.hardCase 0x4B x)

/-- FCOS (R106). -/
def fcos (rm : Nat) (x : Word) : Word × Word :=
  match f32 x with
  | .nan => nan32
  | .inf _ => invalid32
  | .fin _ n d => if n = 0 then (0x3F800000, 0) else roundBetween rm (sinTurn n d 1) 0 (Config.hardCase 0x4C x)

end Sys2Proof.Machine
end

