-- ==== Sys2Proof/Machine/Access.lean ====
section
/-! DEFINITION. An access of a thread or shepherd on path V (R150, R154, R163 to R166, R238 to R249, R316), the checks
of a scratchpad address (R151, R152), and race detection (R252 to R257). -/

namespace Sys2Proof.Machine

/-! ### Scratchpad addresses -/

/-- The core that a scratchpad address names, and its offset (R151); the fields are checked as R152 orders them. -/
def nbCore (c : Nat) (a : Word) : Nat := chipOf c * 40 + a.toNat / 2 ^ 24 % 16 * 7 + a.toNat / 2 ^ 20 % 16
def scrOffset (a : Word) : Nat := a.toNat % 2 ^ 20

/-- The checks of R152 on an access of n bytes; a neighbour address passes only where `nb` says so. The core and the
offset, or the cause. -/
def State.scrCheck (s : State) (c lid : Nat) (nb : Bool) (a : Word) (n : Nat) : Except (BitVec 8) (Nat × Nat) :=
  let off := scrOffset a
  let isNb := a.getLsbD 28
  let row := a.toNat / 2 ^ 24 % 16
  let col := a.toNat / 2 ^ 20 % 16
  let core := if isNb then nbCore c a else c
  if off % n ≠ 0 then .error 4
  else if a.toNat / 2 ^ 29 ≠ 0 ∨ (!isNb ∧ (row ≠ 0 ∨ col ≠ 0)) ∨ (isNb ∧ (!nb ∨ !holdsCore row col)) then .error 2
  else if (s.launchD lid).scratch < off + n ∨ (Tab.get? (s.core core).res lid).isNone then .error 7
  else .ok (core, off)

/-! ### Acquire and release -/

/-- The far cache's copy of a line goes, and those on their way to it are not kept (R248, R250). -/
def State.farDrop (s : State) (l : Loc) : State :=
  let line := fun (k : Nat) => k / 128 == l.key / 128
  let s := s.unkeep fun x => line x.loc.key
  { s with fabric := { s.fabric with far := s.fabric.far.filter fun f => !line f.1 } }

/-- An acquire at a scope (R242, R247, R253): from chip on, the core's clean L1 lines go; at sys the far cache too. -/
def State.acquire (s : State) (c lid tid scope : Nat) : State :=
  let s := s.acquireEpoch c lid tid scope
  let s := if 3 ≤ scope then s.l1Clear c else s
  if scope = 5 then s.farClear else s

/-- A release at a scope that performs now. From chip on, the core's flags merge at the hub before (R45). -/
def State.releaseNow (s : State) (c lid scope : Nat) : State :=
  (if 3 ≤ scope then s.mergeFlags c lid else s).released lid

/-! ### One lane's access -/

/-- Who makes a lane's access, as race detection names it. -/
def Env.racer (e : Env) : Racer := { core := e.r.core, lid := e.a.lid, tid := e.tid, shep := e.a.shep, pc := e.a.pc }
/-- The thread of a lane, as a core's accesses name it. -/
def Env.owner (e : Env) : Option Nat := if e.a.shep then none else some e.tid

/-- The log mode of race detection is in force (R252). -/
def Env.logMode (e : Env) (s : State) : Bool := ((s.launchD e.a.lid).racectlAt s.cycles).getLsbD 0

/-- The check of race detection on a lane's access to a place (R252), whose instruction began in the state `e.s`. -/
def State.raceAt (s : State) (e : Env) (a : DWord) (l : Loc) (n : Nat) (write atomic acq : Bool) (scope : Nat) :
    State × Bool :=
  s.raced e.racer
    { va := a, write, atomic, acq, scope, log := e.logMode s, since := (e.s.core e.r.core).nextOut } l n

/-- What came of a lane's access: a result, a request to another package, or a result that comes later by itself. -/
inductive MemOut where
  | done (r : LaneRes)
  | sent (idx : Nat)
  | late (key : Nat)
  deriving DecidableEq, Repr, Inhabited

def MemOut.fault (cause : BitVec 8) (a : DWord) (acc : Acc) : MemOut :=
  .done { LaneRes.of [] with trap := some (cause, a, acc.code) }

/-- The bytes of a line homed elsewhere as this package holds them for a scope (R247), if it does. What comes from the far
cache replaces what the L1 held of its sectors, which move whole (R236). -/
def State.remoteHeld (s : State) (c : Nat) (l : Loc) (n scope : Nat) : Option (State × List Byte) :=
  let key := l.key
  let first := key / 32 * 32
  let m := (key - first + n + 31) / 32 * 32
  let l1 := (s.core c).l1
  let far := s.fabric.far
  if scope ≤ 2 ∧ ((List.range n).all fun i => (Tab.get? l1 (key + i)).isSome) ∧ Config.l1Holds s.tick (key / 128) then
    some (s, listGen (fun i => ((Tab.get? l1 (key + i)).getD default).val) n)
  else if scope ≤ 4 ∧ ((List.range m).all fun i => (Tab.get? far (first + i)).isSome) ∧ Config.farHolds s.tick (key / 128) then
    let bs := listGen (fun i => (Tab.get? far (first + i)).getD 0) m
    let s := s.l1Drop c fun k => decide (first ≤ k) && decide (k < first + m)
    some (s.updCore c fun k => { k with l1 := l1Fill k.l1 first bs }, (bs.drop (key - first)).take n)
  else none

/-- The request that a lane sends. -/
def Env.request (e : Env) (s : State) (kind : ReqKind) (path : Nat) (l : Loc) (scope : Nat) (rel acq : Bool) : Remote :=
  let (pkg, space, va, leaf64, mode) := match l with
    | .remote pkg space va leaf64 mode => (pkg, space, va, leaf64, mode)
    | _ => (0, 0, 0, false, 0)
  { core := e.r.core, ag := e.r.id, lane := e.n, lid := e.a.lid, tid := e.tid, kind, pkg, va, mode, leaf64, scope,
    sent := s.nanos, again := false, pending := false, parked := false, noticed := false, hops := 0, word := e.a.pc, rel, acq,
    path, space, keep := true, packets := [] }

/-- Where an access of a lane on path V leads, if it passes translation. -/
def State.placeOf (s : State) (e : Env) (a : DWord) (acc : Acc) : Option Loc :=
  match (s.xlate (some e.r.core) 0 e.l.part a acc).2 with
  | .ok l => some l
  | .error _ => none

/-- A load wider than its core comes after its core's stores to its bytes: it returns no value that other readers of its scope may
not yet see (R245). -/
def loadHeld (n scope : Nat) (addr : Env → DWord) (s : State) (e : Env) : Option (List (Nat × Nat)) :=
  match s.placeOf e (addr e) Acc.read with
  | some l => if 3 ≤ scope ∧ s.storeOver e.r.core l.key n then some [(l.key, n)] else none
  | none => none

/-- A load of device or host memory that passed its checks. One without an acquire takes its value later (R241), except under
the trap mode of race detection, which is checked before the load has any effect (R255, R256). -/
def State.loadLocal (s : State) (e : Env) (a : DWord) (l : Loc) (n scope : Nat) (acq sext keep : Bool) (dst : List Reg) :
    State × MemOut :=
  let c := e.r.core
  let x : Late :=
    { id := (s.core c).nextOut, lid := e.a.lid, tid := e.owner, ag := e.r.id, pc := e.a.pc, va := a, log := e.l.race,
      lane := e.n, loc := l, n, sext, scope, keep, dst, arg := false }
  if acq || (e.l.race && !e.logMode s) then
    let s := s.takeOwn c x.lid x.tid l.key n
    let s := if acq then s.acquire c e.a.lid e.tid scope else s
    let (s, bs) := s.readL1 c l n (!keep || decide (3 ≤ scope)) keep
    (s, .done (.of (loadWords n sext bs)))
  else
    (s.updCore c fun k => { k with late := k.late ++ [x], nextOut := k.nextOut + 1 }, .late (loadKey x.id))

/-- A load on path V (R150, R154, R155). -/
def State.loadV (s : State) (e : Env) (a : DWord) (n scope : Nat) (acq sext nc : Bool) (dst : List Reg) :
    State × MemOut :=
  let c := e.r.core
  let fault := fun (s : State) (k : BitVec 8) => (s, MemOut.fault k a Acc.read)
  if a.toNat % n ≠ 0 then fault s 4
  else match s.xlate (some c) 0 e.l.part a Acc.read with
    | (s, .error k) => fault s k
    | (s, .ok (.io pa)) =>
      if n = 16 then fault s 7
      else
        let s := (s.flushLoads e.r).emit (.ioLoad pa n)
        let bs := s.hubBytes (.io pa) n
        (if acq then s.acquire c e.a.lid e.tid scope else s, .done (.of (loadWords n sext bs)))
    | (s, .ok (.remote pkg space va leaf64 mode)) =>
      let l : Loc := .remote pkg space va leaf64 mode
      let drop := acq && decide (3 ≤ scope) && decide (scope ≤ 4)
      match (if mode = 0 then none else (if drop then s.l1Clear c else s).remoteHeld c l n scope) with
      | some (s, bs) => (if acq then s.acquire c e.a.lid e.tid scope else s, .done (.of (loadWords n sext bs)))
      | none =>
        let (s, idx) := s.sendRemote (e.request s (.load n sext dst) 0 l scope false acq)
        (s, .sent idx)
    | (s, .ok l) =>
      if l.bad s n then fault s 0x10
      else if acq || !e.logMode s then match s.raceAt e a l n false false acq scope with
        | (s, true) => fault s 0x0F
        | (s, false) => s.loadLocal e a l n scope acq sext (!nc) dst
      else s.loadLocal e a l n scope acq sext (!nc) dst

/-- A store waits for its thread's release fence, unless it only joins the stores behind it; one to another package or to a
device that releases, for every store before it; one to a device, for every release before it (R169, R242, R327). -/
def storeHeld (rel : Bool) (addr : Env → DWord) (s : State) (e : Env) : Option (List (Nat × Nat)) :=
  allStores (match s.placeOf e (addr e) Acc.write with
    | some (.io _) => rel && s.storesBefore e.r || (s.core e.r.core).outst.any (·.rel)
    | some (.remote _ _ _ _ _) =>
      s.fencePending e || rel && (s.storesBefore e.r || (s.core e.r.core).settledAt == some s.cycles)
    | _ => false)

/-- A store on path V (R150, R154, R155). -/
def State.storeV (s : State) (e : Env) (a : DWord) (bs : List Byte) (scope : Nat) (rel : Bool) : State × MemOut :=
  let c := e.r.core
  let n := bs.length
  let fault := fun (s : State) (k : BitVec 8) => (s, MemOut.fault k a Acc.write)
  if a.toNat % n ≠ 0 then fault s 4
  else match s.xlate (some c) 0 e.l.part a Acc.write with
    | (s, .error k) => fault s k
    | (s, .ok (.io pa)) =>
      if n = 16 then fault s 7
      else
        let s := (s.flushLoads e.r).emit (.ioStore pa bs)
        (if rel then s.releaseNow c e.a.lid scope else s, .done (.of []))
    | (s, .ok (.remote pkg space va leaf64 mode)) =>
      let (s, idx) := (s.flushLoads e.r).sendRemote
        (e.request s (.store bs) 0 (.remote pkg space va leaf64 mode) scope rel false)
      (s, .sent idx)
    | (s, .ok l) =>
      match s.raceAt e a l n true false false scope with
      | (s, true) => fault s 0x0F
      | (s, false) =>
        let wide := decide (3 ≤ scope)
        let s := if wide then s else (s.flushLoads e.r).raceWrote e.racer l n scope false
        let la := s.launchD e.a.lid
        let rec_ := match l with
          | .dev pa => if la.race && wide && !s.hostBiased pa then some (e.racer.shadow la pa n scope false) else none
          | _ => none
        let s := s.coreStore c e.a.lid e.owner l bs scope (rel && wide) rec_
        (if rel && !wide then s.released e.a.lid else s, .done (.of []))

/-- What an atomic writes for the old value x (R164); `w` is the width in bits. Code 14 is compare and swap. -/
def atomNew (op w : Nat) (x b c : Nat) : Nat :=
  let sg := fun (v : Nat) => if 2 ^ (w - 1) ≤ v then (v : Int) - 2 ^ w else v
  match op with
  | 0 => (x + b) % 2 ^ w
  | 1 => min x b
  | 2 => max x b
  | 3 => if sg b < sg x then b else x
  | 4 => if sg x < sg b then b else x
  | 5 => x &&& b
  | 6 => x ||| b
  | 7 => x ^^^ b
  | 8 => b
  | 9 => (arith32 0 false ((f32 (BitVec.ofNat 32 x)).add false (f32 (BitVec.ofNat 32 b)))).1.toNat
  | 10 => pickCode false 0x7FC00000 (f32 (BitVec.ofNat 32 x)) (f32 (BitVec.ofNat 32 b)) x b
  | 11 => pickCode true 0x7FC00000 (f32 (BitVec.ofNat 32 x)) (f32 (BitVec.ofNat 32 b)) x b
  | 12 => if b ≤ x then 0 else x + 1
  | 13 => if x = 0 ∨ b < x then b else x - 1
  | _ => if x = b then c else x

/-- The words of an atomic's old value. -/
def valWords (n v : Nat) : List Word := wordsOf (n / 4) (bytesLE n v)

/-- The lines that the contention predictor of the hub holds (R249). -/
def grantSize : Nat := 4096

/-- A line of this package is granted to a core for an atomic (R249): unless it is marked contended, the grant moves
there, and two moves within 1,024 cycles mark the line for 65,536. A line that the full predictor does not hold counts as
not contended. -/
def State.grantLine (s : State) (c pa : Nat) : State :=
  let line := pa / 128
  let old := Tab.get? s.fabric.grants line
  let g := old.getD { core := c, held := true, moves := [], mark := none }
  let marked : Bool := match g.mark with
    | some t => decide (s.cycles < t)
    | none => false
  if marked ∨ s.hostBiased pa ∨ (old.isNone ∧ grantSize ≤ s.fabric.grants.length) then s
  else
    let moves := if g.core = c then g.moves
      else g.moves.filter (fun t => decide (s.cycles ≤ t + 1024)) ++ [s.cycles]
    let g : Grant := if moves.length < 2 then { core := c, held := true, moves, mark := none }
      else { core := c, held := false, moves := [], mark := some (s.cycles + 65536) }
    { s with fabric := { s.fabric with grants := Tab.set s.fabric.grants line g } }

/-- A line is granted to a core for its atomics, or, of the host's memory or of a frame in host bias, owned by it (R249, R327). -/
def State.atomNear (s : State) (c : Nat) (l : Loc) : Bool :=
  match l with
  | .dev pa => s.hostBiased pa || match Tab.get? s.fabric.grants (pa / 128) with
    | some g => g.held && g.core == c
    | none => false
  | _ => true

/-- An atomic of a thread at its coherence point (R249): the bytes of the location are read and written in one step. Where it
executes in the core's L1, the line's sector is there after it; else the L1's copy of the sector is gone (R236). -/
def State.atomHere (s : State) (c lid : Nat) (tid : Option Nat) (l : Loc) (n op : Nat) (b x : DWord) : State × Nat :=
  let s := (s.leaveStale c lid tid l n).argWrite l.key n
  let old := ofBytesLE (s.hubBytes l n)
  let new := bytesLE n (atomNew op (8 * n) old (b.toNat % 2 ^ (8 * n)) (x.toNat % 2 ^ (8 * n)))
  let s := (s.approach (some c) l n).hubPut l new
  let s := match l with
    | .dev pa => s.wrote pa n
    | _ => s
  let first := l.key / 32 * 32
  let s := s.l1Drop c fun k => k / 32 * 32 == first
  (if s.atomNear c l then
      s.updCore c fun k => { k with l1 := l1Fill k.l1 first (s.below (l.at_ ((first : Int) - l.key)) 32) }
    else s, old)

/-- An atomic waits for its thread's release fence, where it releases beyond its core for every store before it, and for the
core's stores to its bytes (R169, R240, R242). -/
def atomHeld (n scope : Nat) (rel : Bool) (addr : Env → DWord) (s : State) (e : Env) : Option (List (Nat × Nat)) :=
  let before := rel && (s.storesBefore e.r || (s.core e.r.core).settledAt == some s.cycles)
  if s.fencePending e then some []
  else match s.placeOf e (addr e) Acc.rmw with
    | some (.remote _ _ _ _ _) => allStores before
    | some l =>
      if before ∧ 3 ≤ scope then some [] else if s.storeOver e.r.core l.key n then some [(l.key, n)] else none
    | none => none

/-- An atomic on path V (R163 to R166, R248, R249). `op` 14 is compare and swap, with b the compared and x the new value. -/
def State.atomV (s : State) (e : Env) (a : DWord) (n op : Nat) (b x : DWord) (scope : Nat) (acq rel ret : Bool)
    (dst : List Reg) : State × MemOut :=
  let c := e.r.core
  let fault := fun (s : State) (k : BitVec 8) => (s, MemOut.fault k a Acc.rmw)
  if a.toNat % n ≠ 0 then fault s 4
  else match s.xlate (some c) 0 e.l.part a Acc.rmw with
    | (s, .error k) => fault s k
    | (s, .ok (.io _)) => fault s 7
    | (s, .ok (.remote pkg space va leaf64 mode)) =>
      let l : Loc := .remote pkg space va leaf64 mode
      let s := ((s.flushLoads e.r).farDrop l).l1Drop c fun k => k / 128 == l.key / 128
      let (s, idx) := s.sendRemote (e.request s (.atomic op (n == 8) ret b x dst) 0 l scope rel acq)
      (s, .sent idx)
    | (s, .ok l) =>
      if l.bad s n then fault s 0x10
      else match s.raceAt e a l n true true acq scope with
      | (s, true) => fault s 0x0F
      | (s, false) =>
          let s := (s.flushLoads e.r).takeLates c fun y => y.meets l.key n
          let s := match l with
            | .dev pa => s.grantLine c pa
            | _ => s
          let (s, old) := s.atomHere c e.a.lid e.owner l n op b x
          let s := s.raceWrote e.racer l n scope true
          let s := if rel then s.releaseNow c e.a.lid scope else s
          let s := if acq then s.acquire c e.a.lid e.tid scope else s
          (s, .done (.of (if ret then valWords n old else [])))

/-! ### Instructions of lanes that access memory -/

/-- Fold an access over the lanes in ascending order (R154): results, what the other lanes' results await, and the state. -/
def foldMem (es : List Env) (f : State → Env → State × MemOut) (s : State) :
    State × List (Nat × LaneRes) × List Nat :=
  es.foldl (fun (x : State × List (Nat × LaneRes) × List Nat) e =>
    match f x.1 e with
    | (s, .done r) => (s, x.2.1 ++ [(e.n, r)], x.2.2)
    | (s, .sent i) | (s, .late i) => (s, x.2.1, x.2.2 ++ [i])) (s, [], [])

/-- A key that names a request to another package, and not a result that comes by itself. -/
def isRequest (key : Nat) : Bool := decide (key < 2 ^ 64)

/-- The frame that a lane's address reaches is changing its bias. -/
def State.biasHeld (s : State) (e : Env) (a : DWord) : Bool := s.fabric.biasJob.isSome && s.pageHeld e.l.part a

/-- The meaning of an instruction whose lanes access memory at addresses: it waits while a frame changes its bias; while
requests to other packages are unanswered, its agent issues nothing more (R316). -/
def memOp (o : Op) (k : Nat) (addr : Env → Option DWord) (f : State → Env → State × MemOut) (s : State) :
    Host.Outcome State Fault Refusal :=
  agentOp (fun r s =>
    let s := s.latch r o
    let es := s.envs r o
    if es.any fun e => match addr e with
      | some a => s.biasHeld e a
      | none => false
    then s.waitFor r .bias
    else
      let (s, rs, sent) := foldMem es f s
      let s := s.commitAwait r o .v k rs sent
      if sent.any isRequest then s.restFor r .remote else s) s

/-! ### Reads that an instruction makes before it acts -/

/-- What a read finds: bytes, a fault, or a place in another package that must be asked. -/
inductive Found where
  | data (bs : List Byte)
  | fault (cause : BitVec 8)
  | away (l : Loc)
  deriving DecidableEq, Repr, Inhabited

/-- The bytes of a line homed elsewhere that the far cache holds, for path C (R247). -/
def State.farHeld (s : State) (l : Loc) (n : Nat) : Option (List Byte) :=
  if ((List.range n).all fun i => (Tab.get? s.fabric.far (l.key + i)).isSome) ∧ Config.farHolds s.tick (l.key / 128) then
    some (listGen (fun i => (Tab.get? s.fabric.far (l.key + i)).getD 0) n)
  else none

/-- A read of path V through a core's L1, for an instruction of a thread that is not a load (R237), after the thread's earlier
loads of those bytes (R240). -/
def State.askV (s : State) (c lid : Nat) (tid : Option Nat) (part : Nat) (va : DWord) (n : Nat) : State × Found :=
  match s.xlate (some c) 0 part va Acc.read with
  | (s, .error k) => (s, .fault k)
  | (s, .ok (.io _)) => (s, .fault 7)
  | (s, .ok (.remote pkg space va leaf64 mode)) => (s, .away (.remote pkg space va leaf64 mode))
  | (s, .ok l) =>
    if l.bad s n then (s, .fault 0x10)
    else match (s.takeOwn c lid tid l.key n).coreBytes c l n with
      | (s, bs) => (s, .data bs)

/-- Such a read of a lane. -/
def State.askLane (s : State) (e : Env) (va : DWord) (n : Nat) : State × Found := s.askV e.r.core e.a.lid e.owner e.l.part va n

/-- A read of path C, which does not go through the L1 (R237, R247), by someone whose stores have left `es` to the path. -/
def State.askC (s : State) (c part : Nat) (es : List Stale) (va : DWord) (n : Nat) : State × Found :=
  match s.xlate (some c) 1 part va Acc.read with
  | (s, .error k) => (s, .fault k)
  | (s, .ok (.io _)) => (s, .fault 7)
  | (s, .ok (.remote pkg space va leaf64 mode)) =>
    let l : Loc := .remote pkg space va leaf64 mode
    match (if mode = 0 then none else s.farHeld l n) with
    | some bs => (s, .data (unjoinedBytes s.tick es (n / 4 + 2) l.key bs))
    | none => (s, .away l)
  | (s, .ok l) =>
    if l.bad s n then (s, .fault 0x10)
    else (s.approach none l n, .data (unjoinedBytes s.tick es (n / 4 + 2) l.key (s.hubBytes l n)))

/-- What a lane's read finds: what another package has answered already, or what `ask` finds. -/
def State.found (s : State) (e : Env) (ask : State → State × Found) : State × Found :=
  match Tab.get? (s.agentD e.r).got e.n with
  | some (.data bs) => (s, .data bs)
  | some (.fault k _) => (s, .fault k)
  | _ => ask s

/-- The lanes whose reads go to other packages send their requests, in ascending order: whether any did. -/
def State.sendFetches (s : State) (es : List Env) (path n : Nat) (ask : State → Env → State × Found) : State × Bool :=
  es.foldl (fun (x : State × Bool) e => match x.1.found e (fun s => ask s e) with
    | (s, .away l) => ((s.sendRemote (e.request s (.fetch n) path l 5 false false)).1, true)
    | (s, _) => (s, x.2)) (s, false)

/-- An instruction whose lanes read `n` bytes before it acts: while another package is asked, it waits. -/
def fetchOp (o : Op) (path n : Nat) (lanes : Env → Bool) (ask : State → Env → State × Found)
    (f : AgentRef → State → State) (s : State) : Host.Outcome State Fault Refusal :=
  agentOp (fun r s =>
    let s := s.latch r o
    match s.sendFetches ((s.envs r o).filter lanes) path n ask with
    | (s, true) => s.waitFor r .remote
    | (s, false) => f r s) s

/-- The global address of source A and the offset (R150). -/
def Env.gaddr (e : Env) (o : Op) : DWord := e.a64 o + o.imm.signExtend 64
/-- The scratchpad address of source A and the offset (R154). -/
def Env.saddr (e : Env) (o : Op) : Word := e.a32 o + o.imm

end Sys2Proof.Machine
end

