-- ==== Sys2Proof/Machine/Memory.lean ====
section
/-! DEFINITION. The loads and stores of group 0x7_ (R153 to R158) and SPOP (R161). -/

namespace Sys2Proof.Machine

/-- LD (R154, R155). -/
def execLd (o : Op) (s : State) : Host.Outcome State Fault Refusal :=
  let n := o.bytes
  heldOp o (loadHeld n o.scope.toNat fun e => e.gaddr o) (memOp o ((n + 3) / 4) (fun e => some (e.gaddr o)) fun s e =>
    s.loadV e (e.gaddr o) n o.scope.toNat (o.mbit 6) (o.mbit 3) (o.mbits 4 2 == 3) (destRegs o.d ((n + 3) / 4))) s

/-- ST (R154, R155). -/
def execSt (o : Op) (s : State) : Host.Outcome State Fault Refusal :=
  heldOp o (storeHeld (o.mbit 6) fun e => e.gaddr o) (memOp o 0 (fun e => some (e.gaddr o)) fun s e =>
    s.storeV e (e.gaddr o) (e.rdBytes o o.b o.bytes) o.scope.toNat (o.mbit 6)) s

/-- A scratchpad access of one lane after its checks: the fault, or what `f` does at the core and the offset. A store there
takes effect at once, after the thread's earlier loads (R241). A read of uncorrectable data traps (R363). -/
def scrLane (e : Env) (a : Word) (n : Nat) (nb : Bool) (acc : Acc) (s : State)
    (f : State → Nat → Nat → State × LaneRes) : State × LaneRes :=
  match s.scrCheck e.r.core e.a.lid nb a n with
  | .error k => (s, { LaneRes.of [] with trap := some (k, a.setWidth 64, acc.code) })
  | .ok (core, off) =>
    match (if acc.r then (s.res core e.a.lid).badAt 0 off n else none) with
    | some bad =>
      (s.ueMet core e.a.lid 0 e.who (.scratch bad), { LaneRes.of [] with trap := some (0x10, a.setWidth 64, 0) })
    | none => f ((if acc.w then s.flushLoads e.r else s).reach core e.a.lid off n) core off

/-- LDS (R154). -/
def execLds (o : Op) (s : State) : Host.Outcome State Fault Refusal :=
  let n := o.bytes
  seqOp o ((n + 3) / 4) (fun s e => scrLane e (e.saddr o) n true Acc.read s fun s core off =>
    (s, .of (loadWords n (o.mbit 3) (s.scratchRead core e.a.lid off n)))) s

/-- STS (R154). -/
def execSts (o : Op) (s : State) : Host.Outcome State Fault Refusal :=
  let n := o.bytes
  heldOp o fenceHeld (seqOp o 0 fun s e => scrLane e (e.saddr o) n true Acc.write s fun s core off =>
    (s.scratchStore core e.a.lid e.who off (e.rdBytes o o.b n), .of [])) s

/-- The scratchpad address of a word of a tile (R156): its base must be a tile page; the coordinates hold the line and
the position, which `.col` exchanges. -/
def tileWord (col : Bool) (base coord : Word) : Word :=
  let line := coord.toNat % 32
  let pos := coord.toNat / 256 % 32
  base + BitVec.ofNat 32 (if col then (pos * 32 + line) * 4 else (line * 32 + pos) * 4)

/-- The checks and the place of a tile access (R156). -/
def tileLane (o : Op) (e : Env) (coord : Word) (acc : Acc) (s : State) (f : State → Nat → Nat → State × LaneRes) :
    State × LaneRes :=
  let base := e.saddr o
  if e.l.tilePage base.toNat then scrLane e (tileWord (o.mbit 6) base coord) 4 false acc s f
  else (s, { LaneRes.of [] with trap := some (2, base.setWidth 64, acc.code) })

/-- LDSX (R156). -/
def execLdsx (o : Op) (s : State) : Host.Outcome State Fault Refusal :=
  seqOp o 1 (fun s e => tileLane o e (e.b32 o) Acc.read s fun s core off =>
    (s, .of (loadWords 4 false (s.scratchRead core e.a.lid off 4)))) s

/-- STSX (R156). -/
def execStsx (o : Op) (s : State) : Host.Outcome State Fault Refusal :=
  heldOp o fenceHeld (seqOp o 0 fun s e => tileLane o e (e.c32 o) Acc.write s fun s core off =>
    (s.scratchStore core e.a.lid e.who off (bytes32 (e.b32 o)), .of [])) s

/-- A load from an argument buffer that software has written while the launch ran is undefined (R157): one that has taken
its value, and one that takes it later. -/
def argUndef (c : Nat) (l : Launch) (n : Nat) (x : State × MemOut) : State × MemOut :=
  match x with
  | (s, .done r) =>
    if l.argNew ∧ r.trap = none then (s, .done (.of (loadWords n false (listGen (Config.undefArg s.tick) n)))) else x
  | (s, .late key) =>
    (s.updCore c fun k => { k with late := k.late.map fun y => if loadKey y.id = key then { y with arg := true } else y }, .late key)
  | x => x

/-- LDK (R157): a load from the argument buffer. -/
def execLdk (o : Op) (s : State) : Host.Outcome State Fault Refusal :=
  let n := o.bytes
  let at_ := fun (e : Env) => e.l.rec64 4 + (e.saddr o).setWidth 64
  memOp o (n / 4) (fun e => some (at_ e)) (fun s e =>
    let off := (e.saddr o).toNat
    if off % n ≠ 0 then (s, .fault 4 (e.saddr o |>.setWidth 64) Acc.read)
    else if 65536 ≤ off then (s, .fault 2 (e.saddr o |>.setWidth 64) Acc.read)
    else argUndef e.r.core (s.launchD e.a.lid) n (s.loadV e (at_ e) n 0 false false false (destRegs o.d (n / 4)))) s

/-- PREF for one lane (R158): under policies 0 and 2 the line enters the core's L1, from the L2, the host or the far cache; a line
homed elsewhere that may be cached and is not held is asked for. An address that fails a check is dropped. -/
def State.prefetch (s : State) (e : Env) (a : DWord) (policy : Nat) : State :=
  match s.xlate (some e.r.core) 0 e.l.part a Acc.read with
  | (s, .error _) | (s, .ok (.io _)) => s
  | (s, .ok (.remote pkg space va leaf64 mode)) =>
    let l : Loc := .remote pkg space va leaf64 mode
    let line := l.at_ (-(l.key % 128 : Nat))
    if mode = 0 then s
    else match s.farHeld line 128 with
      | some bs => if policy = 3 then s else s.updCore e.r.core fun k => { k with l1 := l1Fill k.l1 line.key bs }
      | none => (s.sendRemote (e.request s (.pref 128 (policy != 3)) 0 line 0 false false)).1
  | (s, .ok l) =>
    let line := l.at_ (-(l.key % 128 : Nat))
    if policy = 3 ∨ line.bad s 128 then s else (s.coreBytes e.r.core line 128).1

/-- PREF (R158): a hint that changes no value and never parks a thread. -/
def execPref (o : Op) (s : State) : Host.Outcome State Fault Refusal :=
  agentOp (fun r s =>
    let s := s.latch r o
    let es := s.envs r o
    let s := es.foldl (fun s e => s.prefetch e (e.gaddr o) (o.mbits 4 2)) s
    s.commit r o .f4 0 (es.map fun e => (e.n, .of []))) s

/-! ### Streams (R159 to R161) -/

def State.stream (s : State) (c lid n : Nat) : Stream := Tab.getD (s.res c lid).streams n Stream.none
def State.setStream (s : State) (c lid n : Nat) (x : Stream) : State :=
  s.updRes c lid fun r => { r with streams := Tab.set r.streams n x }

def Stream.w64 (x : Stream) (i : Nat) : DWord := pairOf (x.words.getD i 0) (x.words.getD (i + 1) 0)

/-- The far cache takes bytes of a line homed elsewhere; what is on its way from before is not kept (R240, R247). -/
def State.farTake (s : State) (l : Loc) (bs : List Byte) : State :=
  let s := s.unkeep fun x => meets (x.loc.key / 32 * 32) (x.size + 32) l.key bs.length
  { s with fabric := { s.fabric with far := putBytes s.fabric.far l.key bs } }

/-- A write of a path other than V to a place, which its home has accepted (R247, R254): race records of its sectors become
invalid, grants are recalled, and the far cache takes the bytes that it holds a copy of. -/
def State.putOther (s : State) (l : Loc) (bs : List Byte) : State :=
  let t := (s.approach none l bs.length).hubPut l bs
  match l with
  | .dev pa => (t.shadowClear pa bs.length).wrote pa bs.length
  | .remote _ _ _ _ _ =>
    let t := t.unkeep fun x => meets (x.loc.key / 32 * 32) (x.size + 32) l.key bs.length
    { t with fabric := { t.fabric with far := replaceBytes t.fabric.far l.key bs } }
  | _ => t

/-- A read of path C by the copy engine. Of a line homed elsewhere that the far cache does not hold, the home is asked, and the
sectors of a line that may be cached enter the far cache (R247). -/
def State.readC (s : State) (c part : Nat) (es : List Stale) (va : DWord) (n : Nat) :
    State × Except (BitVec 8) (List Byte) :=
  match s.askC c part es va n with
  | (s, .fault k) => (s, .error k)
  | (s, .data bs) => (s, .ok bs)
  | (s, .away l) =>
    let keeps := match l with
      | .remote _ _ _ _ m => m != 0
      | _ => false
    let back := if keeps then l.key % 32 else 0
    let m := if keeps then (back + n + 31) / 32 * 32 else n
    match s.askRead part 1 (l.at_ (-(back : Nat))) m with
    | (s, .error k) => (s, .error k)
    | (s, .ok l) =>
      let bs := s.hubBytes l m
      let s := if keeps then s.farTake l bs else s
      (s, .ok (unjoinedBytes s.tick es (n / 4 + 2) (l.key + back) ((bs.drop back).take n)))

/-- The copy engine asks another package for an element of a stream, or for its index. -/
def State.askElem (s : State) (c lid n i size : Nat) (index : Bool) (l : Loc) : State :=
  let (pkg, space, va, leaf64, mode) := match l with
    | .remote pkg space va leaf64 mode => (pkg, space, va, leaf64, mode)
    | _ => (0, 0, 0, false, 0)
  (s.sendRemote
    { core := c, ag := 0, lane := 0, lid, tid := 0, kind := .elem n i size index, pkg, va, mode, leaf64, scope := 5,
      sent := s.nanos, again := false, pending := false, parked := false, noticed := false, hops := 0, word := 0, rel := false,
      acq := false, path := 1, space, keep := true, packets := [] }).1

/-- An element stands in its stream, as bytes that are in the ring or as the fault that it met. -/
def State.putElem (s : State) (c lid n i : Nat) (e : Elem) : State :=
  s.updRes c lid fun r =>
    let x := Tab.getD r.streams n Stream.none
    let r := r.reach (x.place i) x.esize
    let r := match e with
      | .data bs => { r.mend 0 (x.place i) bs.length with scratch := putBytes r.scratch (x.place i) bs }
      | _ => r
    { r with streams := Tab.set r.streams n { x with elems := Tab.set x.elems i e } }

/-- Element i is fetched from its address. -/
def State.fetchFrom (s : State) (c lid n i : Nat) (a : DWord) : State :=
  let x := s.stream c lid n
  match (if a.toNat % x.esize ≠ 0 then (s, Found.fault 4) else s.askC c (s.launchD lid).part x.stale a x.esize) with
  | (s, .data bs) => s.putElem c lid n i (.data bs)
  | (s, .fault k) => s.putElem c lid n i (.fault k a)
  | (s, .away l) => s.askElem c lid n i x.esize false l

/-- The address of element i of a STRMX stream, by its index (R159). -/
def Stream.indexed (x : Stream) (index : Word) : DWord :=
  x.w64 0 + index.setWidth 64 * (x.words.getD 4 0).signExtend 64

/-- Element i is fetched into the ring, or meets a fault; the index of a STRMX stream is read from memory first. Where that read
faults, the address of the element is not known, and the fault carries that of the index (R161 does not say which; log 80). -/
def State.fetchElem (s : State) (c lid n i : Nat) : State :=
  let x := s.stream c lid n
  let stride := fun (w : Nat) => (x.words.getD w 0).signExtend 64
  if x.idx then
    let a := x.w64 5 + BitVec.ofNat 64 (4 * i)
    match s.askC c (s.launchD lid).part x.stale a 4 with
    | (s, .data bs) => s.fetchFrom c lid n i (x.indexed (word32 bs))
    | (s, .fault k) => s.putElem c lid n i (.fault k a)
    | (s, .away l) => s.askElem c lid n i 4 true l
  else
    s.fetchFrom c lid n i (x.w64 0 + BitVec.ofNat 64 (i % x.count0) * stride 4 + BitVec.ofNat 64 (i / x.count0) * stride 6)

/-- An element of a stream has been asked for and not answered. -/
def State.elemAsked (s : State) (c lid n i : Nat) : Bool :=
  s.fabric.remote.any fun e => e.2.core == c && e.2.lid == lid && match e.2.kind with
    | .elem n' i' _ _ => n' == n && i' == i
    | _ => false

/-- Those who wait for an element of a launch's streams try again. -/
def State.wakeStream (s : State) (c lid : Nat) : State :=
  s.updCore c fun k =>
    { k with agents := k.agents.mapVals fun _ a => if a.lid = lid ∧ a.wait = some .stream then { a with wait := none } else a }

/-- The stream closes when its last element has been popped. -/
def Stream.closeIf (x : Stream) : Stream := if x.count ≤ x.pos ∧ x.owed = [] then { x with live := false } else x

/-- What SPOP gives one lane. -/
inductive Popped where
  | val (v : List Byte)
  | wait
  | bad (off : Nat)
  | fail (cause : BitVec 8) (addr : DWord)
  deriving DecidableEq, Repr, Inhabited

/-- SPOP for one thread: its own faulted element, fetched again, or the stream's next (R161). A thread whose handler has gone on
after the SPOP receives the element that it is owed at its next SPOP of the stream (R161 does not say; log 80). Once software has
written the ring, elements are undefined (R160). -/
def State.popStream (s : State) (c lid n tid size : Nat) : State × Popped :=
  let x := s.stream c lid n
  if 8 ≤ n ∨ !x.live ∨ x.esize ≠ size then (s, .fail 2 0)
  else
    let owed := Tab.get? x.owed tid
    let i := owed.getD x.pos
    let again := owed.isSome && (Tab.get? x.elems i).isNone && !s.elemAsked c lid n i
    let s := if again then s.fetchElem c lid n i else s
    let x := s.stream c lid n
    let pos := if owed.isSome then x.pos else x.pos + 1
    let out := Stream.closeIf { x with pos, elems := Tab.erase x.elems i, owed := Tab.erase x.owed tid }
    match Tab.get? x.elems i with
    | some (.data bs) => match (s.res c lid).badAt 0 (x.place i) size with
      | some off => (s, .bad off)
      | none =>
        (s.setStream c lid n out,
         .val (if x.spoilt then listGen (fun j => Config.undefElem s.tick (i * 16 + j)) size else bs))
    | some (.fault k a) =>
      (s.setStream c lid n { x with pos, elems := Tab.erase x.elems i, owed := Tab.set x.owed tid i }, .fail k a)
    | none => if owed.isNone ∧ x.count ≤ x.pos then (s, .fail 2 0) else (s, .wait)

/-- SPOP (R161): the lanes that have their element keep it while the drove waits for the others'. -/
def execSpop (o : Op) (s : State) : Host.Outcome State Fault Refusal :=
  agentOp (fun r s =>
    let s := s.latch r o
    let a := s.agentD r
    let n := o.bytes
    let es := s.envs r o
    let got := fun (s : State) (e : Env) => Tab.get? (s.agentD r).served (e.n * 4)
    let start : State × List (Nat × LaneRes) × Bool := (s, [], false)
    let (s, traps, waits) := es.foldl (fun (x : State × List (Nat × LaneRes) × Bool) e =>
      let (s, ts, w) := x
      if w || (got s e).isSome then x
      else match s.popStream r.core a.lid (e.saddr o).toNat e.tid n with
        | (s, .val bs) =>
          let ws := (wordsOf (n / 4) bs).mapIdx fun i w => (e.n * 4 + i, w)
          (s.updAgent r fun a => { a with served := ws.foldl (fun t x => Tab.set t x.1 x.2) a.served }, ts, false)
        | (s, .wait) => (s, ts, true)
        | (s, .bad off) =>
          (s.ueMet r.core a.lid 0 e.who (.scratch off),
           ts ++ [(e.n, { LaneRes.of [] with trap := some (0x10, BitVec.ofNat 64 off, 0) })], false)
        | (s, .fail k addr) =>
          (s, ts ++ [(e.n, { LaneRes.of [] with trap := some (k, addr, Acc.read.on 1) })], false)) start
    if waits then
      (s.waitFor r .stream).trapLanes r (traps.filterMap fun t => t.2.trap.map fun x => (t.1, x))
    else
      let served := (s.agentD r).served
      let vals := es.filterMap fun e =>
        if (Tab.get? served (e.n * 4)).isSome then
          some (e.n, LaneRes.of (listGen (fun i => Tab.getD served (e.n * 4 + i) 0) (n / 4)))
        else none
      s.commit r o .v (n / 4) (traps ++ vals)) s

/-- STREAM_FETCH (R160): the copy engine fetches the next element, ahead of SPOP by at most the ring's size. -/
def execStreamFetch (core lid strm : Nat) (s : State) : Host.Outcome State Fault Refusal :=
  let x := s.stream core lid strm
  .next (if !x.live || decide (x.count ≤ x.next) || decide (x.ring / x.esize ≤ x.next - x.pos) || (s.core core).frozen then s
    else
      let s := s.fetchElem core lid strm x.next
      (s.setStream core lid strm { s.stream core lid strm with next := x.next + 1 }).wakeStream core lid)

/-- A stream's descriptor is well formed and its ring lies in the allocation (R159, R160). -/
def streamOk (l : Launch) (idx : Bool) (w : List Word) : Bool :=
  let w2 := (w.getD 2 0).toNat
  let x : Stream := { Stream.none with words := w, idx }
  let es := w2 % 4
  w2 / 2 ^ 20 == 0 && w2 / 4 % 2 ^ 14 == 0 && decide (1 ≤ w2 / 65536 % 16) && decide (w2 / 65536 % 16 ≤ 8) && es != 3
    && w.getD 3 0 != 0 && (idx || w.getD 5 0 != 0) && (!idx || (w.getD 5 0).toNat % 4 == 0)
    && decide (x.count < 2 ^ 32) && (w.getD 7 0).toNat % 4096 == 0
    && decide ((w.getD 7 0).toNat + x.ring ≤ l.scratch)

/-- A lane's read of a stream's descriptor. -/
def descAsk (o : Op) (s : State) (e : Env) : State × Found := 
  s.askC e.r.core e.l.part (s.leftC e.r.core e.a.lid e.owner) (e.a64 o) 32

/-- STRM or STRMX for one thread (R160): a descriptor address that is not a multiple of 32 is an alignment outside the
table, and fails R150 with cause 0x04. -/
def openStream (o : Op) (idx : Bool) (s : State) (e : Env) : State × LaneRes :=
  let c := e.r.core
  let a := e.a64 o
  let b := (e.b32 o).toNat
  let fail := fun (s : State) (k : BitVec 8) (x : DWord) => (s, { LaneRes.of [] with trap := some (k, x, Acc.read.on 1) })
  if a.toNat % 32 ≠ 0 then fail s 4 a
  else match s.found e (fun s => descAsk o s e) with
    | (s, .fault k) => fail s k a
    | (s, .away _) => fail s 6 a
    | (s, .data bs) =>
      let w := wordsOf 8 bs
      if 8 ≤ b ∨ (s.stream c e.a.lid b).live ∨ !streamOk e.l idx w then fail s 2 0
      else
        let x : Stream := { Stream.none with live := true, words := w, idx, stale := s.leftC c e.a.lid e.owner }
        (s.setStream c e.a.lid b x, .word 0)

/-- STRM and STRMX: the descriptors are read first. -/
def streamOp (o : Op) (idx : Bool) (s : State) : Host.Outcome State Fault Refusal :=
  fetchOp o 1 32 (fun e => (e.a64 o).toNat % 32 == 0) (descAsk o) (fun r s =>
    let (s', rs) := foldLanes (s.envs r o) (openStream o idx) s
    s'.commit r o .v 1 rs) s

/-- STRM (R160). -/
def execStrm (o : Op) (s : State) : Host.Outcome State Fault Refusal := streamOp o false s
/-- STRMX (R160). -/
def execStrmx (o : Op) (s : State) : Host.Outcome State Fault Refusal := streamOp o true s

end Sys2Proof.Machine
end

