-- ==== Sys2Proof/Machine/Atomic.lean ====
section
/-! DEFINITION. The atomics of group 0x8_ (R163 to R166, R249) and COLL (R167, R168, R333). -/

namespace Sys2Proof.Machine

/-- The width of an atomic in bytes, and its ordering (R163). -/
def atomBytes (o : Op) : Nat := if o.mbit 4 then 8 else 4
def atomAcq (o : Op) : Bool := o.mbits 5 2 == 1 || o.mbits 5 2 == 3
def atomRel (o : Op) : Bool := o.mbits 5 2 == 2 || o.mbits 5 2 == 3

/-- A source of an atomic's width. -/
def Env.wide (e : Env) (o : Op) (x : Opnd) : DWord := if o.mbit 4 then e.rd64 o x else (e.rd o x).setWidth 64

/-- A global atomic: `op` 14 is compare and swap. -/
def atomInstr (o : Op) (op : Nat) (ret : Bool) (s : State) : Host.Outcome State Fault Refusal :=
  let n := atomBytes o
  heldOp o (atomHeld n o.scope.toNat (atomRel o) fun e => e.gaddr o)
    (memOp o (if ret then n / 4 else 0) (fun e => some (e.gaddr o)) fun s e =>
      s.atomV e (e.gaddr o) n op (e.wide o o.b) (e.wide o o.c) o.scope.toNat (atomAcq o) (atomRel o) ret
        (if ret then destRegs o.d (n / 4) else [])) s

/-- ATOM (R163, R164). -/
def execAtom (o : Op) (s : State) : Host.Outcome State Fault Refusal := atomInstr o (o.mbits 0 4) true s
/-- ATOMC: compare and swap. -/
def execAtomc (o : Op) (s : State) : Host.Outcome State Fault Refusal := atomInstr o 14 true s
/-- RED: no old value comes back. -/
def execRed (o : Op) (s : State) : Host.Outcome State Fault Refusal := atomInstr o (o.mbits 0 4) false s

/-- A scratchpad atomic waits for its thread's release fence, and where it releases beyond its core for every store before it. -/
def scrAtomHeld (o : Op) (s : State) (e : Env) : Option (List (Nat × Nat)) :=
  allStores (s.fencePending e || atomRel o && decide (3 ≤ o.scope.toNat)
    && (s.storesBefore e.r || (s.core e.r.core).settledAt == some s.cycles))

/-- A scratchpad atomic of one lane (R166). -/
def scrAtomLane (o : Op) (op : Nat) (ret : Bool) (s : State) (e : Env) : State × LaneRes :=
  let n := atomBytes o
  scrLane e (e.saddr o) n false Acc.rmw s fun s core off =>
    let old := ofBytesLE (s.scratchRead core e.a.lid off n)
    let w := 2 ^ (8 * n)
    let new := atomNew op (8 * n) old ((e.wide o o.b).toNat % w) ((e.wide o o.c).toNat % w)
    let s := s.scratchStore core e.a.lid e.who off (bytesLE n new)
    let s := if atomRel o then s.releaseNow e.r.core e.a.lid o.scope.toNat else s
    let s := if atomAcq o then s.acquire e.r.core e.a.lid e.tid o.scope.toNat else s
    (s, .of (if ret then valWords n old else []))

/-- ATOMS. -/
def execAtoms (o : Op) (s : State) : Host.Outcome State Fault Refusal :=
  heldOp o (scrAtomHeld o) (seqOp o (atomBytes o / 4) (scrAtomLane o (o.mbits 0 4) true)) s
/-- ATOMSC. -/
def execAtomsc (o : Op) (s : State) : Host.Outcome State Fault Refusal :=
  heldOp o (scrAtomHeld o) (seqOp o (atomBytes o / 4) (scrAtomLane o 14 true)) s
/-- REDS. -/
def execReds (o : Op) (s : State) : Host.Outcome State Fault Refusal :=
  heldOp o (scrAtomHeld o) (seqOp o 0 (scrAtomLane o (o.mbits 0 4) false)) s

/-! ### Collectives -/

/-- Read a range that may cross pages, piece by piece. `fuel` bounds the pages. -/
def readSpan (rd : State → DWord → Nat → State × Except (BitVec 8) (List Byte)) :
    Nat → State → DWord → Nat → State × Except (BitVec 8 × DWord) (List Byte)
  | 0, s, _, _ => (s, .ok [])
  | fuel + 1, s, va, n =>
    if n = 0 then (s, .ok [])
    else
      let m := min n (65536 - va.toNat % 65536)
      match rd s va m with
      | (s, .error k) => (s, .error (k, va))
      | (s, .ok bs) => match readSpan rd fuel s (va + BitVec.ofNat 64 m) (n - m) with
        | (s, .ok rest) => (s, .ok (bs ++ rest))
        | (s, .error k) => (s, .error k)

/-- The pages that a range touches. -/
def spanPages (va : DWord) (n : Nat) : Nat := (va.toNat % 65536 + n + 65535) / 65536

/-- Every page of a range has a leaf of kind LOCAL. -/
def State.allLocal (s : State) (part : Nat) (va : DWord) (n : Nat) : Bool :=
  (List.range (spanPages va n)).all fun i =>
    match s.walkLeaf part ((va >>> 16 <<< 16) + BitVec.ofNat 64 (65536 * i)) with
    | some (e, _, _) => pteKind e == 1
    | none => false

/-- The member bitmap of a collective group, if its entry is there and valid (R333). -/
def State.group (s : State) (g : Nat) : Option (List Byte) :=
  if (s.reg 0x30158).toNat ≤ g then none
  else match s.privRead ((s.reg64 0x30150).toNat + 1024 * g) 513 with
    | some bs => if (bs.getD 512 0).getLsbD 0 then some (bs.take 512) else none
    | none => none

def memberOf (bits : List Byte) (p : Nat) : Bool := (bits.getD (p / 8) 0).getLsbD (p % 8)
def membersOf (bits : List Byte) : Nat := ((List.range 4096).filter (memberOf bits)).length

/-- A descriptor keeps to the table of R167 and its buffers lie on LOCAL pages: DSTBUF of an allgather holds the elements of all
`members` (R168, R333). -/
def State.collOk (s : State) (part : Nat) (kind op members : Nat) (w : List Word) : Bool :=
  let w64 := fun i => pairOf (w.getD i 0) (w.getD (i + 1) 0)
  let n := (w.getD 4 0).toNat
  let w5 := (w.getD 5 0).toNat
  let fmt := (w.getD 8 0).toNat
  let float := 2 ≤ kind || (9 ≤ op && op ≤ 11)
  (w64 0).toNat % 16 == 0 && (w64 2).toNat % 16 == 0 && (w64 6).toNat % 8 == 0 && n != 0 && decide (n ≤ 2 ^ 28)
    && w5 / 4096 % 16 == 0 && (if float then fmt == 0 else fmt == 14) && (w.drop 9).all (· == 0)
    && s.allLocal part (w64 0) (4 * n) && s.allLocal part (w64 2) (4 * n * if kind < 3 then 1 else members)

/-- A read of path F. -/
def State.readF (s : State) (part : Nat) (va : DWord) (n : Nat) : State × Except (BitVec 8) (List Byte) :=
  match s.xlate none 3 part va Acc.read with
  | (s, .error k) => (s, .error k)
  | (s, .ok l) => match s.askRead part 3 l n with
    | (s, .error k) => (s, .error k)
    | (s, .ok l) => if l.bad s n then (s, .error 0x10) else (s.approach none l n, .ok (s.hubBytes l n))

/-- The number by which a status awaits the end of its collective. -/
def collKey (idx : Nat) : Nat := 2 ^ 65 + idx

/-- A lane's read of a collective's descriptor. -/
def collAsk (o : Op) (s : State) (e : Env) : State × Found := s.askLane e (e.gaddr o) 64

/-- COLL for one thread: a status of 1 or 2, or the collective where it is accepted. -/
def collLane (o : Op) (s : State) (e : Env) : State × MemOut :=
  let a := e.gaddr o
  let fail := fun (s : State) (k : BitVec 8) => (s, MemOut.fault k a Acc.read)
  if a.toNat % 64 ≠ 0 then fail s 4
  else match s.found e (fun s => collAsk o s e) with
    | (s, .fault k) => fail s k
    | (s, .away _) => fail s 6
    | (s, .data bs) =>
        let w := wordsOf 16 bs
        let w64 := fun i => pairOf (w.getD i 0) (w.getD (i + 1) 0)
        let w5 := (w.getD 5 0).toNat
        let n := (w.getD 4 0).toNat
        let kind := o.mbits 4 3
        let op := o.mbits 0 4
        let bits := (s.group (w5 / 65536)).getD []
        if !memberOf bits Config.pkgId.toNat then (s, .done (.word 1))
        else if !s.collOk e.l.part kind op (membersOf bits) w then (s, .done (.word 2))
        else
          let (s, src) := readSpan (fun s va n => s.readF e.l.part va n) (spanPages (w64 0) (4 * n)) s (w64 0) (4 * n)
          let (data, bad) := match src with
            | .ok bs => (wordsOf n bs, false)
            | .error _ => ([], true)
          let s := if bad then s.ueRead e.a.lid e.who (w64 0) else s
          let idx := s.fabric.nextColl
          let x : Coll :=
            { lid := e.a.lid, who := e.r, lane := e.n, regs := destRegs o.d 1, part := e.l.part, kind, op,
              root := w5 % 4096, dst := w64 2, count := n, done := w64 6, data, bad, whoW := e.who }
          let out := Out.collective (w5 / 65536) idx kind op (w5 % 4096) data
          ({ s with fabric := { s.fabric with
              colls := Tab.set s.fabric.colls idx x, nextColl := idx + 1, out := s.fabric.out ++ [out] } },
           .late (collKey idx))

/-- COLL (R167, R168): one collective for each active thread. The status of an accepted one lands when the collective
ends, since only then the members are known to match (DEDUCED, log 30). -/
def execColl (o : Op) (s : State) : Host.Outcome State Fault Refusal :=
  fetchOp o 0 64 (fun e => (e.gaddr o).toNat % 64 == 0) (collAsk o) (fun r s =>
    let (s, rs, sent) := foldMem (s.envs r o) (collLane o) s
    s.commitAwait r o .v 1 rs sent) s

/-- One element of an allreduce or reduce over the members' elements (R168). -/
def collElem (op : Nat) (xs : List Word) : Word :=
  if op = 9 then (arith32 0 false (exactSum (xs.map f32) false)).1
  else match xs with
    | [] => 0
    | x :: rest => rest.foldl (fun a b => BitVec.ofNat 32 (atomNew op 32 a.toNat b.toNat 0)) x

/-- The words that a package writes to DSTBUF, for the members' sources in ascending package number (R168): the
reduction at every member or at the root, the root's source, or every source in turn. -/
def collResult (x : Coll) (all : List (Nat × List Word)) : List Word :=
  let reduced := (List.range x.count).map fun i => collElem x.op (all.map fun m => m.2.getD i 0)
  match x.kind with
  | 0 => reduced
  | 1 => if x.root = Config.pkgId.toNat then reduced else []
  | 2 => ((all.find? fun m => m.1 == x.root).map (·.2)).getD []
  | _ => all.flatMap fun m => m.2.take x.count

/-- Put the own source among the others'. -/
def insertSource (x : Nat × List Word) : List (Nat × List Word) → List (Nat × List Word)
  | [] => [x]
  | y :: ys => if x.1 < y.1 then x :: y :: ys else y :: insertSource x ys

/-- Write a range that may cross pages on path F; pieces that fault are dropped. -/
def State.writeF (s : State) (part : Nat) (va : DWord) (bs : List Byte) : State :=
  (List.range (spanPages va bs.length)).foldl (fun s i =>
    let skip := if i = 0 then 0 else 65536 * i - va.toNat % 65536
    let m := if i = 0 then 65536 - va.toNat % 65536 else 65536
    let at_ := va + BitVec.ofNat 64 skip
    match s.xlate none 3 part at_ Acc.write with
    | (s, .ok l) =>
      let piece := (bs.drop skip).take m
      match s.askWrite part 3 l piece with
      | (s, .ok l) => s.putOther l piece
      | (s, .error _) => s
    | (s, .error _) => s) s

/-- A value is added to a 64-bit word on path F (R168): a word of another package by an atomic there. -/
def State.addF (s : State) (part : Nat) (va : DWord) (n : DWord) : State :=
  match s.xlate none 3 part va Acc.rmw with
  | (s, .ok l) => match s.askNow part { path := 3, tid := 0xFFFFFFFF, atomic := some (0, n, 0), order := 2 } 8 none 5 l with
    | (s, .ok (.remote pkg space va leaf64 mode)) => s.farDrop (.remote pkg space va leaf64 mode)
    | (s, .ok l) => if l.bad s 8 then s else s.putOther l (bytes64 (word64 (s.hubBytes l 8) + n))
    | (s, .error _) => s
  | (s, .error _) => s

/-- COLLECTIVE_DONE (R168, R363): this package's part completes. A mismatch, or data that failed at some member, writes
nothing to DSTBUF; DONECTR advances all the same, with bit 32 for failed data. The addition is a release at sys scope, before which the
core's flags join the hub's word (R45, R242). -/
def execCollectiveDone (idx : Nat) (others : List (Nat × List Word)) (mismatch : Bool) (s : State) :
    Host.Outcome State Fault Refusal :=
  .next (match Tab.get? s.fabric.colls idx with
    | some x =>
      let s := { s with fabric := { s.fabric with colls := Tab.erase s.fabric.colls idx } }
      let st : Word := if mismatch then 3 else 0
      let s := s.deliver x.who (collKey idx) (x.regs.map fun g => { lane := x.lane, reg := g, val := st })
      let all := insertSource (Config.pkgId.toNat, x.data) others
      let s := if mismatch || x.bad then s else s.writeF x.part x.dst (bytesOfWords (collResult x all))
      let s := (s.mergeFlags x.who.core x.lid).addF x.part x.done (if x.bad then 0x100000001 else 1)
      s.released x.lid
    | none => s)

end Sys2Proof.Machine
end

