-- ==== Sys2Proof/Machine/Bits.lean ====
section
/-! DEFINITION. The bit instructions, group 0x2_ (R95 to R98). -/

namespace Sys2Proof.Machine

/-- A bit instruction: one register from three words. -/
def bitOp (o : Op) (f : Word → Word → Word → Word) (s : State) : Host.Outcome State Fault Refusal :=
  laneOp o .f4 1 (fun e => .word (f (e.a32 o) (e.b32 o) (e.c32 o))) s

/-- The shift count of R96. -/
def shiftCount (o : Op) (b : Word) : Nat := if o.mbit 0 then b.toNat % 32 else b.toNat

/-- A word from its bits. -/
def wordOfBits (f : Nat → Bool) : Word :=
  BitVec.ofNat 32 ((List.range 32).foldl (fun acc i => acc + (if f i then 2 ^ i else 0)) 0)

/-- AND (R95). -/
def execAnd (o : Op) (s : State) : Host.Outcome State Fault Refusal := bitOp o (fun a b _ => a &&& b) s
/-- OR (R95). -/
def execOr (o : Op) (s : State) : Host.Outcome State Fault Refusal := bitOp o (fun a b _ => a ||| b) s
/-- XOR (R95). -/
def execXor (o : Op) (s : State) : Host.Outcome State Fault Refusal := bitOp o (fun a b _ => a ^^^ b) s
/-- ANDN (R95). -/
def execAndn (o : Op) (s : State) : Host.Outcome State Fault Refusal := bitOp o (fun a b _ => a &&& ~~~b) s

/-- SHL (R96). -/
def execShl (o : Op) (s : State) : Host.Outcome State Fault Refusal :=
  bitOp o (fun a b _ => if shiftCount o b < 32 then a <<< shiftCount o b else 0) s
/-- SHR (R96). -/
def execShr (o : Op) (s : State) : Host.Outcome State Fault Refusal :=
  bitOp o (fun a b _ => if shiftCount o b < 32 then a >>> shiftCount o b else 0) s
/-- SHRA (R96). -/
def execShra (o : Op) (s : State) : Host.Outcome State Fault Refusal :=
  bitOp o (fun a b _ => a.sshiftRight (min (shiftCount o b) 31)) s
/-- ROTL (R95). -/
def execRotl (o : Op) (s : State) : Host.Outcome State Fault Refusal :=
  bitOp o (fun a b _ => a.rotateLeft (b.toNat % 32)) s

/-- BFX of R97. -/
def bfx (a b : Word) : Word :=
  let pos := b.toNat % 256
  let len := min (b.toNat / 256 % 256) (32 - pos)
  if 32 ≤ pos ∨ len = 0 then 0
  else
    let f := a.toNat / 2 ^ pos % 2 ^ len
    if b.getLsbD 16 && 2 ^ (len - 1) ≤ f then BitVec.ofInt 32 ((f : Int) - 2 ^ len) else BitVec.ofNat 32 f

/-- BFI of R97. -/
def bfi (a b c : Word) : Word :=
  let pos := b.toNat % 256
  let len := min (b.toNat / 256 % 256) (32 - pos)
  if 32 ≤ pos ∨ len = 0 then c
  else
    let mask : Word := BitVec.ofNat 32 ((2 ^ len - 1) * 2 ^ pos)
    (c &&& ~~~mask) ||| ((a <<< pos) &&& mask)

/-- BFX (R97). -/
def execBfx (o : Op) (s : State) : Host.Outcome State Fault Refusal := bitOp o (fun a b _ => bfx a b) s
/-- BFI (R97). -/
def execBfi (o : Op) (s : State) : Host.Outcome State Fault Refusal := bitOp o bfi s

/-- The number of 1 bits. -/
def popc (a : Word) : Nat := ((List.range 32).filter fun i => a.getLsbD i).length

/-- POPC (R95). -/
def execPopc (o : Op) (s : State) : Host.Outcome State Fault Refusal :=
  bitOp o (fun a _ _ => BitVec.ofNat 32 (popc a)) s
/-- CLZ (R95). -/
def execClz (o : Op) (s : State) : Host.Outcome State Fault Refusal :=
  bitOp o (fun a _ _ => BitVec.ofNat 32 (if a = 0 then 32 else 31 - Nat.log2 a.toNat)) s
/-- BREV (R95). -/
def execBrev (o : Op) (s : State) : Host.Outcome State Fault Refusal :=
  bitOp o (fun a _ _ => wordOfBits fun i => a.getLsbD (31 - i)) s

/-- The entry of a truth table that three bits select: A odd entries, C the upper four (R98). -/
def tableBit (table : Word) (a b c : Bool) : Bool := table.getLsbD (a.toNat + 2 * b.toNat + 4 * c.toNat)

/-- LUT3 (R98). -/
def execLut3 (o : Op) (s : State) : Host.Outcome State Fault Refusal :=
  bitOp o (fun a b c => wordOfBits fun i => tableBit o.imm (a.getLsbD i) (b.getLsbD i) (c.getLsbD i)) s

/-- Byte j of BPERM's result (R98). -/
def bpermByte (ctl a b : Word) (j : Nat) : Nat :=
  let x := (a.toNat + 2 ^ 32 * b.toNat) / 2 ^ (8 * (ctl.toNat / 2 ^ (3 * j) % 8)) % 256
  if ctl.getLsbD (12 + j) then 0 else if ctl.getLsbD (16 + j) then (if 128 ≤ x then 255 else 0) else x

/-- BPERM (R98). -/
def execBperm (o : Op) (s : State) : Host.Outcome State Fault Refusal :=
  bitOp o (fun a b _ => BitVec.ofNat 32 (bpermByte o.imm a b 0 + 256 * bpermByte o.imm a b 1
    + 65536 * bpermByte o.imm a b 2 + 16777216 * bpermByte o.imm a b 3)) s

/-- FNS (R95). -/
def execFns (o : Op) (s : State) : Host.Outcome State Fault Refusal :=
  bitOp o (fun a b _ => match ((List.range 32).filter fun i => a.getLsbD i).drop b.toNat with
    | i :: _ => BitVec.ofNat 32 i
    | [] => 0xFFFFFFFF) s

end Sys2Proof.Machine
end

