-- ==== Sys2Proof/Machine/Compare.lean ====
section
/-! DEFINITION. The compare and move instructions, group 0x3_ (R99 to R102). -/

namespace Sys2Proof.Machine

/-- The condition of R77 on an order. -/
def condOf (c : Nat) (o : Ordering) : Bool :=
  match c with
  | 0 => o == .eq
  | 1 => o != .eq
  | 2 => o == .lt
  | 3 => o != .gt
  | 4 => o == .gt
  | _ => o != .lt

/-- The condition of FCMP (R77, R99). -/
def fcond (c : Nat) (a b : Val) : Bool :=
  let nan := a.isNan || b.isNan
  let ord := if a.lt b then Ordering.lt else if b.lt a then .gt else .eq
  if c = 6 then !nan else if c = 7 then nan
  else if 8 ≤ c then nan || condOf (c - 8) ord
  else !nan && condOf c ord

/-- The combination with source C (R99). -/
def combine (o : Op) (x c : Bool) : Bool :=
  match o.mbits 5 2 with
  | 0 => x
  | 1 => x && c
  | 2 => x || c
  | _ => x != c

/-- ICMP (R99). -/
def execIcmp (o : Op) (s : State) : Host.Outcome State Fault Refusal :=
  laneOp o .f4 1 (fun e =>
    let a := e.a32 o
    let b := e.b32 o
    let ord := if o.mbit 4 then compare a.toNat b.toNat else compare a.toInt b.toInt
    .bool (combine o (condOf (o.mbits 0 4) ord) (e.c32 o != 0))) s

/-- FCMP (R99). -/
def execFcmp (o : Op) (s : State) : Host.Outcome State Fault Refusal :=
  laneOp o .f4 1 (fun e =>
    .bool (combine o (fcond (o.mbits 0 4) (f32 (e.a32 o)) (f32 (e.b32 o))) (e.c32 o != 0))) s

/-- CMP64 (R99). -/
def execCmp64 (o : Op) (s : State) : Host.Outcome State Fault Refusal :=
  laneOp o .f4 1 (fun e =>
    let a := e.a64 o
    let b := e.b64 o
    let ord := if o.mbit 4 then compare a.toNat b.toNat else compare a.toInt b.toInt
    .bool (combine o (condOf (o.mbits 0 4) ord) (e.c32 o != 0))) s

/-- SEL (R100). -/
def execSel (o : Op) (s : State) : Host.Outcome State Fault Refusal :=
  laneOp o .f4 1 (fun e => .word (if e.c32 o != 0 then e.a32 o else e.b32 o)) s
/-- MOV (R100). -/
def execMov (o : Op) (s : State) : Host.Outcome State Fault Refusal := laneOp o .f4 1 (fun e => .word (e.a32 o)) s
/-- MOVI (R100). -/
def execMovi (o : Op) (s : State) : Host.Outcome State Fault Refusal := laneOp o .f4 1 (fun e => .word (e.a32 o)) s
/-- MOV64 (R100). -/
def execMov64 (o : Op) (s : State) : Host.Outcome State Fault Refusal := laneOp o .f4 2 (fun e => .pair (e.a64 o)) s

/-- PSET (R101). -/
def execPset (o : Op) (s : State) : Host.Outcome State Fault Refusal :=
  laneOp o .f4 1 (fun e => .bool (tableBit o.imm (e.a32 o != 0) (e.b32 o != 0) (e.c32 o != 0))) s

/-- PMOV (R101). -/
def execPmov (o : Op) (s : State) : Host.Outcome State Fault Refusal :=
  laneOp o .f4 1 (fun e =>
    if o.d.isPred then .bool (e.a32 o &&& e.b32 o != 0) else .word (e.lane.preds &&& e.a32 o)) s

/-- SREAD (R102). `Agent.hold` keeps it from issuing until every earlier result of its agent has landed. -/
def execSread (o : Op) (s : State) : Host.Outcome State Fault Refusal :=
  laneOp o .v 1 (fun e => .word (e.a32 o)) s

/-- ADD64 (R100). -/
def execAdd64 (o : Op) (s : State) : Host.Outcome State Fault Refusal :=
  laneOp o .f4 2 (fun e => .pair (e.a64 o + e.b64 o)) s
/-- SUB64 (R100). -/
def execSub64 (o : Op) (s : State) : Host.Outcome State Fault Refusal :=
  laneOp o .f4 2 (fun e => .pair (e.a64 o - e.b64 o)) s
/-- SHL64 (R100). -/
def execShl64 (o : Op) (s : State) : Host.Outcome State Fault Refusal :=
  laneOp o .f4 2 (fun e => .pair (if (e.b32 o).toNat < 64 then e.a64 o <<< (e.b32 o).toNat else 0)) s

end Sys2Proof.Machine
end

