-- ==== Sys2Proof/Machine/Fp.lean ====
section
/-! DEFINITION. The FP32 instructions, group 0x4_ (R103 to R107), with RNGK's neighbour FDIV (R117). -/

namespace Sys2Proof.Machine

/-- A source with its absolute value and negation bits, bit i for source i (R103). -/
def fpSrc (o : Op) (i : Nat) (w : Word) : Word :=
  let w := if o.mbit (3 + i) then w &&& 0x7FFFFFFF#32 else w
  if o.mbit i then w ^^^ 0x80000000#32 else w

/-- An FP32 instruction: a register and flags from its three sources. -/
def fpOp (o : Op) (lat : Latency) (f : Word → Word → Word → Word × Word) (s : State) : Host.Outcome State Fault Refusal :=
  laneOp o lat 1
    (fun e => .flagged (f (fpSrc o 0 (e.a32 o)) (fpSrc o 1 (e.b32 o)) (fpSrc o 2 (e.c32 o)))) s

/-- The rounding mode of a word. -/
def rmOf (o : Op) : Nat := o.rm.toNat

/-- The sum, product and fused sum of R48 and R104 as exact values. -/
def addVal (rm : Nat) (a b : Val) : Val × Word := a.add (rm == 2) b
def fmaVal (rm : Nat) (a b c : Val) : Val × Word :=
  if a.isNan || b.isNan || c.isNan then (.nan, 0)
  else
    let (p, fl) := a.mul b
    if fl != 0 then (.nan, fl) else p.add (rm == 2) c

/-- FADD (R104). -/
def execFadd (o : Op) (s : State) : Host.Outcome State Fault Refusal :=
  fpOp o .f4 (fun a b _ => arith32 (rmOf o) o.sat (addVal (rmOf o) (f32 a) (f32 b))) s
/-- FSUB (R104). A NaN operand stays one when negated. -/
def execFsub (o : Op) (s : State) : Host.Outcome State Fault Refusal :=
  fpOp o .f4 (fun a b _ => arith32 (rmOf o) o.sat (addVal (rmOf o) (f32 a) (f32 b).negate)) s
/-- FMUL (R104). -/
def execFmul (o : Op) (s : State) : Host.Outcome State Fault Refusal :=
  fpOp o .f4 (fun a b _ => arith32 (rmOf o) o.sat ((f32 a).mul (f32 b))) s
/-- FFMA (R104). -/
def execFfma (o : Op) (s : State) : Host.Outcome State Fault Refusal :=
  fpOp o .f4 (fun a b c => arith32 (rmOf o) o.sat (fmaVal (rmOf o) (f32 a) (f32 b) (f32 c))) s

/-- FMIN and FMAX on registers. -/
def fpick (isMax : Bool) (a b : Word) : Word :=
  BitVec.ofNat 32 (pickCode isMax 0x7FC00000 (f32 a) (f32 b) a.toNat b.toNat)

/-- FMIN (R105). -/
def execFmin (o : Op) (s : State) : Host.Outcome State Fault Refusal :=
  fpOp o .f4 (fun a b _ => (fpick false a b, 0)) s
/-- FMAX (R105). -/
def execFmax (o : Op) (s : State) : Host.Outcome State Fault Refusal :=
  fpOp o .f4 (fun a b _ => (fpick true a b, 0)) s

/-- FRCP (R106). -/
def execFrcp (o : Op) (s : State) : Host.Outcome State Fault Refusal := fpOp o .v (fun a _ _ => frcp (rmOf o) a) s
/-- FRSQ (R106). -/
def execFrsq (o : Op) (s : State) : Host.Outcome State Fault Refusal := fpOp o .v (fun a _ _ => frsq (rmOf o) a) s
/-- FSQRT (R106). -/
def execFsqrt (o : Op) (s : State) : Host.Outcome State Fault Refusal := fpOp o .v (fun a _ _ => fsqrt (rmOf o) a) s
/-- FEX2 (R106). -/
def execFex2 (o : Op) (s : State) : Host.Outcome State Fault Refusal := fpOp o .v (fun a _ _ => fex2 (rmOf o) a) s
/-- FLG2 (R106). -/
def execFlg2 (o : Op) (s : State) : Host.Outcome State Fault Refusal := fpOp o .v (fun a _ _ => flg2 (rmOf o) a) s
/-- FSIN (R106). -/
def execFsin (o : Op) (s : State) : Host.Outcome State Fault Refusal := fpOp o .v (fun a _ _ => fsin (rmOf o) a) s
/-- FCOS (R106). -/
def execFcos (o : Op) (s : State) : Host.Outcome State Fault Refusal := fpOp o .v (fun a _ _ => fcos (rmOf o) a) s

/-- FRND of R107: an integral value, never with a flag. -/
def frnd (rm : Nat) (a : Word) : Word :=
  match f32 a with
  | .nan => 0x7FC00000
  | .inf _ => a
  | .fin s n d =>
    let (q, inexact) := roundInt rm s n d
    if inexact then (arith32 0 false (.fin s q 1, 0)).1 else a

/-- FRND (R107). -/
def execFrnd (o : Op) (s : State) : Host.Outcome State Fault Refusal :=
  fpOp o .f4 (fun a _ _ => (frnd (rmOf o) a, 0)) s

/-- The class of an FP32 code (R107). -/
def fclass (a : Word) : Word :=
  let s := a.getLsbD 31
  let e := a.toNat / 2 ^ 23 % 256
  let m := a.toNat % 2 ^ 23
  let bit := if e = 255 then (if m = 0 then (if s then 0 else 7) else 8)
    else if e = 0 then (if m = 0 then (if s then 3 else 4) else (if s then 2 else 5))
    else if s then 1 else 6
  BitVec.ofNat 32 (2 ^ bit)

/-- FCLASS (R107). -/
def execFclass (o : Op) (s : State) : Host.Outcome State Fault Refusal :=
  fpOp o .f4 (fun a _ _ => (fclass a, 0)) s

/-- The exponent of FSCALE: beyond ±400 every finite A gives the rounded extreme that ±400 gives (R104). -/
def scaleExp (b : Word) : Int := max (-400) (min 400 b.toInt)

/-- FSCALE (R104). Source B is an integer, to which its negate and absolute bits apply as to the others (R103). -/
def execFscale (o : Op) (s : State) : Host.Outcome State Fault Refusal :=
  fpOp o .f4 (fun a b _ => arith32 (rmOf o) o.sat ((f32 a).scale (scaleExp b), 0)) s

/-- FDIV (R117). -/
def execFdiv (o : Op) (s : State) : Host.Outcome State Fault Refusal :=
  laneOp o .v 1 (fun e => .flagged (arith32 (rmOf o) false ((f32 (e.a32 o)).div (f32 (e.b32 o))))) s

end Sys2Proof.Machine
end

