-- ==== Sys2Proof/Machine/Narrow.lean ====
section
/-! DEFINITION. The narrow and convert instructions, group 0x5_ (R108 to R118), and the quantisation of a block
(R58, R59). -/

namespace Sys2Proof.Machine

/-- A register of elements with the flags of all of them. -/
def packed (f : Nat) (xs : List (Nat × Word)) : LaneRes :=
  .flagged (packElems f (xs.map (·.1)), xs.foldl (fun w x => w ||| x.2) 0)

/-- CVT of one register (R109). -/
def cvtWord (src dst rm : Nat) (sat : Bool) (a b c : Word) : LaneRes :=
  let es := perReg src
  let ed := perReg dst
  let n := min es ed
  let j := b.toNat % (max es ed / n)
  let isrc := fun e => if ed < es then e + j * n else e
  let lo := if es < ed then j * n else 0
  packed dst ((List.range ed).map fun i =>
    if lo ≤ i ∧ i < lo + n then convertCode src dst rm sat (elemOf src a (isrc (i - lo)))
    else (elemOf dst c i, 0))

/-- CVT (R109). -/
def execCvt (o : Op) (s : State) : Host.Outcome State Fault Refusal :=
  laneOp o .f6 1 (fun e => cvtWord o.fmt2 o.fmt.toNat (rmOf o) o.sat (e.a32 o) (e.b32 o) (e.c32 o)) s

/-! ### Packed arithmetic (R110) -/

/-- A packed instruction, element by element. -/
def pkOp (o : Op) (f : Nat → Nat → Nat → Nat × Word) (s : State) : Host.Outcome State Fault Refusal :=
  let t := o.fmt.toNat
  laneOp o .f6 1 (fun e => packed t ((List.range (perReg t)).map fun i =>
    f (elemOf t (e.a32 o) i) (elemOf t (e.b32 o) i) (elemOf t (e.c32 o) i))) s

/-- The value of an element in the format of the word. -/
def Op.val (o : Op) (x : Nat) : Val := (decodeElem o.fmt.toNat x).1

/-- PKADD. -/
def execPkadd (o : Op) (s : State) : Host.Outcome State Fault Refusal :=
  pkOp o (fun a b _ => arith o.fmt.toNat (rmOf o) o.sat (addVal (rmOf o) (Op.val o a) (Op.val o b))) s
/-- PKMUL. -/
def execPkmul (o : Op) (s : State) : Host.Outcome State Fault Refusal :=
  pkOp o (fun a b _ => arith o.fmt.toNat (rmOf o) o.sat ((Op.val o a).mul (Op.val o b))) s
/-- PKFMA. -/
def execPkfma (o : Op) (s : State) : Host.Outcome State Fault Refusal :=
  pkOp o (fun a b c => arith o.fmt.toNat (rmOf o) o.sat (fmaVal (rmOf o) (Op.val o a) (Op.val o b) (Op.val o c))) s
/-- PKMIN and PKMAX of one element. -/
def pkPick (o : Op) (isMax : Bool) (a b : Nat) : Nat × Word :=
  (pickCode isMax ((nanCode o.fmt.toNat).getD 0) (Op.val o a) (Op.val o b) a b, 0)
/-- PKMIN. -/
def execPkmin (o : Op) (s : State) : Host.Outcome State Fault Refusal := pkOp o (fun a b _ => pkPick o false a b) s
/-- PKMAX. -/
def execPkmax (o : Op) (s : State) : Host.Outcome State Fault Refusal := pkOp o (fun a b _ => pkPick o true a b) s

/-! ### Dot products (R111, R113) -/

/-- The integer of an integer or trit code. -/
def intVal : Val → Int
  | .fin s n _ => Val.num s n
  | _ => 0

/-- A dot product of n pairs of elements (R111). -/
def dotOp (o : Op) (n : Nat) (s : State) : Host.Outcome State Fault Refusal :=
  let fa := o.fmt.toNat
  let fb := o.fmt2
  laneOp o .f6 1 (fun e =>
    let ps := (List.range n).map fun k =>
      ((decodeElem fa (elemOf fa (e.a32 o) k)).1, (decodeElem fb (elemOf fb (e.b32 o) k)).1)
    if (ifmt fa).isSome && (ifmt fb).isSome then
      .word (BitVec.ofInt 32 (ps.foldl (fun x p => x + intVal p.1 * intVal p.2) (e.c32 o).toInt))
    else .flagged (arith32 0 false (sumOfProducts [f32 (e.c32 o)] ps))) s

/-- DOT4. -/
def execDot4 (o : Op) (s : State) : Host.Outcome State Fault Refusal := dotOp o 4 s
/-- DOT8. -/
def execDot8 (o : Op) (s : State) : Host.Outcome State Fault Refusal := dotOp o 8 s

/-- TDOT (R113). -/
def execTdot (o : Op) (s : State) : Host.Outcome State Fault Refusal :=
  let fb := o.fmt2
  let n := perReg fb
  laneOp o .f6 1 (fun e =>
    let ps := (List.range n).map fun k =>
      (decodeElem 15 (elemOf 15 (e.a32 o) (o.group * n + k)), decodeElem fb (elemOf fb (e.b32 o) k))
    let v := ps.foldl (fun x p => x + intVal p.1.1 * intVal p.2.1) (e.c32 o).toInt
    .flagged (BitVec.ofInt 32 v, if ps.any fun p => p.1.2 || p.2.2 then fINVCODE else 0)) s

/-! ### Logarithmic arithmetic (R112) -/

/-- A rounded value that is finite. -/
def roundVal (f rm : Nat) (sat : Bool) : Val → Nat × Word
  | .fin s n d => roundTo f rm sat s n d
  | _ => (0, 0)

/-- LNSM. -/
def execLnsm (o : Op) (s : State) : Host.Outcome State Fault Refusal :=
  let f := o.fmt.toNat
  pkOp o (fun a b _ => roundVal f 0 true (lnsProduct f f a b)) s
/-- LNSA. -/
def execLnsa (o : Op) (s : State) : Host.Outcome State Fault Refusal :=
  pkOp o (fun a b _ => roundVal o.fmt.toNat (rmOf o) true (addVal (rmOf o) (Op.val o a) (Op.val o b)).1) s

/-! ### RNGK (R118) -/

/-- The generator. -/
def rngk (a b : Word) : Word :=
  let x := (a ^^^ b) * 0x9E3779B1#32
  let x := (x ^^^ (x >>> 15)) * 0x85EBCA77#32
  x ^^^ (x >>> 13)

/-- RNGK (R118). -/
def execRngk (o : Op) (s : State) : Host.Outcome State Fault Refusal :=
  laneOp o .f6 1 (fun e => .word (rngk (e.a32 o) (e.b32 o))) s

/-! ### Dequantise (R116) -/

/-- CVTD of one thread: the element's value under its scales (R39), rounded to FP32. -/
def cvtd (f rm : Nat) (a b c : Word) : Word × Word :=
  let (e, bad) := decodeElem f (a.toNat % 2 ^ elemBits f)
  let (v, fl) := arith32 rm false (scaled f (b.toNat % 256) c e, 0)
  (v, if bad then fl ||| fINVCODE else fl)

/-- CVTD (R116). -/
def execCvtd (o : Op) (s : State) : Host.Outcome State Fault Refusal :=
  laneOp o .v 1 (fun e => .flagged (cvtd o.fmt.toNat (rmOf o) (e.a32 o) (e.b32 o) (e.c32 o))) s

/-! ### Quantise (R58, R59, R114, R115) -/

/-- Elements of one block of a quantised format (R114). -/
def blockLen (f : Nat) : Nat := if isMxFmt f then 32 else 16

/-- The exponent that R58 subtracts. -/
def mxExp (ef : Nat) : Int :=
  match ef with
  | 3 => 8 | 4 => 15 | 5 => 4 | 6 => 2 | 7 => 2 | 9 => 2 | 8 => 6 | 17 => 3 | _ => 0

/-- A value is diverted: its magnitude exceeds the threshold (R58). -/
def isOutlier (tau v : Val) : Bool := tau.lt v.abs

/-- The largest magnitude of the finite values. -/
def amaxOf (vs : List Val) : Val :=
  vs.foldl (fun m v => match v.abs with
    | .fin s n d => if m.lt (.fin s n d) then .fin s n d else m
    | _ => m) (.zero false)

/-- The code of value zero in a format. -/
def zeroCode (f : Nat) : Nat := (roundTo f 0 true false 0 1).1

/-- What R58 makes of a block: its scale code, the divisor of its elements (none: every element is 0), and the flag
that the choice of the scale raises. R58 does not say what a value gives over a divisor that is zero, infinite or NaN (a TS
format with such a g, an FS scale that rounds to zero): the quotient is then as FDIV's, without its flag, and is converted
by R56 (DEDUCED, log 71). -/
def chooseScale (f : Nat) (tau : Val) (g : Word) (vs : List Val) : Nat × Option Val × Word :=
  let ef := elemFmt f
  let rest := vs.filter fun v => !isOutlier tau v
  let amax := amaxOf rest
  if isMxFmt f then
    if rest.any fun v => v.isNan || v.isInf then (0xFF, none, 0)
    else
      let x := match amax with
        | .fin _ n d => if n = 0 then 127 else (max 0 (min 254 (floorLog2 n d - mxExp ef + 127))).toNat
        | _ => 127
      (x, some (e8m0 x), 0)
  else if isFsFmt f then
    let gv := f32 g
    if vs.any (fun v => v.isNan || v.isInf) || gv.isNan || gv.isInf || gv.isZero then (0x7F, none, fNV)
    else
      let q := Val.fin false (if ef = 7 then 6 else 7) 1
      let code := if amax.isZero then 0x38 else (roundVal 3 3 true (amax.div (gv.mul q).1).1).1
      (code, some (gv.mul (decodeElem 3 code).1).1, 0)
  else (0, some (f32 g), 0)

/-- A quantised block (R58): its scale code, the codes of its elements, the places of its outliers, and its flags. -/
structure Quant where
  scale : Nat
  codes : List Nat
  outs  : List Nat
  flags : Word
  deriving DecidableEq, Repr, Inhabited

/-- Quantise one block (R58). -/
def quantise (f rm : Nat) (tau : Val) (g : Word) (vs : List Val) : Quant :=
  let ef := elemFmt f
  let (sc, d, fl) := chooseScale f tau g vs
  let one := fun (v : Val) =>
    if isOutlier tau v then (zeroCode ef, (0 : Word))
    else match d with
      | some d => convert ef rm true (v.div d).1
      | none => (zeroCode ef, 0)
  let cs := vs.map one
  { scale := sc, codes := cs.map (·.1), flags := cs.foldl (fun w x => w ||| x.2) fl,
    outs := (List.range vs.length).filter fun k => isOutlier tau (vs.getD k (.zero false)) }

/-- A block of the team that executes a CVTB (R114): its members that are active, by place, and what R58 makes of it. -/
structure CvtBlock where
  mem   : Tab Env
  q     : Word
  words : List Word
  res   : Quant

/-- The blocks that some active member belongs to, in ascending order of team and place. -/
def cvtBlocks (o : Op) (es : List Env) : List CvtBlock :=
  let f := o.fmt.toNat
  let len := blockLen f
  let keyOf := fun (e : Env) => (e.tid / e.l.teamW) * 128 + e.tid % e.l.teamW / len
  let keys := (es.foldl (fun (t : Tab Unit) e => Tab.set t (keyOf e) ()) []).map (·.1)
  keys.filterMap fun k =>
    let mem := (es.filter fun e => keyOf e == k).foldl
      (fun (t : Tab Env) e => Tab.set t (e.tid % e.l.teamW % len) e) []
    match mem with
    | [] => none
    | (_, lead) :: _ =>
      let words := (List.range len).map fun i => match Tab.get? mem i with
        | some e => e.a32 o
        | none => 0
      some { mem, q := lead.b32 o, words, res := quantise f (rmOf o) (f32 o.imm) (lead.c32 o) (words.map f32) }

/-- The outlier list that a block names, and an entry of it (R114, R200). A column beyond 65,535 is kept modulo 65,536, as
its field has 16 bits (DEDUCED, log 71). -/
def CvtBlock.list (b : CvtBlock) : Nat := b.q.toNat / 32 % 16
def CvtBlock.entry (b : CvtBlock) (k : Nat) : Word × Word :=
  (BitVec.ofNat 32 (b.q.toNat % 32 + (b.q.toNat / 65536 + k) % 65536 * 65536), b.words.getD k 0)

/-- The places of a block's outliers that find no room, for lists as they stand; and the lists after the appends
(R59, R115). -/
def appendOutliers (lists : Tab (List (Word × Word))) (b : CvtBlock) : List Nat × Tab (List (Word × Word)) :=
  let l := Tab.getD lists b.list []
  let room := 64 - l.length
  (b.res.outs.drop room,
   if b.res.outs.isEmpty then lists else Tab.set lists b.list (l ++ (b.res.outs.take room).map b.entry))

/-- The appends of all blocks in order, with the places in excess of each. -/
def appendAll (lists : Tab (List (Word × Word))) : List CvtBlock → List (CvtBlock × List Nat) × Tab (List (Word × Word))
  | [] => ([], lists)
  | b :: bs =>
    let (ex, lists) := appendOutliers lists b
    let (rest, lists) := appendAll lists bs
    ((b, ex) :: rest, lists)

/-- The element codes of a block with its excess values as the largest elements of their sign (R59); under a NaN
scale every element is 0. The sign is the value's own, also under a negative g (R59 speaks of the sign only so; log 83). -/
def excessCodes (f : Nat) (b : CvtBlock) (ex : List Nat) : List Nat :=
  let ef := elemFmt f
  let void := (isMxFmt f && b.res.scale == 0xFF) || (isFsFmt f && b.res.scale == 0x7F)
  b.res.codes.mapIdx fun k c =>
    if ex.contains k && !void then largest ef ((b.words.getD k 0).getLsbD 31) else c

/-- The destination of a member (R114). -/
def cvtResult (o : Op) (b : CvtBlock) (codes : List Nat) (k : Nat) : Word :=
  let f := o.fmt.toNat
  let ef := elemFmt f
  match o.group with
  | 0 => BitVec.ofNat 32 (codes.getD k 0)
  | 1 => BitVec.ofNat 32 b.res.scale
  | _ => if k % perReg ef = 0 then packElems ef ((codes.drop k).take (perReg ef)) else 0

/-- The OUTOVF flag and OVFCOUNT after values in excess (R59). -/
def State.outOvf (s : State) (c lid n : Nat) : State :=
  (s.raise c lid fOUTOVF).updRes c lid fun r =>
    { r with num := (r.num &&& 0xFFFFFF#32) ||| addOvf r.num (BitVec.ofNat 32 (min n 255 * 2 ^ 24)) }

/-- The opcode of CVTB, as the matrix queue holds its appends. -/
def opCvtb : BitVec 8 := 0x51

/-- A matrix queue has no room: it is full, or words that CPYMXs carried wait for the entries that are left (R183). -/
def Core.queueFull (k : Core) : Bool :=
  decide (32 ≤ k.queue.length) || k.copies.any fun e => e.2.live && e.2.landed && e.2.kind == 0xA3

/-- The mark in `served` of a CVTB whose appends stand in the queue. -/
def cvtMark : Nat := 2 ^ 35

/-- The appends of a CVTB take their place in the matrix queue, behind what the launch has queued there (R187, R200). -/
def State.queueAppends (s : State) (r : AgentRef) (o : Op) : State :=
  let k := s.core r.core
  let q : MatOp :=
    { id := k.nextMat, lid := (s.agentD r).lid, who := some r, lanes := [], bell := none, op := o, opc := opCvtb, a := 0, b := 0,
      c := 0, run := false, flags := 0, err := none, res := none }
  (s.updCore r.core fun k => { k with queue := k.queue ++ [q], nextMat := k.nextMat + 1 }).updAgent r fun a =>
    { a with served := Tab.set a.served cvtMark 0 }

/-- They leave it as they take effect, and those who wait for the queue go on. -/
def State.dropAppends (s : State) (r : AgentRef) : State :=
  ((s.updCore r.core fun k =>
    { k with queue := k.queue.filter fun m => !(m.opc == opCvtb && m.who == some r) }).wakeCore r.core .queue).wakeCore r.core .sync

/-- CVTB (R114, R115). Its appends pass through the matrix queue (R200): where the launch has instructions queued on the core, they
take their place behind those, and MATRIX_EXECUTE grants the CVTB its issue when they stand at the head. -/
def execCvtb (o : Op) (s : State) : Host.Outcome State Fault Refusal :=
  agentOp (fun r s =>
    let s := s.latch r o
    let a := s.agentD r
    let es := s.envs r o
    let bs := cvtBlocks o es
    let c := r.core
    let appends := o.group != 1 && bs.any fun b => !b.res.outs.isEmpty
    if !a.team then s.trapWord r 1 0
    else if appends && (Tab.get? a.served cvtMark).isNone && (s.core c).queue.any (fun m => m.lid == a.lid) then
      if (s.core c).queueFull then s.waitFor r .queue else (s.queueAppends r o).waitFor r .cvtb
    else
      let s := if appends then s.dropAppends r else s
      let lists := (s.res c a.lid).outlier
      let (out, lists') := if o.group = 1 then (bs.map fun b => (b, ([] : List Nat)), lists) else appendAll lists bs
      let excess := out.foldl (fun n x => n + x.2.length) 0
      let s := if excess = 0 then s else s.outOvf c a.lid excess
      if excess ≠ 0 ∧ (s.enables c a.lid).getLsbD 22 then
        s.trapLanes r (es.map fun e => (e.n, 0x0C, 0, 0))
      else
        let s := s.updRes c a.lid fun x => { x with outlier := lists' }
        let s := if o.group = 1 then s else s.raise c a.lid (bs.foldl (fun w b => w ||| b.res.flags) 0)
        s.commit r o .v 1 (out.flatMap fun x =>
          let codes := excessCodes o.fmt.toNat x.1 x.2
          x.1.mem.map fun e => (e.2.n, LaneRes.word (cvtResult o x.1 codes e.1)))) s

end Sys2Proof.Machine
end

