-- ==== Sys2Proof/Machine/Copy.lean ====
section
/-! DEFINITION. The copy engine: group 0xA_ but for the streams, and LDGS (R162, R178 to R184). A copy reads its source
and writes its destination when it lands. -/

namespace Sys2Proof.Machine

/-! ### Rows of packed elements (R25) -/

/-- The bytes of n packed elements. -/
def rowBytes (f n : Nat) : Nat := if f = 16 then (n + 4) / 5 else (n * elemBits f + 7) / 8

/-- The code of element i of a row, a tri5 element as its digit, and whether the byte that holds it is invalid (R31). -/
def rowGet (f : Nat) (bs : List Byte) (i : Nat) : Nat × Bool :=
  if f = 16 then
    let b := (bs.getD (i / 5) 0x79).toNat
    if 243 ≤ b then (1, true) else (b / 3 ^ (i % 5) % 3, false)
  else
    let w := elemBits f
    (ofBytesLE ((bs.drop (w * i / 8)).take 5) / 2 ^ (w * i % 8) % 2 ^ w, false)

/-- Five digits as a tri5 byte. -/
def tri5Byte (ds : List Nat) : Byte := BitVec.ofNat 8 (ds.foldr (fun d acc => d + 3 * acc) 0)

/-- A row from the codes of its elements; what is left of the last byte comes from `rest`. -/
def rowPut (f : Nat) (codes : List Nat) (rest : Byte) : List Byte :=
  let n := codes.length
  if f = 16 then
    listGen (fun j => tri5Byte ((List.range 5).map fun t =>
      if h : 5 * j + t < n then codes[5 * j + t] else (rowGet 16 [rest] t).1)) (rowBytes 16 n)
  else
    let w := elemBits f
    let v := codes.foldr (fun c acc => c % 2 ^ w + 2 ^ w * acc) 0
    let odd := w * n % 8
    let top := if odd = 0 then 0 else rest.toNat / 2 ^ odd * 2 ^ (w * n)
    bytesLE (rowBytes f n) (v + top)

/-- The zero code of a format (R180), as `rowGet` gives it. -/
def rowZero (f : Nat) : Nat := if f = 16 then 1 else zeroCode (elemFmt f)

/-- The value of an element of a row, and whether its code is invalid. -/
def rowVal (f : Nat) (x : Nat × Bool) : Val × Bool :=
  if f = 16 then (.ofInt ((x.1 : Int) - 1), x.2) else decodeElem f x.1

/-- A value in a plain format, as an element of a row. -/
def rowCode (f rm : Nat) (sat : Bool) (v : Val × Bool) : Nat × Word :=
  let (c, fl) := convert f rm sat v.1
  (if f = 16 then (if c = 3 then 0 else c + 1) else c, if v.2 then fl ||| fINVCODE else fl)

/-! ### Layout records (R178) -/

structure Layout where
  base   : DWord
  pitch  : Nat
  cols   : Nat
  rows   : Nat
  spfmt  : Nat
  rm     : Nat
  memfmt : Nat
  trows  : Nat
  spitch : Nat
  tcols  : Nat
  gscale : Word
  resv   : Bool
  deriving DecidableEq, Repr, Inhabited

def Layout.of (w : List Word) : Layout :=
  let g := fun i => (w.getD i 0).toNat
  { base := pairOf (w.getD 0 0) (w.getD 1 0), pitch := g 2, cols := g 3 % 2 ^ 24, rows := g 4 % 2 ^ 24,
    spfmt := g 5 / 2 ^ 24 % 32, rm := g 5 / 2 ^ 21 % 8, memfmt := g 5 / 2 ^ 16 % 32, trows := g 5 % 128,
    spitch := g 6 / 65536, tcols := g 6 % 8192, gscale := w.getD 7 0,
    resv := g 3 / 2 ^ 24 != 0 || g 4 / 2 ^ 24 != 0 || g 5 / 2 ^ 29 != 0 || g 5 / 128 % 512 != 0 || g 6 / 8192 % 8 != 0 }

/-- How a copy treats its elements (R181): unchanged, converted, into blocks, or under a tensor's scale. -/
inductive Mode where
  | same | plain | block | tensor
  deriving DecidableEq, Repr

/-- The opcode of a copy that writes memory. -/
def isCpyr (kind : BitVec 8) : Bool := kind == 0xA6

def Layout.mode (x : Layout) (kind : BitVec 8) : Mode :=
  if x.spfmt = x.memfmt then .same
  else if isCpyr kind || decide (x.spfmt < 19) then .plain
  else if x.spfmt ≤ 29 then .block
  else .tensor

/-- Elements of a scratchpad row: TCOLS, and on to the end of the last block. -/
def Layout.ncols (x : Layout) (kind : BitVec 8) : Nat :=
  if x.mode kind = .block then (x.tcols + blockLen x.spfmt - 1) / blockLen x.spfmt * blockLen x.spfmt else x.tcols

/-- Row and column of an origin (R179). -/
def row0 (origin : Word) : Nat := origin.toNat % 65536
def col0 (origin : Word) : Nat := origin.toNat / 65536

/-- Elements of a tile's row r that lie inside the tensor. -/
def Layout.inside (x : Layout) (origin : Word) (r : Nat) : Nat :=
  if row0 origin + r < x.rows then min x.tcols (x.cols - col0 origin) else 0

/-- A tile row in memory: its address, and its bytes for n elements. -/
def Layout.rowAddr (x : Layout) (origin : Word) (r : Nat) : DWord :=
  x.base + BitVec.ofNat 64 ((row0 origin + r) * x.pitch + rowBytes x.memfmt (col0 origin))

/-! ### The checks at issue (R180) -/

/-- The third check, cause 0x02. -/
def layoutBad (kind : BitVec 8) (x : Layout) (dst origin : Word) : Bool :=
  let limit := x.pitch % 16 != 0 || decide (x.pitch < rowBytes x.memfmt x.cols) || x.cols == 0 || x.rows == 0
    || decide (4 < x.rm) || x.trows == 0 || decide (64 < x.trows) || x.spitch % 4 != 0 || x.tcols == 0
    || decide (4096 < x.tcols)
  let pair :=
    if kind = 0xA2 then x.spfmt != x.memfmt || (x.spfmt != 3 && x.spfmt != 11)
    else if x.spfmt = x.memfmt then false
    else if isCpyr kind then decide (18 < x.spfmt) || decide (18 < x.memfmt)
    else decide (18 < x.memfmt) || (x.mode kind == .block && col0 origin % blockLen x.spfmt != 0)
  x.resv || limit || pair || decide (x.rows ≤ row0 origin) || decide (x.cols ≤ col0 origin)
    || (kind != 0xA2 && dst.toNat / 2 ^ 20 != 0) || decide (x.spitch < rowBytes x.spfmt (x.ncols kind))

/-- The fourth check, cause 0x04: col0 starts on a byte. -/
def colBad (x : Layout) (origin : Word) : Bool :=
  if x.memfmt = 16 then col0 origin % 5 != 0 else col0 origin * elemBits x.memfmt % 8 != 0

/-- The end of the range that a copy touches in the scratchpad or in scale memory, scales of blocks included. -/
def Layout.endOf (x : Layout) (kind : BitVec 8) (dst : Word) : Nat :=
  let n := x.ncols kind
  let tile := dst.toNat + (x.trows - 1) * x.spitch + rowBytes x.spfmt n
  if x.mode kind = .block then max tile (dst.toNat + x.trows * x.spitch + x.trows * (n / blockLen x.spfmt)) else tile

/-- Checks 3 to 5 of R180 on a copy with a layout record. -/
def layoutCheck (kind : BitVec 8) (l : Launch) (x : Layout) (dst origin : Word) : Option (BitVec 8) :=
  if layoutBad kind x dst origin then some 2
  else if colBad x origin then some 4
  else if (if kind = 0xA2 then l.scaleKb * 1024 else l.scratch) < x.endOf kind dst then some 7
  else none

/-- Check 6: a bell that a copy names is live. -/
def State.bellBad (s : State) (c lid : Nat) (bell : Option Nat) : Bool :=
  match bell with
  | some b => !s.bellOk c lid (BitVec.ofNat 32 b)
  | none => false

/-- The bell that bits 38:32 name (R179). -/
def copyBell (o : Op) : Option Nat := if o.mbit 0 then some (o.mbits 1 6) else none

/-! ### Issue -/

/-- A copy before it has a slot. -/
def newCopy (e : Env) (kind : BitVec 8) (src : DWord) (dst arg : Word) (desc : List Word) (bell : Option Nat) : Copy :=
  { live := true, status := 0, lid := e.a.lid, gen := 0, kind, src, dst, arg, desc, bell, issued := e.s.cycles, pc := e.a.pc,
    tid := if e.a.shep then none else some e.lane.tid, landed := false, failed := false, cause := 0, held := false,
    kept := false, stale := e.s.leftC e.r.core e.a.lid e.owner }

/-- What the checks at issue make of one lane's copy. -/
abbrev CopyOut := Except (BitVec 8 × DWord × Nat) Copy

/-- CPY (R179, R180). -/
def cpyIssue (o : Op) (s : State) (e : Env) : State × CopyOut :=
  let a := e.a64 o
  let b := e.b32 o
  let n := (e.c32 o).toNat
  if a.toNat % 16 ≠ 0 ∨ b.toNat % 16 ≠ 0 ∨ n % 16 ≠ 0 ∨ 1048576 < n then (s, .error (4, a, Acc.read.on 1))
  else if b.toNat / 2 ^ 20 ≠ 0 then (s, .error (2, a, Acc.read.on 1))
  else if e.l.scratch < b.toNat + n then (s, .error (7, b.setWidth 64, Acc.write.on 1))
  else if s.bellBad e.r.core e.a.lid (copyBell o) then (s, .error (0x0A, 0, 0))
  else (s, .ok (newCopy e 0xA0 a b (e.c32 o) [] (copyBell o)))

/-- CPYT, CPYSC and CPYR. -/
def layoutIssue (kind : BitVec 8) (o : Op) (s : State) (e : Env) : State × CopyOut :=
  let a := e.a64 o
  if a.toNat % 32 ≠ 0 then (s, .error (4, a, Acc.read.on 1))
  else match s.found e (fun s => descAsk o s e) with
    | (s, .fault c) => (s, .error (c, a, Acc.read.on 1))
    | (s, .away _) => (s, .error (6, a, Acc.read.on 1))
    | (s, .data bs) =>
      let w := wordsOf 8 bs
      match layoutCheck kind e.l (Layout.of w) (e.b32 o) (e.c32 o) with
      | some c => (s, .error (c, a, Acc.read.on 1))
      | none =>
        if s.bellBad e.r.core e.a.lid (copyBell o) then (s, .error (0x0A, 0, 0))
        else (s, .ok (newCopy e kind a (e.b32 o) (e.c32 o) w (copyBell o)))

/-- A read of global memory on path M (R237): only LOCAL pages, through the L1. A word that a store of the issuing agent has
written and no XFENCE naming V and M has joined (`es`) is read as either value. -/
def State.readM (s : State) (c part : Nat) (es : List Stale) (va : DWord) (n : Nat) :
    State × Except (BitVec 8) (List Byte) :=
  match s.xlate (some c) 2 part va Acc.read with
  | (s, .error k) => (s, .error k)
  | (s, .ok l) =>
    if l.bad s n then (s, .error 0x10)
    else match s.coreBytes c l n with
      | (s, bs) => (s, .ok (unjoinedBytes s.tick es (n / 4 + 2) l.key bs))

/-- A source that a CPYMX word may name (R183). -/
def mxSource (x : Opnd) : Bool :=
  match x with
  | .k _ | .zero | .imm => true
  | _ => false

/-- The checks of R183 on a matrix word. -/
def mxWordCause (l : Launch) (w : IWord) : Option (BitVec 8) :=
  match decodeWord (l.ctx false) w with
  | .error e => some (rejectCause e)
  | .ok i =>
    let ok := fun (o : Op) => !o.guard.en && mxSource o.a && mxSource o.b && mxSource o.c
    match i with
    | .mma o | .mmag o | .mmas o => if ok o then none else some 2
    | .tlbi _ | .halt _ => if l.priv then some 2 else some 3
    | .swr o => if !l.priv && isPrivSysReg o.imm.toNat then some 3 else some 2
    | _ => some 2

/-- CPYMX (R183): the record is read on path M, and its word is checked before its layout. -/
def cpymxIssue (o : Op) (s : State) (e : Env) : State × CopyOut :=
  let a := e.a64 o
  let c := e.r.core
  let es := s.leftM c e.a.lid e.owner
  if a.toNat % 32 ≠ 0 then (s, .error (4, a, Acc.read.on 2))
  else match s.readM c e.l.part es a 32 with
    | (s, .error k) => (s, .error (k, a, Acc.read.on 2))
    | (s, .ok bs) => match s.readM c e.l.part es (a + 32) 16 with
      | (s, .error k) => (s, .error (k, a + 32, Acc.read.on 2))
      | (s, .ok wd) =>
        let w := wordsOf 8 bs
        match mxWordCause e.l (wordOfBytes wd), layoutCheck 0xA3 e.l (Layout.of w) (e.b32 o) (e.c32 o) with
        | some k, _ | none, some k => (s, .error (k, a, Acc.read.on 2))
        | none, none =>
          if s.bellBad c e.a.lid (copyBell o) then (s, .error (0x0A, 0, 0))
          else (s, .ok (newCopy e 0xA3 a (e.b32 o) (e.c32 o) (w ++ wordsOf 4 wd) (copyBell o)))

/-- LDGS (R162): both addresses are checked at issue. -/
def ldgsIssue (o : Op) (s : State) (e : Env) : State × CopyOut :=
  let a := e.gaddr o
  let n := o.bytes
  let b := e.b32 o
  let bell := (e.c32 o).toNat % 64
  if a.toNat % n ≠ 0 then (s, .error (4, a, Acc.read.on 1))
  else match s.xlate (some e.r.core) 1 e.l.part a Acc.read with
    | (s, .error k) => (s, .error (k, a, Acc.read.on 1))
    | (s, .ok _) => match s.scrCheck e.r.core e.a.lid false b n with
      | .error k => (s, .error (k, b.setWidth 64, Acc.write.on 1))
      | .ok _ =>
        if s.bellBad e.r.core e.a.lid (some bell) then (s, .error (0x0A, 0, 0))
        else (s, .ok (newCopy e 0x79 a b (BitVec.ofNat 32 n) [] (some bell)))

/-- The lowest copy slot that is free, of 512. -/
def freeCopy (t : Tab Copy) : Nat → Nat → Option Nat
  | _, 0 => none
  | i, n + 1 => match Tab.get? t i with
    | some x => if x.live then freeCopy t (i + 1) n else some i
    | none => some i

/-- A copy takes a slot, whose generation rises; one of no bytes completes at once. -/
def State.startCopy (s : State) (c : Nat) (x : Copy) : State × Nat :=
  let k := s.core c
  let slot := (freeCopy k.copies 0 512).getD 0
  let gen := match Tab.get? k.copies slot with
    | some y => (y.gen + 1) % 2 ^ 23
    | none => 0
  let s := s.updCore c fun k => { k with copies := Tab.set k.copies slot { x with gen } }
  (if x.kind = 0xA0 ∧ x.arg = 0 then s.endCopy c slot x.bell false 0 else s, slot)

/-- The quad that a copy writes (R182): the promise, never before issue + 32, the ticket, and 0. -/
def State.copyQuad (s : State) (c slot : Nat) : LaneRes :=
  let x := Tab.getD (s.core c).copies slot default
  let promise := BitVec.ofNat 64 (s.count c + 32 + Config.promiseExtra s.tick)
  .of [promise.setWidth 32, (promise >>> 32).setWidth 32, copyTicket slot x, 0]

/-- A copy instruction: each active thread starts its copy, or parks. While fewer slots are free than it needs, it
waits at issue. -/
def copyStart (o : Op) (ret : Bool) (f : Op → State → Env → State × CopyOut) (r : AgentRef) (s : State) : State :=
    let es := s.envs r o
    let start : State × List (Nat × CopyOut) := (s, [])
    let (s', outs) := es.foldl (fun (x : State × List (Nat × CopyOut)) e =>
      let (s, out) := f o x.1 e
      (s, x.2 ++ [(e.n, out)])) start
    let need := (outs.filter fun x => match x.2 with
      | .ok _ => true
      | .error _ => false).length
    let busy := ((s.core r.core).copies.filter fun e => e.2.live).length
    if 512 < busy + need then s.waitFor r .copySlot
    else
      let begin_ : State × List (Nat × LaneRes) := (s', [])
      let (s, rs) := outs.foldl (fun (x : State × List (Nat × LaneRes)) out =>
        match out.2 with
        | .error t => (x.1, x.2 ++ [(out.1, { LaneRes.of [] with trap := some t })])
        | .ok y =>
          let (s, slot) := x.1.startCopy r.core y
          (s, x.2 ++ [(out.1, if ret then s.copyQuad r.core slot else .of [])])) begin_
      s.commit r o .v (if ret then 4 else 0) rs

/-- A copy instruction that reads nothing of path C before it starts. -/
def copyOp (o : Op) (ret : Bool) (f : Op → State → Env → State × CopyOut) (s : State) :
    Host.Outcome State Fault Refusal :=
  agentOp (fun r s => copyStart o ret f r (s.latch r o)) s

/-- One whose layout record is read on path C first (R180). -/
def layoutOp (kind : BitVec 8) (o : Op) (s : State) : Host.Outcome State Fault Refusal :=
  fetchOp o 1 32 (fun e => (e.a64 o).toNat % 32 == 0) (descAsk o) (copyStart o true (layoutIssue kind)) s

/-- CPY. -/
def execCpy (o : Op) (s : State) : Host.Outcome State Fault Refusal := copyOp o true cpyIssue s
/-- CPYT. -/
def execCpyt (o : Op) (s : State) : Host.Outcome State Fault Refusal := layoutOp 0xA1 o s
/-- CPYSC. -/
def execCpysc (o : Op) (s : State) : Host.Outcome State Fault Refusal := layoutOp 0xA2 o s
/-- CPYMX. -/
def execCpymx (o : Op) (s : State) : Host.Outcome State Fault Refusal := copyOp o true cpymxIssue s
/-- CPYR. -/
def execCpyr (o : Op) (s : State) : Host.Outcome State Fault Refusal := layoutOp 0xA6 o s
/-- LDGS. -/
def execLdgs (o : Op) (s : State) : Host.Outcome State Fault Refusal := copyOp o false ldgsIssue s

/-! ### What a copy moves -/

/-- One run of bytes that a copy writes. -/
inductive Put where
  | scratch (off : Nat) (bs : List Byte)
  | scale (off : Nat) (bs : List Byte)
  | mem (l : Loc) (bs : List Byte)
  deriving DecidableEq, Repr, Inhabited

/-- What came of one piece of a copy: its writes and flags, or the fault it meets. -/
abbrev Piece := Except (BitVec 8 × DWord × Nat) (List Put × Word)

/-- Bytes of memory on path C, piece by piece within 64 KiB pages; `fuel` bounds the pieces. -/
def State.readSpan64 (s : State) (c part : Nat) (es : List Stale) :
    Nat → DWord → Nat → State × Except (BitVec 8 × DWord × Nat) (List Byte)
  | 0, _, _ => (s, .ok [])
  | _, _, 0 => (s, .ok [])
  | fuel + 1, va, n =>
    let m := min n (65536 - va.toNat % 65536)
    match s.readC c part es va m with
    | (s, .error k) => (s, .error (k, va, Acc.read.code))
    | (s, .ok bs) => match s.readSpan64 c part es fuel (va + BitVec.ofNat 64 m) (n - m) with
      | (s, .ok rest) => (s, .ok (bs ++ rest))
      | (s, .error e) => (s, .error e)

/-- The places of a run of bytes that a copy writes to memory on path C, those in other packages once the home has accepted the
bytes (R316). -/
def State.putSpan64 (s : State) (c part : Nat) : Nat → DWord → List Byte → State × Except (BitVec 8 × DWord × Nat) (List Put)
  | 0, _, _ => (s, .ok [])
  | _, _, [] => (s, .ok [])
  | fuel + 1, va, b :: bs =>
    let m := min (bs.length + 1) (65536 - va.toNat % 65536)
    match s.xlate (some c) 1 part va Acc.write with
    | (s, .error k) => (s, .error (k, va, Acc.write.code))
    | (s, .ok (.io _)) => (s, .error (7, va, Acc.write.code))
    | (s, .ok l) => match s.askWrite part 1 l ((b :: bs).take m) with
      | (s, .error k) => (s, .error (k, va, Acc.write.code))
      | (s, .ok l) => match s.putSpan64 c part fuel (va + BitVec.ofNat 64 m) ((b :: bs).drop m) with
        | (s, .ok rest) => (s, .ok (.mem l ((b :: bs).take m) :: rest))
        | (s, .error e) => (s, .error e)

/-- The blocks of a list. -/
def chunks {α : Type} (n : Nat) : Nat → List α → List (List α)
  | 0, _ => []
  | k + 1, l => l.take n :: chunks n k (l.drop n)

/-- A row as CPYT writes it (R180, R181): its bytes, the scales of its blocks, and its flags. -/
def convRow (kind : BitVec 8) (x : Layout) (ins : Nat) (bs : List Byte) : List Byte × List Byte × Word :=
  let n := x.ncols kind
  let mf := x.memfmt
  let sf := x.spfmt
  let cell := fun i => if i < ins then rowGet mf bs i else (rowZero mf, false)
  let cells := (List.range n).map cell
  let blank : Byte := if sf = 16 then 0x79 else 0
  match x.mode kind with
  | .same =>
    let row := rowPut sf (cells.map (·.1)) blank
    (if sf = 16 then bs.take (ins / 5) ++ row.drop (ins / 5) else row, [], 0)
  | .plain =>
    let out := cells.map fun y => rowCode sf x.rm true (rowVal mf y)
    (rowPut sf (out.map (·.1)) blank, [], out.foldl (fun w y => w ||| y.2) 0)
  | m =>
    let vals := (List.range n).map fun i => if i < ins then rowVal mf (cell i) else (Val.zero false, false)
    let len := if m = .block then blockLen sf else n
    let qs := (chunks len (n / max 1 len) vals).map fun vs => quantise sf x.rm (.inf false) x.gscale (vs.map (·.1))
    let inv := if vals.any (·.2) then fINVCODE else 0
    (rowPut sf (qs.flatMap Quant.codes) 0,
     if m = .block then qs.map fun q => BitVec.ofNat 8 q.scale else [], qs.foldl (fun w q => w ||| q.flags) inv)

/-- A row of a copy into the scratchpad or scale memory. -/
def State.rowIn (s : State) (c : Nat) (x : Copy) (y : Layout) (r : Nat) : State × Piece :=
  let part := (s.launchD x.lid).part
  let ins := y.inside x.arg r
  match s.readSpan64 c part x.stale 4 (y.rowAddr x.arg r) (rowBytes y.memfmt ins) with
  | (s, .error e) => (s, .error e)
  | (s, .ok bs) =>
    let (row, scales, fl) := convRow x.kind y ins bs
    let off := x.dst.toNat + r * y.spitch
    if x.kind = 0xA2 then (s, .ok ([.scale off row], fl))
    else
      let scaleOff := x.dst.toNat + y.trows * y.spitch + r * scales.length
      (s, .ok (.scratch off row :: (if scales.isEmpty then [] else [.scratch scaleOff scales]), fl))

/-- A row as CPYR writes it (R180): the bytes of the elements inside the tensor; what is left of the last byte belongs
to elements that keep their values (`old`), or is zero at the tensor row's end. A copy that changes no format raises no
flag (R181); otherwise the codes 243 to 255 of a partly written tri5 byte raise INVCODE as it is read (R25). -/
def outRow (x : Layout) (ins : Nat) (bs : List Byte) (old : Option Byte) : List Byte × Word :=
  let mf := x.memfmt
  let sf := x.spfmt
  let cells := (List.range ins).map (rowGet sf bs)
  let rest := old.getD (if mf = 16 then 0x79 else 0)
  let partial_ := if mf = 16 then ins % 5 != 0 else ins * elemBits mf % 8 != 0
  let inv := if partial_ && mf == 16 && decide (243 ≤ rest.toNat) then fINVCODE else 0
  if sf = mf then
    let row := rowPut mf (cells.map (·.1)) rest
    (if mf = 16 then bs.take (ins / 5) ++ row.drop (ins / 5) else row, 0)
  else
    let out := cells.map fun y => rowCode mf x.rm true (rowVal sf y)
    (rowPut mf (out.map (·.1)) rest, out.foldl (fun w y => w ||| y.2) inv)

/-- A byte of memory of which CPYR writes only a part; another package is asked for it (R314). -/
def State.sharedByte (s : State) (c part : Nat) (va : DWord) : State × Except (BitVec 8 × DWord × Nat) (Option Byte) :=
  match s.xlate (some c) 1 part va Acc.write with
  | (s, .error k) => (s, .error (k, va, Acc.write.code))
  | (s, .ok l) => match s.askRead part 1 l 1 with
    | (s, .error k) => (s, .error (k, va, Acc.write.code))
    | (s, .ok l) => (s.approach none l 1, .ok (s.hubBytes l 1)[0]?)

/-- A row of CPYR. -/
def State.rowOut (s : State) (c : Nat) (x : Copy) (y : Layout) (r : Nat) : State × Piece :=
  let part := (s.launchD x.lid).part
  let ins := y.inside x.arg r
  if ins = 0 then (s, .ok ([], 0))
  else
    let va := y.rowAddr x.arg r
    let n := rowBytes y.memfmt ins
    let off := x.dst.toNat + r * y.spitch
    let size := rowBytes y.spfmt y.tcols
    let bs := s.scratchRead c x.lid off size
    let s := s.reach c x.lid off size
    match (s.res c x.lid).badAt 0 off size with
    | some bad => (s, .error (0x10, BitVec.ofNat 64 bad, Acc.read.code))
    | none =>
    match (if col0 x.arg + ins < y.cols then s.sharedByte c part (va + BitVec.ofNat 64 (n - 1)) else (s, .ok none)) with
    | (s, .error e) => (s, .error e)
    | (s, .ok old) =>
      let (row, fl) := outRow y ins bs old
      match s.putSpan64 c part 4 va row with
      | (s, .error e) => (s, .error e)
      | (s, .ok ps) => (s, .ok (ps, fl))

/-- A run of CPY or LDGS, up to a page's end. -/
def State.runIn (s : State) (c : Nat) (x : Copy) (off n : Nat) : State × Piece :=
  let va := x.src + BitVec.ofNat 64 off
  match s.readC c (s.launchD x.lid).part x.stale va n with
  | (s, .error k) => (s, .error (k, va, Acc.read.code))
  | (s, .ok bs) => (s, .ok ([.scratch (scrOffset x.dst + off) bs], 0))

/-- The runs of a plain copy: offset and length. -/
def runsOf (src : DWord) (n : Nat) : Nat → Nat → List (Nat × Nat)
  | 0, _ => []
  | fuel + 1, off =>
    if n ≤ off then []
    else
      let m := min (n - off) (65536 - (src.toNat + off) % 65536)
      (off, m) :: runsOf src n fuel (off + m)

/-- Every piece of a copy, in order. -/
def State.copyPieces (s : State) (c : Nat) (x : Copy) : State × List Piece :=
  let start : State × List Piece := (s, [])
  if x.kind = 0xA0 ∨ x.kind = 0x79 then
    (runsOf x.src x.arg.toNat 20 0).foldl (fun (a : State × List Piece) g =>
      let (s, p) := a.1.runIn c x g.1 g.2
      (s, a.2 ++ [p])) start
  else
    let y := Layout.of x.desc
    (List.range y.trows).foldl (fun (a : State × List Piece) r =>
      let (s, p) := if isCpyr x.kind then a.1.rowOut c x y r else a.1.rowIn c x y r
      (s, a.2 ++ [p])) start

/-- Bytes of scale memory are written; a write of part of a word that holds uncorrectable data is dropped (R363). -/
def Res.putScale (r : Res) (off : Nat) (bs : List Byte) : Res :=
  if r.partBad 2 off bs.length then r else { r.mend 2 off bs.length with scale := putBytes r.scale off bs }

/-- A copy as an error record names it (R362). -/
def copyWho (slot : Nat) (x : Copy) : Word := 0x80000000#32 + copyTicket slot x

/-- One run of bytes is written for a copy. -/
def State.doPut (s : State) (c lid : Nat) (who : Word) (p : Put) : State :=
  match p with
  | .scratch off bs => s.scratchStore c lid who off bs
  | .scale off bs =>
    (if (s.res c lid).partBad 2 off bs.length then s.ueMet c lid 0 who (.scale off) else s).updRes c lid fun r => r.putScale off bs
  | .mem l bs => (s.partLog l bs.length ((s.launchD lid).recW 8) who).putOther l bs

/-- The single bytes of a run. -/
def Put.bytes : Put → List Put
  | .scratch off bs => bs.mapIdx fun i b => .scratch (off + i) [b]
  | .scale off bs => bs.mapIdx fun i b => .scale (off + i) [b]
  | .mem l bs => bs.mapIdx fun i b => .mem (l.at_ (i : Nat)) [b]

/-- The first fault that the pieces meet. -/
def firstFault : List Piece → Option (BitVec 8 × DWord × Nat)
  | [] => none
  | .error e :: _ => some e
  | .ok _ :: ps => firstFault ps

def piecePuts (ps : List Piece) : List Put := ps.flatMap fun p => match p with
  | .ok x => x.1
  | .error _ => []
def pieceFlags (ps : List Piece) : Word := ps.foldl (fun w p => match p with
  | .ok x => w ||| x.2
  | .error _ => w) 0

/-- The flags of some elements as a transfer's status word holds them (R57): NV, OF, UF, NX and INVCODE in bits 0 to 4. -/
def transferStatus (flags : Word) : Word :=
  let b := fun (f : Word) (i : Nat) => if flags &&& f != 0 then 2 ^ i else 0
  BitVec.ofNat 32 (b fNV 0 + b fOF 1 + b fUF 2 + b fNX 3 + b fINVCODE 4)
/-- Those flags as the numeric status word of a launch holds them. -/
def statusFlags (status : Word) : Word :=
  let b := fun (i : Nat) (f : Word) => if status.getLsbD i then f else 0
  b 0 fNV ||| b 1 fOF ||| b 2 fUF ||| b 3 fNX ||| b 4 fINVCODE

/-- A copy's status word takes flags by OR (R57). -/
def State.copyStatus (s : State) (c slot : Nat) (flags : Word) : State :=
  s.updCore c fun k =>
    { k with copies := Tab.upd k.copies slot fun x => { x with status := x.status ||| transferStatus flags } }

/-! ### Landing and failing -/

/-- What uncorrectable data a copy has met: what CPYR reads stands in the scratchpad (R363). -/
def Copy.met (x : Copy) (addr : DWord) (ps : List Piece) : Granule :=
  if isCpyr x.kind && firstFault ps == some (0x10, addr, Acc.read.code) then .scratch addr.toNat else .global addr

/-- A copy stops as failed (R184), of whose pieces these came out: which of its bytes had been written is not defined, and those
remain; a KIND 3 record names its ticket, and its completion counts as an error. Its status word holds the flags of the pieces
before the fault. Of these only INVCODE joins the launch's word, which it does whenever an invalid code is read (R30): for the
others R57 speaks of a transfer's completion only (DESIGN CHOICE, log 11). -/
def State.failWith (s : State) (c slot : Nat) (cause : BitVec 8) (addr : DWord) (ps : List Piece) : State :=
  match Tab.get? (s.core c).copies slot with
  | some x =>
    if x.live then
      let tick := s.tick
      let puts := if x.landed then [] else (piecePuts ps).flatMap Put.bytes
      let some_ := (puts.mapIdx fun i p => (i, p)).filter fun e => Config.failedByte tick e.1
      let s := some_.foldl (fun s e => s.doPut c x.lid (copyWho slot x) e.2) s
      let flags := if x.landed then 0 else pieceFlags (ps.takeWhile Except.isOk)
      let s := (s.copyStatus c slot flags).raise c x.lid (flags &&& fINVCODE)
      let l := s.launchD x.lid
      let f : FqWords :=
        { kind := 3, path := 1, cause := cause.toNat, acc := if isCpyr x.kind then 2 else 1, va := addr,
          launch := l.recW 8, who := copyTicket slot x, space := s.space l.part, part := l.part, peer := 0, info := 0 }
      let (s, _) := s.fqRecord c f (va57 addr / 65536) []
      let s := if cause = 0x10 then s.ueMet c x.lid 0 (copyWho slot x) (x.met addr ps) else s
      s.endCopy c slot x.bell true cause
    else s
  | none => s

/-- A copy fails of something that no piece of it has met. -/
def State.failCopy (s : State) (c slot : Nat) (cause : BitVec 8) (addr : DWord) : State :=
  match Tab.get? (s.core c).copies slot with
  | some x =>
    if x.live then
      let (s, ps) := s.copyPieces c x
      s.failWith c slot cause addr ps
    else s
  | none => s

/-- The spans of memory that a copy reads or writes. -/
def copySpans (x : Copy) : List (DWord × Nat) :=
  if x.kind = 0xA0 ∨ x.kind = 0x79 then [(x.src, x.arg.toNat)]
  else
    let y := Layout.of x.desc
    (List.range y.trows).map fun r => (y.rowAddr x.arg r, rowBytes y.memfmt (y.inside x.arg r))

/-- A copy reaches a frame that is changing its bias (R326). -/
def State.copyHeld (s : State) (x : Copy) : Bool :=
  s.fabric.biasJob.isSome && (copySpans x).any fun g =>
    (List.range (g.2 / 65536 + 2)).any fun i =>
      decide (i * 65536 < g.2 + 65536) && s.pageHeld (s.launchD x.lid).part (g.1 + BitVec.ofNat 64 (min (i * 65536) (g.2 - 1)))

/-- COPY_FAULT (R184): the home of a page in another package reports the copy's access as unresolvable, or gives no
answer. -/
def execCopyFault (core slot : Nat) (cause : BitVec 8) (addr : DWord) (s : State) : Host.Outcome State Fault Refusal :=
  .next (match Tab.get? (s.core core).copies slot with
    | some x =>
      let hit := (copySpans x).any fun g => decide ((addr - g.1).toNat < g.2)
      let acc := if isCpyr x.kind then Acc.write else Acc.read
      match s.xlate (some core) 1 (s.launchD x.lid).part addr acc with
      | (s, .ok (.remote _ _ _ _ _)) =>
        if x.live && !x.landed && !x.kept && hit && (cause == 6 || cause == 7 || cause == 0x10) then
          s.failCopy core slot cause addr
        else s
      | (s, _) => s
    | none => s)

end Sys2Proof.Machine
end

