-- ==== Sys2Proof/Machine/Crypto.lean ====
section
/-! DEFINITION. SHA-512 and ECDSA on curve P-521, by which the part names images, signs its reports and checks its firmware (R301,
R379, R381, R382). The manual gives them by name; FIPS 180-4 and FIPS 186-5 say what they are (log 21). -/

namespace Sys2Proof.Machine

/-- The n bytes of a value, the first the most significant (R379). -/
def bytesBE : Nat → Nat → List Byte
  | 0, _ => []
  | n + 1, v => BitVec.ofNat 8 (v / 256 ^ n) :: bytesBE n v
/-- The value of such bytes. -/
def ofBytesBE (bs : List Byte) : Nat := bs.foldl (fun v b => v * 256 + b.toNat) 0

/-! ### SHA-512 -/

/-- The constants of the 80 rounds. -/
def shaK : List DWord :=
  [0x428a2f98d728ae22, 0x7137449123ef65cd, 0xb5c0fbcfec4d3b2f, 0xe9b5dba58189dbbc,
   0x3956c25bf348b538, 0x59f111f1b605d019, 0x923f82a4af194f9b, 0xab1c5ed5da6d8118,
   0xd807aa98a3030242, 0x12835b0145706fbe, 0x243185be4ee4b28c, 0x550c7dc3d5ffb4e2,
   0x72be5d74f27b896f, 0x80deb1fe3b1696b1, 0x9bdc06a725c71235, 0xc19bf174cf692694]
  ++ [0xe49b69c19ef14ad2, 0xefbe4786384f25e3, 0x0fc19dc68b8cd5b5, 0x240ca1cc77ac9c65,
   0x2de92c6f592b0275, 0x4a7484aa6ea6e483, 0x5cb0a9dcbd41fbd4, 0x76f988da831153b5,
   0x983e5152ee66dfab, 0xa831c66d2db43210, 0xb00327c898fb213f, 0xbf597fc7beef0ee4,
   0xc6e00bf33da88fc2, 0xd5a79147930aa725, 0x06ca6351e003826f, 0x142929670a0e6e70]
  ++ [0x27b70a8546d22ffc, 0x2e1b21385c26c926, 0x4d2c6dfc5ac42aed, 0x53380d139d95b3df,
   0x650a73548baf63de, 0x766a0abb3c77b2a8, 0x81c2c92e47edaee6, 0x92722c851482353b,
   0xa2bfe8a14cf10364, 0xa81a664bbc423001, 0xc24b8b70d0f89791, 0xc76c51a30654be30,
   0xd192e819d6ef5218, 0xd69906245565a910, 0xf40e35855771202a, 0x106aa07032bbd1b8]
  ++ [0x19a4c116b8d2d0c8, 0x1e376c085141ab53, 0x2748774cdf8eeb99, 0x34b0bcb5e19b48a8,
   0x391c0cb3c5c95a63, 0x4ed8aa4ae3418acb, 0x5b9cca4f7763e373, 0x682e6ff3d6b2b8a3,
   0x748f82ee5defb2fc, 0x78a5636f43172f60, 0x84c87814a1f0ab72, 0x8cc702081a6439ec,
   0x90befffa23631e28, 0xa4506cebde82bde9, 0xbef9a3f7b2c67915, 0xc67178f2e372532b]
  ++ [0xca273eceea26619c, 0xd186b8c721c0c207, 0xeada7dd6cde0eb1e, 0xf57d4f7fee6ed178,
   0x06f067aa72176fba, 0x0a637dc5a2c898a6, 0x113f9804bef90dae, 0x1b710b35131c471b,
   0x28db77f523047d84, 0x32caab7b40c72493, 0x3c9ebe0a15c9bebc, 0x431d67c49c100d4c,
   0x4cc5d4becb3e42b6, 0x597f299cfc657e2a, 0x5fcb6fab3ad6faec, 0x6c44198c4a475817]

/-- The hash value of no block. -/
def shaH : List DWord :=
  [0x6a09e667f3bcc908, 0xbb67ae8584caa73b, 0x3c6ef372fe94f82b, 0xa54ff53a5f1d36f1,
   0x510e527fade682d1, 0x9b05688c2b3e6c1f, 0x1f83d9abfb41bd6b, 0x5be0cd19137e2179]

/-- Σ and σ: a word rotated by two counts, and rotated or shifted by a third. -/
def shaMix (a b c : Nat) (shift : Bool) (x : DWord) : DWord :=
  x.rotateRight a ^^^ x.rotateRight b ^^^ (if shift then x >>> c else x.rotateRight c)

/-- The message schedule, its newest word first. -/
def shaExtend : Nat → List DWord → List DWord
  | 0, w => w
  | n + 1, w =>
    shaExtend n ((shaMix 19 61 6 true (w.getD 1 0) + w.getD 6 0 + shaMix 1 8 7 true (w.getD 14 0) + w.getD 15 0) :: w)

/-- One round on the eight working variables. -/
def shaRound (v : List DWord) (kw : DWord × DWord) : List DWord :=
  let x := fun i => v.getD i 0
  let choose := (x 4 &&& x 5) ^^^ (~~~ x 4 &&& x 6)
  let major := (x 0 &&& x 1) ^^^ (x 0 &&& x 2) ^^^ (x 1 &&& x 2)
  let t := x 7 + shaMix 14 18 41 false (x 4) + choose + kw.1 + kw.2
  [t + shaMix 28 34 39 false (x 0) + major, x 0, x 1, x 2, x 3 + t, x 4, x 5, x 6]

/-- The 64-bit words of some bytes, of which each is written with its most significant byte first. -/
def shaWords : Nat → List Byte → List DWord
  | 0, _ => []
  | n + 1, bs => BitVec.ofNat 64 (ofBytesBE (bs.take 8)) :: shaWords n (bs.drop 8)

/-- A hash value after one block of 128 bytes. -/
def shaBlock (h : List DWord) (block : List Byte) : List DWord :=
  let w := (shaExtend 64 (shaWords 16 block).reverse).reverse
  (h.zip ((shaK.zip w).foldl shaRound h)).map fun x => x.1 + x.2

/-- Blocks one after another. -/
def shaBlocks : Nat → List DWord → List Byte → List DWord
  | 0, h, _ => h
  | n + 1, h, bs => shaBlocks n (shaBlock h (bs.take 128)) (bs.drop 128)

/-- A message as it is hashed: a one bit, zeroes, and its length in bits. -/
def shaPad (bs : List Byte) : List Byte :=
  bs ++ 0x80 :: List.replicate ((239 - bs.length % 128) % 128) 0 ++ bytesBE 16 (8 * bs.length)

/-- SHA-512: 64 bytes. -/
def sha512 (bs : List Byte) : List Byte :=
  let m := shaPad bs
  (shaBlocks (m.length / 128) shaH m).flatMap fun x => bytesBE 8 x.toNat

/-! ### ECDSA on curve P-521 -/

/-- The prime of the field, the constant of the curve y² = x³ − 3x + b, its base point and the order of that. -/
def ecP : Nat := 2 ^ 521 - 1
def ecB : Nat :=
  0x51953eb9618e1c9a1f929a21a0b68540eea2da725b99b315f3b8b489918ef109e156193951ec7e937b1652c0bd3bb1bf073573df883d2c34f1ef451fd46b503f00
def ecG : Nat × Nat :=
  (0xc6858e06b70404e9cd9e3ecb662395b4429c648139053fb521f828af606b4d3dbaa14b5e77efe75928fe1dc127a2ffa8de3348b3c1856a429bf97e7e31c2e5bd66,
   0x11839296a789a3bc0045c8a5fb42c7d1bd998f54449579b446817afbd17273e662c97ee72995ef42640c550b9013fad0761353c7086a272c24088be94769fd16650)
def ecN : Nat :=
  0x1fffffffffffffffffffffffffffffffffffffffffffffffffffffffffffffffffa51868783bf2f966b7fcc0148f709a5d03bb5c9b8899c47aebb6fb71e91386409

/-- A power modulo m, over the low bits of the exponent that the first argument counts. -/
def powMod (m : Nat) : Nat → Nat → Nat → Nat
  | 0, _, _ => 1
  | k + 1, a, e => (if e % 2 = 1 then a else 1) * powMod m k (a * a % m) (e / 2) % m
/-- The inverse modulo a prime below 2^521. -/
def invMod (m a : Nat) : Nat := powMod m 521 (a % m) (m - 2)

/-- The sum of two points; none is the point at infinity. -/
def ecAdd (u v : Option (Nat × Nat)) : Option (Nat × Nat) :=
  match u, v with
  | none, v => v
  | u, none => u
  | some (x, y), some (x', y') =>
    if x = x' ∧ (y + y') % ecP = 0 then none
    else
      let slope := (if x = x' then (3 * x * x + ecP - 3) * invMod ecP (2 * y)
        else (y' + ecP - y) * invMod ecP (x' + ecP - x)) % ecP
      let r := (slope * slope + 2 * ecP - x - x') % ecP
      some (r, (slope * (x + ecP - r) + ecP - y) % ecP)

/-- A multiple of a point, over the low bits of the factor that the first argument counts. -/
def ecMul : Nat → Nat → Option (Nat × Nat) → Option (Nat × Nat)
  | 0, _, _ => none
  | k + 1, d, u => ecAdd (if d % 2 = 1 then u else none) (ecMul k (d / 2) (ecAdd u u))

/-- The public key of a private one, X then Y (R379). -/
def publicKey (d : Nat) : List Byte :=
  match ecMul 521 d (some ecG) with
  | some (x, y) => bytesBE 66 x ++ bytesBE 66 y
  | none => bytesBE 132 0

/-- The signature r, s of a digest with a private key and a nonce, where neither is zero. -/
def signWith (digest : List Byte) (d k : Nat) : Option (Nat × Nat) :=
  let r := match ecMul 521 k (some ecG) with
    | some (x, _) => x % ecN
    | none => 0
  let s := invMod ecN k * (ofBytesBE digest + r * d) % ecN
  if r = 0 ∨ s = 0 then none else some (r, s)

/-- A signature of a digest by a public key holds. -/
def verifies (key digest sig : List Byte) : Bool :=
  let x := ofBytesBE (key.take 66)
  let y := ofBytesBE (key.drop 66)
  let r := ofBytesBE (sig.take 66)
  let s := ofBytesBE (sig.drop 66)
  let onCurve := decide (x < ecP) && decide (y < ecP) && (y * y) % ecP == (x * x * x + ecB + ecP * x - 3 * x) % ecP
  let w := invMod ecN s
  key.length == 132 && sig.length == 132 && onCurve && decide (0 < r) && decide (r < ecN) && decide (0 < s) && decide (s < ecN)
    && match ecAdd (ecMul 521 (ofBytesBE digest * w % ecN) (some ecG)) (ecMul 521 (r * w % ecN) (some (x, y))) with
      | some (x, _) => x % ecN == r
      | none => false

/-- The device's private key, which is not zero modulo the order (R379). -/
def devPrivate : Nat := Config.devPrivate % (ecN - 1) + 1

/-- A signature by the device key (R379, R381): r then s. Its nonces are free, and one that gives a zero is passed over. -/
def deviceSign (bs : List Byte) : List Byte :=
  let digest := sha512 bs
  match (List.range 8).findSome? fun i => signWith digest devPrivate (Config.nonce bs i % (ecN - 1) + 1) with
  | some (r, s) => bytesBE 66 r ++ bytesBE 66 s
  | none => bytesBE 132 0

/-- A bundle carries Nomeor's signature over the rest of it, by the key whose digest the fuses hold (R379, R382). -/
def bundleSigned (staged : List (Nat × Byte)) : Bool :=
  let key := Config.bundleKey staged
  sha512 key == bytesBE 64 Config.releaseDigest.toNat && verifies key (sha512 (Config.bundleRest staged)) (Config.bundleSig staged)

end Sys2Proof.Machine
end

