-- ==== Sys2Proof/Machine/FrontEnd.lean ====
section
/-! DEFINITION. The launch front end (R266 to R292): doorbells and queue slots, launch records, readiness and
arbitration, binding, placement, completion and fallback, work-graph batches. -/

namespace Sys2Proof.Machine

/-- READY (R383): until then the registers of R266, R297, R313 and R335 ignore writes. -/
def State.isReady (s : State) : Bool := (s.reg 0x50014).getLsbD 31 && !s.fw.trip

/-! ### Queue descriptors (R268) -/

/-- The slot that a queue holds. -/
def State.slotOf (s : State) (q : Nat) : Option (Nat × Slot) := s.front.slots.find? fun e => e.2.queue == q
/-- The tables as the registers give them now (R266). -/
def State.tables (s : State) : Tables :=
  { qt := (s.reg64 0).toNat, qn := (s.reg 8).toNat, wo := (s.reg64 0x10).toNat, wn := (s.reg 0xC).toNat }
/-- The tables that a queue uses: while it is mapped, those of when it was mapped (R266). -/
def State.tablesOf (s : State) (q : Nat) : Tables :=
  match s.slotOf q with
  | some (_, sl) => sl.tabs
  | none => s.tables
def State.qtBase (s : State) (q : Nat) : Nat := (s.tablesOf q).qt
/-- The descriptor of a queue, if the queue exists: below QTCOUNT, well formed and ENABLED, where the part can both read and write
it; a queue without a doorbell of its own must be a device queue (R268, R312, R388). -/
def State.qdesc (s : State) (q : Nat) : Option (List Word) :=
  if (s.tablesOf q).qn ≤ q ∨ (s.xlatePriv (s.qtBase q + 64 * q) Acc.write).isNone then none
  else match s.privRead (s.qtBase q + 64 * q) 64 with
    | none => none
    | some bs =>
      let d := wordsOf 16 bs
      let w2 := (d.getD 2 0).toNat
      let ok := w2 / 4096 % 4096 == 0 && w2 / 32 % 8 == 0 && d.getD 9 0 == 0 && (d.drop 12).all (· == 0)
        && decide (4 ≤ w2 % 32) && decide (w2 % 32 ≤ 16) && w2 / 256 % 2 == 1
        && (decide (q < 8192) || w2 / 2048 % 2 == 1)
      if ok then some d else none

def qWord2 (d : List Word) : Nat := (d.getD 2 0).toNat
def qPart (d : List Word) : Nat := qWord2 d / 2 ^ 24
def qDevq (d : List Word) : Bool := qWord2 d / 2048 % 2 == 1
def qStopped (d : List Word) : Bool := qWord2 d / 1024 % 2 == 1
def qPriv (d : List Word) : Bool := qWord2 d / 512 % 2 == 1
def qSize (d : List Word) : Nat := 2 ^ (qWord2 d % 32)
def qRing (d : List Word) : DWord := pairOf (d.getD 0 0) (d.getD 1 0)
def qRd (d : List Word) : DWord := pairOf (d.getD 4 0) (d.getD 5 0)
def qWr (d : List Word) : DWord := pairOf (d.getD 6 0) (d.getD 7 0)

/-- Write bytes of a descriptor; a write that fails is dropped. -/
def State.qPut (s : State) (q off : Nat) (bs : List Byte) : State :=
  (s.privWrite (s.qtBase q + 64 * q + off) bs).getD s
/-- A stopped queue stays halted until a doorbell finds STOPPED clear (R270). -/
def State.haltQueue (s : State) (q : Nat) : State :=
  { s with front := { s.front with halted := q :: s.front.halted.filter (· != q) } }
def State.restartQueue (s : State) (q : Nat) : State :=
  { s with front := { s.front with halted := s.front.halted.filter (· != q) } }
/-- The queue stops (R270): STOPPED, ERRCODE and ERRVAL. -/
def State.qStop (s : State) (q : Nat) (d : List Word) (code : Nat) (val : DWord) : State :=
  let s := s.qPut q 8 (bytes32 (d.getD 2 0 ||| 0x400#32))
  let s := s.qPut q 32 (bytes32 (BitVec.ofNat 32 code))
  (s.qPut q 40 (bytes64 val)).haltQueue q

/-- The ring address of an index. -/
def qSlotAddr (d : List Word) (i : DWord) : DWord := qRing d + BitVec.ofNat 64 (64 * (i.toNat % qSize d))

/-! ### Queue slots (R272) -/

def State.setFront (s : State) (f : Front → Front) : State := { s with front := f s.front }

/-- The slots, with FESTATUS following them (R266). -/
def State.setSlots (s : State) (t : Tab Slot) : State :=
  (s.setFront fun f => { f with slots := t }).setReg 0x18
    (BitVec.ofNat 32 (t.length + if t.isEmpty then 0 else 256))

/-- The lowest free slot of 128. -/
def freeSlot (t : Tab Slot) : Nat → Nat → Option Nat
  | _, 0 => none
  | i, n + 1 => if (Tab.get? t i).isNone then some i else freeSlot t (i + 1) n

/-- A queue has records that have not been read. -/
def State.unread (s : State) (q : Nat) : Bool :=
  !(Tab.getD s.front.requeue q []).isEmpty
    || match s.qdesc q with
       | some d => qRd d != qWr d
       | none => false

/-- A queue takes a slot. -/
def State.mapSlot (s : State) (n q : Nat) : State :=
  s.setSlots (Tab.set s.front.slots n { tabs := s.tables, queue := q, last := s.nanos, head := none, goes := false, given := none, taken := 0 })

/-- A slot is given up: a head that was read goes back to the front of its queue, to become ready anew, and a queue that
holds unread records joins the rescan list if `rescan` says so (R272). An arbiter that served its client decides anew (R275). -/
def State.freeSlotOf (s : State) (n : Nat) (rescan : Bool) : State :=
  match Tab.get? s.front.slots n with
  | none => s
  | some sl =>
    let s := match sl.head with
      | some lid => (s.setFront fun f =>
          { f with requeue := Tab.set f.requeue sl.queue (lid :: Tab.getD f.requeue sl.queue []) }).updLaunch lid fun l =>
            { l with ready := false }
      | none => s
    let s := s.setSlots (Tab.erase s.front.slots n)
    let s := s.setFront fun f => { f with serving := f.serving.filter fun e => e.2 != .slot n }
    let s := if rescan && s.unread sl.queue then s.setFront fun f => { f with rescan := f.rescan ++ [sl.queue] } else s
    s

/-- The rescan list's head takes a free slot. -/
def State.takeRescan (s : State) (n : Nat) : State :=
  match s.front.rescan with
  | q :: rest => (s.setFront fun f => { f with rescan := rest }).mapSlot n q
  | [] => s

/-- The slot whose last signal is oldest, ties to the lower number. -/
def oldestSlot (t : Tab Slot) : Option Nat :=
  (t.foldl (fun (b : Option (Nat × Nat)) e => match b with
    | some (l, _) => if e.2.last < l then some (e.2.last, e.1) else b
    | none => some (e.2.last, e.1)) none).map (·.2)

/-- A queue takes the slot whose last signal is oldest. -/
def State.evictFor (s : State) (sl : Slot) : State :=
  match oldestSlot s.front.slots with
  | some n => let s := s.freeSlotOf n true; s.setSlots (Tab.set s.front.slots n sl)
  | none => s

/-- A signal to a queue (R272): its slot notes the time, or it is mapped, evicting the oldest slot when none is free. Of queues
signalled in one cycle the lower number takes the slot that was free, whichever signal came first (R292). -/
def State.signal (s : State) (q : Nat) : State :=
  match s.slotOf q with
  | some (n, sl) => s.setSlots (Tab.set s.front.slots n { sl with last := s.nanos })
  | none =>
    let s := s.setFront fun f => { f with rescan := f.rescan.filter (· != q) }
    match freeSlot s.front.slots 0 128 with
    | some n =>
      let s := s.mapSlot n q
      s.setSlots (Tab.upd s.front.slots n fun x => { x with taken := s.cycles })
    | none =>
      let new : Slot := { tabs := s.tables, queue := q, last := s.nanos, head := none, goes := false, given := none, taken := 0 }
      match s.front.slots.find? fun e => e.2.taken == s.cycles && decide (q < e.2.queue) && e.2.head.isNone with
      | some (n, sl) =>
        (s.setSlots (Tab.set s.front.slots n { new with taken := s.cycles })).evictFor { sl with taken := 0 }
      | none => s.evictFor new

/-- A signal store of V to a queue that exists (R269, R270): it restarts the queue if STOPPED has been cleared. -/
def State.signalStore (s : State) (q : Nat) (d : List Word) (v : DWord) : State :=
  let s := (s.signal q).privFill (s.qtBase q + 64 * q)
  if qStopped d then s.haltQueue q
  else
  let s := s.restartQueue q
  if v = qWr d ∨ 2 ^ 63 ≤ (v - qWr d).toNat then s
  else if qSize d < (v - qRd d).toNat then s.qStop q d 1 v
  else s.qPut q 24 (bytes64 v)

/-- A doorbell of V: a queue that does not exist, or that only ENQ feeds, ignores it. -/
def State.judgeDoorbell (s : State) (q : Nat) (v : DWord) : State :=
  match s.qdesc q with
  | none => s
  | some d => if qDevq d then s else s.signalStore q d v

/-- DOORBELL_SIGNAL (R267, R269): an 8-byte write, or the high half that joins the latch; either empties the latch. -/
def execDoorbellSignal (q : Nat) (w : DoorbellWrite) (s : State) : Host.Outcome State Fault Refusal :=
  .next (if !s.isReady || decide (8192 ≤ q) then s
    else
      let s' := s.setFront fun f => { f with latch := Tab.erase f.latch q }
      match w with
      | .full v => s'.judgeDoorbell q v
      | .high hi => match Tab.get? s.front.latch q with
        | some (lo, t) => if t + 10000 < s.nanos then s' else s'.judgeDoorbell q (pairOf lo hi)
        | none => s)

/-- DOORBELL_LOW_HALF (R267). -/
def execDoorbellLowHalf (q : Nat) (v : Word) (s : State) : Host.Outcome State Fault Refusal :=
  .next (if !s.isReady || decide (8192 ≤ q) then s
    else s.setFront fun f => { f with latch := Tab.set f.latch q (v, s.nanos) })

/-- DOORBELL_LATCH_EXPIRY (R267): a low half held for more than 10 µs is discarded. -/
def execDoorbellLatchExpiry (q : Nat) (s : State) : Host.Outcome State Fault Refusal :=
  .next (match Tab.get? s.front.latch q with
    | some (_, t) => if t + 10000 < s.nanos then s.setFront fun f => { f with latch := Tab.erase f.latch q } else s
    | none => s)

/-- QUEUE_IDLE_UNMAP (R272): a queue with no unread records and no signal for QIDLE µs is unmapped. -/
def execQueueIdleUnmap (slot : Nat) (s : State) : Host.Outcome State Fault Refusal :=
  .next (match Tab.get? s.front.slots slot with
    | some sl =>
      if sl.head.isNone && !s.unread sl.queue && decide (sl.last + s.qIdle.toNat * 1000 ≤ s.nanos) then
        (s.freeSlotOf slot false).takeRescan slot
      else s
    | none => s)

/-! ### Registers without a behaviour of their own (R7, R8, R266, R297, R313, R335, R361, R377) -/

/-- A register's new value on a write of `v`, or none where the write is ignored. A write of FAULTTO, MIGPOOLN or GRPCOUNT
outside its range leaves the register as it is, as R266 says of QTCOUNT: R313 says nothing of it (DESIGN CHOICE, log 70). -/
def regWrite (off : Nat) (v : Word) (old : Word) : Option Word :=
  let hi25 := v &&& 0x1FFFFFF#32
  let n := v.toNat
  if off = 0 then some (v &&& 0xFFFFFFC0#32)
  else if off = 4 ∨ off = 0x14 ∨ off = 0x804 then some hi25
  else if off = 8 then (if n ≤ 65536 then some v else none)
  else if off = 0xC then (if n ≤ 1048576 then some v else none)
  else if off = 0x10 then some (v &&& 0xFFFFFFE0#32)
  else if 0x400 ≤ off ∧ off < 0x600 then
    match off % 32 with
    | 0xC => some (v &&& 0xF8000000#32)
    | 0x10 => some hi25
    | 0x14 => some (v &&& 0x3FF#32)
    | _ => none
  else if off = 0x800 then some (v &&& 0xFFFFC000#32)
  else if off = 0x810 then (if 1 ≤ n ∧ n ≤ 86400 then some v else none)
  else if off = 0x814 then (if 2 ≤ n ∧ n ≤ 255 then some v else none)
  else if off = 0x20000 then some (v &&& 0xFFFFFFC0#32)
  else if off = 0x20004 then some hi25
  else if off = 0x20008 then some (v &&& 0xFF#32)
  else if 0x30000 ≤ off ∧ off < 0x30100 then
    match off % 16 with
    | 0 => some (v &&& 0xFFFFF000#32)
    | 4 => some hi25
    | 8 => some (v &&& 0x8000FFFF#32)
    | _ => none
  else if off = 0x30100 then some (v &&& 0xFFFE0000#32)
  else if off = 0x30104 ∨ off = 0x30114 ∨ off = 0x30134 ∨ off = 0x30154 ∨ off = 0x30164 then some hi25
  else if off = 0x3010C then (if 1 ≤ n ∧ n ≤ 60000 then some v else some old)
  else if off = 0x30110 then some (v &&& 0xFFFFFFFC#32)
  else if off = 0x30118 then (if n ≤ 8388608 then some v else some old)
  else if off = 0x30120 then some (v &&& 0x7FFFFF#32)
  else if off = 0x30124 then some (v &&& 0xFFFFFF#32)
  else if off = 0x30130 then some (v &&& 0xFFFF0000#32)
  else if off = 0x30138 then some v
  else if off = 0x30150 then some (v &&& 0xFFFFFC00#32)
  else if off = 0x30158 then (if n ≤ 65536 then some v else some old)
  else if off = 0x30160 then some (v &&& 0xFFFFF000#32)
  else if 0x30200 ≤ off ∧ off < 0x30300 then
    match off % 16 with
    | 0 => some (v &&& 0xFFFF0000#32)
    | 4 => some hi25
    | 8 => some (v &&& 0x3F#32)
    | _ => none
  else if 0x40000 ≤ off ∧ off < 0x40400 then
    match off % 16 with
    | 0 => some (v &&& 0xFFFFFFFC#32)
    | 12 => some (v &&& 1#32)
    | _ => some v
  else if off = 0x50004 then some (v &&& 0xFFFF00FF#32)
  else if off = 0x50008 then some v
  else none

/-- A range of BAR 0 that ignores writes until READY (R383). -/
def gated (off : Nat) : Bool := decide (off < 0x800) || (decide (0x10000 ≤ off) && decide (off < 0x40000))

/-- MBDOOR (R377): the command that the registers hold enters the host's mailbox, which is BUSY from then on. -/
def State.mbSubmit (s : State) : State :=
  let len := (s.reg 0x50004).toNat / 65536
  let cmd : Cmd :=
    { master := .host, opcode := (s.reg 0x50004).toNat % 256, seq := s.reg 0x50008,
      payload := listGen (fun i => Tab.getD s.fw.data i 0) (min len 4096), judged := if 4096 < len then 2 else 0, at_ := s.cycles }
  { s.setReg 0x5000C (s.reg 0x5000C ||| 0x80000000) with fw := { s.fw with mbHost := some cmd } }

/-- A vector of the MSI-X table that is no longer masked is signalled if it is pending (R312; PRESUMED, log 4). -/
def State.unmask (s : State) (off : Nat) : State :=
  let v := (off - 0x40000) / 16
  if 0x40000 ≤ off ∧ off < 0x40400 ∧ s.front.pending.contains v ∧ (s.reg (0x4000C + 16 * v)).getLsbD 0 = false then
    (s.setFront fun f => { f with pending := f.pending.filter (· != v) }).emit (.msix v)
  else s

/-- HOST_REGISTER_WRITE (R7, R8, R312): a register that has no behaviour of its own takes the value it can hold. MBDATA is
4 KiB of bytes; the mailbox registers ignore writes while BUSY (R377), the error-log base while records are unread
(R361). The windows that ended before a write of CEWIN close first (R362). -/
def execHostRegisterWrite (off : Nat) (v : Word) (s : State) : Host.Outcome State Fault Refusal :=
  let mbBusy := (s.reg 0x5000C).getLsbD 31
  let s := if off = 0x810 then s.closeWindows else s
  .next (if gated off && !s.isReady then s
    else if 0x51000 ≤ off ∧ off < 0x52000 then
      if mbBusy then s
      else { s with fw := { s.fw with
              data := (listGen (fun i => i) 4).foldl (fun t i =>
                Tab.set t (off - 0x51000 + i) ((bytes32 v).getD i 0)) s.fw.data } }
    else if off = 0x50000 then (if v = 1 ∧ !mbBusy then s.mbSubmit else s)
    else if (off = 0x50004 ∨ off = 0x50008) ∧ mbBusy then s
    else if (off = 0x800 ∨ off = 0x804) ∧ s.reg 0x808 ≠ s.reg 0x80C then s
    else match regWrite off v (s.reg off) with
      | some x => (s.setReg off x).unmask off
      | none => s)

/-! ### Work objects (R285) and completion (R282, R283) -/

/-- An entry of the work-object table. -/
def State.workObjIn (s : State) (t : Tables) (i : Nat) : Option (List Word) :=
  if i = 0 ∨ t.wn ≤ i then none
  else match s.privRead (t.wo + 32 * i) 32 with
    | some bs =>
      let w := wordsOf 8 bs
      if (w.getD 0 0).toNat / 512 = 0 ∧ (w.getD 0 0).toNat / 4 % 64 = 0 then some w else none
    | none => none
def State.workObj (s : State) (i : Nat) : Option (List Word) := s.workObjIn s.tables i
def objLevel (w : List Word) : Nat := (w.getD 0 0).toNat % 4
def objCancelled (w : List Word) : Bool := (w.getD 0 0).getLsbD 8
def objOwner (w : List Word) : Word := w.getD 1 0

/-- The entry that a field of a record names is a valid object of its level and of the record's job (R274, code 2). -/
def State.objOkIn (s : State) (t : Tables) (level : Nat) (i job : Word) : Option (List Word) :=
  match s.workObjIn t i.toNat with
  | some w => if objLevel w = level ∧ objOwner w = job then some w else none
  | none => none
def State.objOk (s : State) (level : Nat) (i job : Word) : Option (List Word) := s.objOkIn s.tables level i job
/-- The tables that a launch's objects stand in: those of its queue. -/
def State.tablesFor (s : State) (l : Launch) : Tables :=
  match l.queue with
  | some q => s.tablesOf q
  | none => s.tables

/-- GRAPH, PHASE and JOB of a record with their levels. -/
def Launch.objects (l : Launch) : List (Nat × Word) := [(1, l.recW 9), (2, l.recW 10), (3, l.recW 11)]

/-- The counters of a launch's valid objects rise by one (R282). -/
def State.countObjects (s : State) (l : Launch) : State :=
  l.objects.foldl (fun s (x : Nat × Word) =>
    if x.2 = 0 then s
    else match s.objOkIn (s.tablesFor l) x.1 x.2 (l.recW 11) with
      | some w =>
        let a := pairOf (w.getD 2 0) (w.getD 3 0)
        if a = 0 then s else s.hubAdd64 l.part a 1
      | none => s) s

/-- The head launch of a client. -/
def Front.headOf (f : Front) (c : Client) : Option Nat :=
  match c with
  | .slot n => (Tab.getD f.slots n default).head
  | .node g n => (Tab.getD f.nodes (g * 65536 + n) default).head

/-- What a launch's client lets go of: the slot's head, or the node's; the arbiter that served it decides anew (R275). -/
def State.dropHead (s : State) (lid : Nat) : State :=
  s.setFront fun f =>
    { f with
        serving := f.serving.filter fun e => f.headOf e.2 != some lid
        rebound := f.rebound.filter (· != lid)
        slots := f.slots.map fun e => (e.1, if e.2.head = some lid then { e.2 with head := none, goes := false } else e.2)
        nodes := f.nodes.map fun e => (e.1, if e.2.head = some lid then { e.2 with head := none } else e.2)
        requeue := f.requeue.map fun e => (e.1, e.2.filter (· != lid)) }

/-- The serving client of a partition's arbiter is done with. -/
def State.unserve (s : State) (part : Nat) : State :=
  s.setFront fun f => { f with serving := Tab.erase f.serving part }

/-- Words 2 to 15 of the completion block (R283). Where software has written the block while the launch ran, word 3 is
undefined (R284). -/
def completionWords (l : Launch) (outcome reject : Nat) (cause : BitVec 8) (addr : DWord) : List Word :=
  let st := l.stop.getD { cause, cause2 := 0, who := 0, tpc := 0, addr }
  let eng := match l.eng with
    | some e => (e.cause.toNat, e.addr.setWidth 32)
    | none => (0, 0)
  [BitVec.ofNat 32 (reject * 2 ^ 24 + st.cause2.toNat * 2 ^ 16 + st.cause.toNat * 256 + outcome),
   BitVec.ofNat 32 l.teams, st.who, st.tpc, st.addr.setWidth 32, (st.addr >>> 32).setWidth 32, l.num, l.hintmiss,
   BitVec.ofNat 32 (min 255 l.engMore * 256 + eng.1), eng.2,
   BitVec.ofNat 32 ((if l.again then 32 else 0) + (if l.emul then 16 else 0) + l.target), 0, 0, 0]

/-- A core is rid of a launch (R282): its allocations, its agents and its threads. -/
def Core.release (k : Core) (lid : Nat) : Core :=
  { k.discard lid with
      res := Tab.erase k.res lid
      agents := k.agents.filter fun e => e.2.lid != lid
      threads := k.threads.filter fun e => e.2.lid != lid
      copies := k.copies.map fun e => (e.1, if e.2.lid = lid then { e.2 with live := false, landed := true } else e.2)
      queue := k.queue.filter fun m => m.lid != lid
      gather := match k.gather with
        | some m => if m.lid = lid then none else some m
        | none => none }

/-- Discarded images go once no launch is bound to them (R303). -/
def State.dropDoomed (s : State) : State :=
  { s with front := { s.front with cache := s.front.cache.filter fun x => !(x.doomed && !s.keyBound x) } }

def State.releaseLaunch (s : State) (lid : Nat) : State :=
  (s.launchD lid).cores.foldl (fun s c => s.updCore c fun k => k.release lid) s

/-- Every agent that waits for one thing goes on. -/
def State.wakeAll (s : State) (w : Wait) : State :=
  { s with cores := s.cores.mapVals fun _ k =>
      { k with agents := k.agents.mapVals fun _ a => if a.wait = some w then { a with wait := none } else a } }

/-- A launch completes (R282): words 2 to 15, DONE, the objects' counters, then the release of its allocations. -/
def State.completeLaunch (s : State) (lid outcome reject : Nat) (cause : BitVec 8) (addr : DWord) : State :=
  let l := s.launchD lid
  let s := match l.compl with
    | some a =>
      let s := s.hubWriteD l.part (a + 8) (bytesOfWords (completionWords l outcome reject cause addr))
      let s := if l.doneNew then s.doneUndef l else s
      if l.doneNew && Config.doneLost s.tick then s else s.hubAdd64 l.part a 1
    | none => s
  let s := s.countObjects l
  let s := s.releaseLaunch lid
  let s := s.dropHead lid
  let s := match l.node with
    | some (g, n, b) => (s.setFront fun f =>
        { f with nodes := Tab.upd f.nodes (g * 65536 + n) fun x => { x with busy := x.busy.filter (· != b) } }).wakeAll .node
    | none => s
  { s with launches := Tab.erase s.launches lid }.dropDoomed

/-- A launch is rejected (R274). -/
def State.rejectLaunch (s : State) (lid code : Nat) (cause : BitVec 8) (addr : DWord) : State :=
  s.completeLaunch lid 3 code cause addr

/-! ### Reading records (R273, R274) -/

/-- Check 1 of R274. -/
def recordOk (w : List Word) : Bool :=
  let g := fun i => (w.getD i 0).toNat
  g 0 / 2 % 32 == 0 && g 3 / 2 ^ 25 == 0 && g 15 == 0 && g 3 / 256 % 256 != 0
    && g 4 % 128 == 0 && g 6 % 64 == 0 && g 12 % 8 == 0

/-- Check 2 of R274. -/
def State.objectsOk (s : State) (l : Launch) : Bool :=
  l.objects.all fun x => x.2 == 0 || (s.objOkIn (s.tablesFor l) x.1 x.2 (l.recW 11)).isSome

/-- Some object of the launch is cancelled (R286). -/
def State.objectCancelled (s : State) (l : Launch) : Bool :=
  l.objects.any fun x => x.2 != 0 && (match s.workObjIn (s.tablesFor l) x.2.toNat with
    | some w => objCancelled w
    | none => false)

/-- A launch of a record, waiting at the head of its queue or node. -/
def newLaunch (recw : List Word) (part : Nat) (priv : Bool) (queue : Option Nat) (node : Option (Nat × Nat × Nat)) :
    Launch :=
  { rec_ := recw, hdrAddr := pairOf (recw.getD 0 0) (recw.getD 1 0) &&& 0xFFFFFFFFFFFFFFC0#64, hdr := [], part, priv, queue,
    node, st := .head, ready := false, target := 0, emul := false, cores := [], codeBase := 0, codeSize := 0,
    patches := [], k := [], num := 0, hintmiss := 0, tframe := 0, racectl := 0, was := none, racelog := 0, lep := 1, acqs := [], argNew := false, doneNew := false, key := 0,
    relocs := [], waits := false, teams := 0,
    cancelled := false, stop := none, again := false, eng := none, engMore := 0 }

/-- TICKETS, PRIO and the stride of a launch (R273, R275). -/
def Launch.tickets (l : Launch) : Nat := (l.recW 3).toNat / 256 % 256
def Launch.prio (l : Launch) : Nat := (l.recW 3).toNat % 256
def Launch.stride (l : Launch) : DWord := BitVec.ofNat 64 (2 ^ 20 / max 1 l.tickets)

/-- The key under which a client's PASS is kept. -/
def State.passKey (s : State) (c : Client) : Nat :=
  match c with
  | .slot n => (Tab.getD s.front.slots n default).queue
  | .node g n => 2 ^ 32 + g * 65536 + n
def State.passOf (s : State) (c : Client) : DWord := Tab.getD s.front.pass (s.passKey c) 0
def State.setPass (s : State) (c : Client) (v : DWord) : State :=
  s.setFront fun f => { f with pass := Tab.set f.pass (s.passKey c) v }

/-- The head launch of a client. -/
def State.headOf (s : State) (c : Client) : Option Nat := s.front.headOf c

/-- A client's queue is stopped (R270). -/
def State.clientStopped (s : State) (c : Client) : Bool :=
  match c with
  | .slot n =>
    let q := (Tab.getD s.front.slots n default).queue
    s.front.halted.contains q || (match s.qdesc q with
      | some d => qStopped d
      | none => false)
  | .node _ _ => false

/-- The clients of the arbiter in the order that decides ties: slots, then nodes (R275). -/
def State.clients (s : State) : List Client :=
  s.front.slots.map (fun e => .slot e.1) ++ s.front.nodes.map fun e => .node (e.1 / 65536) (e.1 % 65536)

/-- The ready clients of a partition with their head launches. -/
def State.readyClients (s : State) (part : Nat) : List (Client × Nat × Launch) :=
  s.clients.filterMap fun c => match s.headOf c with
    | some lid => match s.launch? lid with
      | some l => if l.part = part && l.ready then some (c, lid, l) else none
      | none => none
    | none => none

/-- A head becomes ready (R275): its PASS is raised to the least of the other ready clients of its class. -/
def State.makeReady (s : State) (c : Client) (lid : Nat) : State :=
  let l := s.launchD lid
  let others := (s.readyClients l.part).filter fun x => x.1 != c && x.2.2.prio == l.prio
  let g := others.foldl (fun (m : Option DWord) x => match m with
    | some v => some (if (s.passOf x.1).toNat < v.toNat then s.passOf x.1 else v)
    | none => some (s.passOf x.1)) none
  let keep := match c with
    | .slot n => (Tab.getD s.front.slots n default).goes
    | .node _ _ => false
  let s := match g with
    | some g => if !keep && decide ((s.passOf c).toNat < g.toNat) then s.setPass c g else s
    | none => s
  s.updLaunch lid fun l => { l with ready := true }

/-- A head is not ready when it is read, so its queue becomes ready anew (R275). -/
def State.notReady (s : State) (c : Client) : State :=
  match c with
  | .slot n => s.setFront fun f => { f with slots := Tab.upd f.slots n fun x => { x with goes := false } }
  | .node _ _ => s

/-- The dependence counter of a head is read (R275): it makes the launch ready, or rejects it with code 7. A bound launch
that has left the arbiter does not become ready while its queue is stopped. -/
def State.readDependence (s : State) (c : Client) (lid : Nat) : State :=
  let l := s.launchD lid
  let a := l.rec64 12
  if l.ready || (l.st == .bound && s.clientStopped c) then s
  else if a = 0 then s.makeReady c lid
  else match s.hubRead l.part a 8 with
    | (s, .error e) => s.rejectLaunch lid 7 e a
    | (s, .ok bs) => if (l.recW 14).toNat ≤ (word64 bs).toNat then s.makeReady c lid else s.notReady c

/-- A launch stands at the head of a slot. -/
def State.setHead (s : State) (slot lid : Nat) : State :=
  s.setSlots (Tab.upd s.front.slots slot fun x => { x with head := some lid })

/-- The checks of R274 on a head that has just been read, and R286. -/
def State.checkHead (s : State) (c : Client) (lid : Nat) : State :=
  let l := s.launchD lid
  let s := l.objects.foldl (fun s x => if x.2 = 0 then s else s.privFill ((s.tablesFor l).wo + 32 * x.2.toNat)) s
  if !recordOk l.rec_ then s.rejectLaunch lid 1 0 0
  else if !s.objectsOk l then s.rejectLaunch lid 2 0 0
  else if s.objectCancelled l then s.completeLaunch lid 1 0 0 0
  else s.readDependence c lid

/-- A launch enters the table. -/
def State.addLaunch (s : State) (l : Launch) : State × Nat :=
  ({ s with launches := Tab.set s.launches s.nextLid l, nextLid := s.nextLid + 1 }, s.nextLid)

/-- The record of an index of a slot's queue: as an ENQ handed it over, when the ring is not read (R281), or the ring's. -/
def State.readRecord (s : State) (sl : Slot) (d : List Word) : State × Except (BitVec 8) (List Word) :=
  match sl.given with
  | some (i, ws) => if i = qRd d then (s, .ok ws) else match s.hubRead (qPart d) (qSlotAddr d (qRd d)) 64 with
    | (s, r) => (s, r.map (wordsOf 16))
  | none => match s.hubRead (qPart d) (qSlotAddr d (qRd d)) 64 with
    | (s, r) => (s, r.map (wordsOf 16))

/-- LAUNCH_RECORD_READ (R269, R270, R274, R281): the head record of a slot's queue is read and checked, and RDIDX advances;
a rebound or set-aside launch of the queue comes first. -/
def execLaunchRecordRead (slot : Nat) (s : State) : Host.Outcome State Fault Refusal :=
  .next (match Tab.get? s.front.slots slot with
    | none => s
    | some sl =>
      if sl.head.isSome then s
      else match Tab.getD s.front.requeue sl.queue [] with
        | lid :: rest =>
          let s := s.setFront fun f => { f with requeue := Tab.set f.requeue sl.queue rest }
          let s := s.setHead slot lid
          if s.objectCancelled (s.launchD lid) || (s.launchD lid).cancelled then s.completeLaunch lid 1 0 0 0
          else s.readDependence (.slot slot) lid
        | [] => match s.qdesc sl.queue with
          | none => s
          | some d =>
            if qStopped d then s.haltQueue sl.queue
            else if s.front.halted.contains sl.queue ∨ qRd d = qWr d then s
            else
              let at_ := qSlotAddr d (qRd d)
              match s.readRecord sl d with
              | (s, .error _) => s.qStop sl.queue d 2 at_
              | (s, .ok ws) =>
                let s := s.qPut sl.queue 16 (bytes64 (qRd d + 1))
                let (s, lid) := s.addLaunch (newLaunch ws (qPart d) (qPriv d) (some sl.queue) none)
                let at_ := (sl.queue, (qRd d).toNat)
                let s := s.setHead slot lid
                if s.front.cancelled.contains at_ then
                  (s.setFront fun f => { f with cancelled := f.cancelled.filter (· != at_) }).completeLaunch lid 1 0 0 0
                else s.checkHead (.slot slot) lid)

/-- DEPENDENCE_READ (R275). -/
def execDependenceRead (slot : Nat) (s : State) : Host.Outcome State Fault Refusal :=
  .next (match s.headOf (.slot slot) with
    | some lid => s.readDependence (.slot slot) lid
    | none => s)

/-! ### Arbitration, binding and placement -/

/-- A client goes before another (R275): the lower PRIO, then the lower PASS; ties keep the earlier. -/
def State.beats (s : State) (x y : Client × Nat × Launch) : Bool :=
  decide (x.2.2.prio < y.2.2.prio) || (x.2.2.prio == y.2.2.prio && decide ((s.passOf x.1).toNat < (s.passOf y.1).toNat))

/-- A launch of a partition that was rebound before this one, is of its class and is ready goes first (R291, DEDUCED, log 70). -/
def State.outOfTurn (s : State) (x : Client × Nat × Launch) : Bool :=
  let ahead := s.front.rebound.takeWhile (· != x.2.1)
  s.front.rebound.contains x.2.1 && (s.readyClients x.2.2.part).any fun y => ahead.contains y.2.1 && y.2.2.prio == x.2.2.prio

/-- A served launch whose queue has stopped while it waits to be placed leaves the arbiter; it stays bound, and its queue's
head (R275). -/
def State.leaveStopped (s : State) (part : Nat) (c : Client) (lid : Nat) : State :=
  if s.clientStopped c then
    let s := match c with
      | .slot n => s.haltQueue (Tab.getD s.front.slots n default).queue
      | .node _ _ => s
    (((s.updLaunch lid fun l => { l with ready := false, waits := false }).notReady c).unserve part)
  else s

/-- ARBITER_DECISION (R275): one decision at a time; a client whose launch has gone gives way. -/
def execArbiterDecision (part : Nat) (s : State) : Host.Outcome State Fault Refusal :=
  let s := match (s.readyClients part).find? fun x => Tab.get? s.front.serving part == some x.1 && x.2.2.waits with
    | some (c, lid, _) => s.leaveStopped part c lid
    | none => s
  let held := match Tab.get? s.front.serving part with
    | some c => (s.readyClients part).any fun x => x.1 == c
    | none => false
  .next (if held then s
    else match ((s.readyClients part).filter fun x => !s.outOfTurn x).foldl (fun (b : Option (Client × Nat × Launch)) x => match b with
        | some y => if s.beats x y then some x else b
        | none => some x) none with
      | some (c, _, _) => s.setFront fun f => { f with serving := Tab.set f.serving part c }
      | none => s.unserve part)

/-- The launch that a partition's arbiter serves. -/
def State.served (s : State) (part : Nat) : Option (Client × Nat × Launch) :=
  match Tab.get? s.front.serving part with
  | some c => (s.readyClients part).find? fun x => x.1 == c
  | none => none

/-- The contract word of a header (R82). -/
def Launch.contract (l : Launch) : Nat := (l.hdrW 0).toNat / 65536
def Launch.fmtA (l : Launch) : Nat := l.contract / 16 % 32
def Launch.fmtB (l : Launch) : Nat := l.contract / 512 % 32
def Launch.class_ (l : Launch) : Nat := l.contract % 16
def Launch.policy (l : Launch) : Nat := l.contract / 16384

/-- The checks of R82 and R83 on a header at an address. -/
def headerOk (h : List Word) : Bool :=
  let g := fun i => (h.getD i 0).toNat
  let level := g 0 % 16
  let compat := g 0 / 16 % 2
  let teamw := g 0 / 256 % 4
  let age := g 4 % 2048
  let tiles := (List.range 256).all fun p => !(h.getD (8 + p / 32) 0).getLsbD (p % 32) || decide (4096 * p < g 6)
  g 0 / 1024 % 64 == 0 && g 0 / 2 ^ 30 != 3 && decide (g 0 / 65536 % 16 ≤ 4) && teamw != 3
    && (level == 2 || level == 3) && (compat == 1) == (level == 2) && (compat == 0 || teamw == 0)
    && g 1 % 16 == 0 && g 2 % 16 == 0 && g 3 % 16 == 0
    && g 4 / 2048 == 0 && (age == 0 || (decide (16 ≤ age) && decide (age ≤ 1024)))
    && g 5 / 8192 == 0 && g 5 / 128 % 2 == 0 && decide (g 5 / 256 ≤ 16) && decide (g 5 % 128 ≤ 64)
    && g 6 % 4096 == 0 && decide (g 6 ≤ 1048576)
    && g 7 / 32768 == 0 && g 7 / 32 % 8 == 0 && decide (g 7 / 256 ≤ 64) && decide (g 7 % 32 ≤ 16) && tiles

/-- The formats of each class (R41). -/
def rowA (cls f : Nat) : Bool :=
  match cls with
  | 0 => f == 0
  | 1 => f == 17 || f == 18 || f == 26
  | 2 => (decide (3 ≤ f) && decide (f ≤ 12)) || (decide (19 ≤ f) && decide (f ≤ 25)) || decide (28 ≤ f)
  | 3 => decide (f ≤ 2)
  | 4 => f == 15 || f == 16 || f == 27
  | _ => false
def rowB (cls f : Nat) : Bool := rowA cls f || (cls == 4 && (f == 8 || f == 9 || f == 10))

/-- The targets to try, in order; 0 is vector sequences, or the pool of a vector-only contract (R277). -/
def candidates (policy cls : Nat) : List Nat :=
  let all := match cls with
    | 0 => [0]
    | 3 => [3, 0]
    | 4 => [4, 2, 3, 0]
    | c => [c, 3, 0]
  if cls = 0 then [0]
  else match policy with
    | 0 => all
    | 1 => [cls]
    | _ => all.filter (· != cls)

/-- The chiplets of a partition that are in service (R335, R361). -/
def State.chiplets (s : State) (part : Nat) : List Nat :=
  (List.range 10).filter fun c => (s.reg (0x400 + 32 * part)).getLsbD c && (s.reg 0x818).getLsbD c

/-- The chiplets that a target may use. -/
def State.targetChips (s : State) (part target : Nat) : List Nat :=
  (s.chiplets part).filter fun c => target == 0 || classOf c == target

/-- The image whose CODE section holds a header (R305). -/
def State.imageFor (s : State) (part : Nat) (hdr : DWord) : Option Image :=
  (s.front.images.find? fun e => e.2.part == part && decide (e.2.code ≤ hdr.toNat)
    && decide (hdr.toNat + 64 ≤ e.2.code + e.2.size)).map (·.2)

/-- The key of a translated image (R301): 128 bits of SHA-512 over the CODE bytes, the binder version, the feature
vector of the target, the microcode revision and the numeric-behaviour version. -/
def State.imageKey (s : State) (im : Image) (target : Nat) (emul : Bool) : BitVec 128 :=
  let vec := target + (if emul then 16 else 0) + 7 * 32
  let h := sha512 (im.bytes ++ bytes32 (Config.binderVersion s.fw.bank) ++ bytesLE 8 vec
    ++ bytes32 (Config.mcRevision s.fw.bank) ++ bytes32 1)
  BitVec.ofNat 128 (ofBytesBE (h.take 16))

/-- An entry matches a launch when its whole key and the length of its CODE section both match (R301). -/
def Transl.is (x : Transl) (key : BitVec 128) (size : Nat) : Bool := x.key == key && x.size == size

/-- The bytes of an entry with its relocated copies, one for each chiplet of each set of cores (R300, R303). -/
def Transl.bytes (x : Transl) : Nat := x.size * (1 + (x.copies.map fun cs => (cs.map chipOf).eraseDups.length).sum)

/-- The cache with room for so many bytes more: the least recently placed go, but for those that a launch is bound to (R303). -/
def State.evict (s : State) (need : Nat) : Nat → List Transl → List Transl
  | 0, xs => xs
  | n + 1, xs =>
    if xs.foldl (fun m x => m + x.bytes) need ≤ 2 ^ 28 then xs
    else match xs.find? fun x => !s.keyBound x with
      | some x => s.evict need n (xs.filter fun y => !y.is x.key x.size)
      | none => xs

/-- A translated image enters the cache unless it is there (R301, R303). -/
def State.cacheImage (s : State) (e : Transl) : State :=
  if s.front.cache.any fun x => x.is e.key e.size then
    s.setFront fun f => { f with cache := f.cache.map fun x => if x.is e.key e.size then { x with doomed := false } else x }
  else { s with front := { s.front with cache := s.evict e.bytes s.front.cache.length s.front.cache ++ [e] } }

/-- A placement uses a translated image (R303). One that is rewritten for its cores leaves a relocated copy for that set of
cores, of the 16 sets used last; which sets stay is not said (DESIGN CHOICE, log 57). -/
def State.touchImage (s : State) (l : Launch) (cores : List Nat) : State :=
  let own := s.front.cache.filter fun x => x.is l.key l.codeSize
  let own := if l.relocs.isEmpty then own
    else own.map fun x => { x with copies := (cores :: x.copies.filter (· != cores)).take 16 }
  let rest := s.front.cache.filter fun x => !x.is l.key l.codeSize
  s.setFront fun f => { f with cache := s.evict ((own.map Transl.bytes).sum) rest.length rest ++ own }

/-- CORES of a record (R273). -/
def Launch.ncores (l : Launch) : Nat :=
  let c := (l.recW 3).toNat / 65536 % 512
  if c = 0 then max 1 ((l.nthreads + 4095) / 4096) else c

/-- Check 5 of R274: more threads than the cores can hold, or more cores than the target's chiplets enable. -/
def tooMany (cores threads chips : Nat) : Bool := decide (cores * 4096 < threads) || decide (40 * chips < cores)

/-- A launch is bound (R274 codes 3 to 5, R277, R296, R305), or rejected. -/
def State.bind (s : State) (lid : Nat) : State :=
  let l := s.launchD lid
  match s.imageFor l.part l.hdrAddr, s.hubRead l.part l.hdrAddr 64 with
  | some im, (s, .ok bs) =>
    let h := wordsOf 16 bs
    let h := match im.res with
      | some (nt, sk) => h.set 7 ((h.getD 7 0 &&& 0xFFFF80E0#32) ||| BitVec.ofNat 32 (sk * 256 + nt))
      | none => h
    if !headerOk h then s.rejectLaunch lid 3 0 0
    else
      let l' := { l with hdr := h }
      let bindable := rowA l'.class_ l'.fmtA && rowB l'.class_ l'.fmtB
      match (candidates l'.policy l'.class_).find? fun t => bindable && !(s.targetChips l.part t).isEmpty with
      | none => s.rejectLaunch lid 4 0 0
      | some t =>
        if tooMany l'.ncores l'.nthreads (s.targetChips l.part t).length then
          s.rejectLaunch lid 5 0 0
        else
          let key := s.imageKey im t (t != l'.class_)
          let s := s.cacheImage { key, size := im.size, target := t, copies := [], doomed := false }
          s.updLaunch lid fun l =>
            { l with hdr := h, st := .bound, target := t, emul := t != l'.class_, codeBase := BitVec.ofNat 64 im.code,
                     codeSize := im.size, key, relocs := im.relocs }
  | _, (s, _) => s.rejectLaunch lid 3 0 0

/-- BINDING (R277): the served launch is bound, unless its partition is halted, saved or on the way there (R336). -/
def execBinding (part : Nat) (s : State) : Host.Outcome State Fault Refusal :=
  .next (match s.served part with
    | some (_, lid, l) => if l.st = .head ∧ (s.reg (0x408 + 32 * part)).toNat % 8 ≤ 1 then s.bind lid else s
    | none => s)

/-- What a core's residents have taken of a resource. -/
def State.used (s : State) (c : Nat) (f : Launch → Nat) : Nat :=
  (s.core c).res.foldl (fun n e => n + f (s.launchD e.1)) 0

/-- A core has everything that a launch needs free at once (R279). -/
def State.coreFits (s : State) (c : Nat) (l : Launch) : Bool :=
  decide ((s.core c).res.length < 8) && decide (s.used c Launch.scratch + l.scratch ≤ 1048576)
    && decide (s.used c Launch.nbells + l.nbells ≤ 64) && decide (s.used c Launch.nchutes + l.nchutes ≤ 16)
    && decide (s.used c Launch.ntiles + l.ntiles ≤ 16) && decide (s.used c Launch.scaleKb + l.scaleKb ≤ 64)
    && !(s.core c).frozen

/-- The cores of a chiplet on which a launch fits, ascending. -/
def State.fits (s : State) (l : Launch) (chip : Nat) : List Nat :=
  ((List.range 40).map (40 * chip + ·)).filter fun c => s.coreFits c l

/-- The cores that a placement takes (R279): all from one chiplet, or whole chiplets first and the rest from one more. -/
def State.place (s : State) (l : Launch) : Option (List Nat) :=
  let n := l.ncores
  let chips := (s.targetChips l.part l.target).map fun c => s.fits l c
  if n ≤ 40 then (chips.find? fun cs => decide (n ≤ cs.length)).map (·.take n)
  else
    let whole := (chips.filter fun cs => cs.length == 40).take (n / 40)
    let rest := n % 40
    let more := chips.find? fun cs => !whole.contains cs && decide (rest ≤ cs.length)
    if whole.length < n / 40 then none
    else if rest = 0 then some whole.flatten
    else more.map fun cs => sortNat (whole.flatten ++ cs.take rest)

/-- A relocated value (R300): kind 1 a SPAWN core, kind 2 a scratchpad address, over the launch's cores of the chiplet. -/
def relocate (kind : Nat) (cores : List Nat) (v : Word) : Word :=
  let n := v.toNat
  let target := fun (row col : Nat) => match cores[row * 7 + col]? with
    | some c => (rowOf c, colOf c)
    | none => (5, 5)
  if kind = 1 then
    if n / 65536 = 0 then
      let t := target (n / 256) (n % 256)
      BitVec.ofNat 32 (t.1 * 256 + t.2)
    else v
  else if n / 2 ^ 28 = 1 then
    let t := target (n / 2 ^ 24 % 16) (n / 2 ^ 20 % 16)
    BitVec.ofNat 32 (2 ^ 28 + t.1 * 2 ^ 24 + t.2 * 2 ^ 20 + n % 2 ^ 20)
  else v

/-- The rewritten immediates of a launch's words on one chiplet, from what the hub reads of the words. -/
def State.patchesOf (s : State) (l : Launch) (cores : List Nat) : State × Tab Word :=
  l.relocs.foldl (fun (x : State × Tab Word) r =>
    match x.1.hubRead l.part (l.codeBase + BitVec.ofNat 64 r.2) 4 with
    | (s, .ok bs) => (s, Tab.set x.2 r.2 (relocate r.1 cores (word32 bs)))
    | (s, .error _) => (s, x.2)) (s, [])

/-- A shepherd at its start (R280). -/
def newShepherd (l : Launch) (lid ordinal now : Nat) : Agent :=
  { shep := true, lid, quad := 0, slots := 0, size := 1, pc := l.hdrAddr + (l.hdrW 1).signExtend 64, blk := 0,
    team := false, resume := false,
    lanes := [(0, { Lane.of 0 0 [(0, BitVec.ofNat 32 ordinal), (1, BitVec.ofNat 32 l.ncores)] [] [] with zeroed := true })]
    snap := [], tn := 0, formed := now, pending := [], next := now, drain := false, cede := none, pipe := false, wait := none,
    opnds := none, mark := none, got := [], served := [], stalled := false, ended := false, livein := [], demand := [], fetched := [], held := [] }

/-- The done bitmap is cleared and TEAMSDONE is 0 (R284). -/
def State.clearDone (s : State) (l : Launch) : State :=
  match l.compl with
  | none => s
  | some a =>
    let bytes := ((l.nthreads + l.width - 1) / l.width + 7) / 8
    let s := s.hubWriteD l.part (a + 12) (bytes32 0)
    (List.range bytes).foldl (fun s i => s.hubWriteD l.part (a + 64 + BitVec.ofNat 64 i) [0]) s

/-- The stride of a placed launch is added to its client's PASS, and the client gives up its head (R275). -/
def State.placedClient (s : State) (c : Client) (l : Launch) : State :=
  let s := s.setPass c (s.passOf c + l.stride)
  match c with
  | .slot n =>
    let goes := s.unread (Tab.getD s.front.slots n default).queue
    s.setSlots (Tab.upd s.front.slots n fun x => { x with head := none, goes })
  | .node g n => s.setFront fun f => { f with nodes := Tab.upd f.nodes (g * 65536 + n) fun x => { x with head := none } }

/-- PLACEMENT (R279, R280, R284, R300): the served launch takes its cores, and its shepherds start; unreadable ARGS
reject it with code 6. While it cannot be placed it waits. The L1 of each core and the far cache give up what they hold
clean (R269, R348). -/
def execPlacement (part : Nat) (s : State) : Host.Outcome State Fault Refusal :=
  .next (match s.served part with
    | some (c, lid, l) =>
      let running := (s.reg (0x408 + 32 * part)).toNat % 8 == 1
      if l.st ≠ .bound ∨ !running then s
      else if l.waits && s.clientStopped c then s.leaveStopped part c lid
      else match s.place l with
        | none => (s.updLaunch lid fun l => { l with waits := true }).leaveStopped part c lid
        | some cores =>
          match s.hubRead part (l.rec64 4) 128 with
          | (s, .error e) => (s.rejectLaunch lid 6 e (l.rec64 4)).unserve part
          | (s, .ok bs) =>
            let chips := (cores.map chipOf).eraseDups
            let (s, patches) := chips.foldl (fun (x : State × Tab (Tab Word)) ch =>
              match x.1.patchesOf l (cores.filter fun x => chipOf x == ch) with
              | (s, t) => (s, Tab.set x.2 ch t)) (s, [])
            let k : Tab Word := (wordsOf 32 bs).mapIdx fun i w => (i, w)
            let l' := { l with st := .running, cores, k, patches, ready := false, waits := false, argNew := false,
                               doneNew := false, lep := 1, teams := 0, num := 0, hintmiss := 0 }
            let s := (s.touchImage l cores).updLaunch lid fun _ => l'
            let s := s.setFront fun f => { f with rebound := f.rebound.filter (· != lid) }
            let s := s.clearDone l'
            let s := (cores.mapIdx fun i x => (i, x)).foldl (fun s e => s.updCore e.2 fun k =>
              { k with
                  res := Tab.set k.res lid { Res.empty with home := e.2 }
                  agents := Tab.set k.agents k.nextAg (newShepherd l' lid e.1 s.cycles)
                  nextAg := k.nextAg + 1
                  threads := Tab.set k.threads (threadKey lid shepTid)
                    { Thread.fresh lid shepTid 0 with place := .drove k.nextAg } }) s
            (cores.foldl State.l1Clear ((s.placedClient c l').unserve part)).farClear
    | none => s)

/-! ### Completion -/

/-- Nothing of a launch is left to happen on a core (R282): its shepherd has halted or was stopped, no thread or drove
remains, its matrix work, copies, accesses and tracker entries have drained. -/
def State.coreDone (s : State) (c lid : Nat) : Bool :=
  let k := s.core c
  let shepDone := (s.launchD lid).cancelled || (s.res c lid).halted
  shepDone && !(k.agents.any fun e => e.2.lid == lid && !e.2.shep)
    && !(k.threads.any fun e => e.2.lid == lid && e.2.tid != shepTid)
    && !(k.queue.any fun m => m.lid == lid) && !(k.copies.any fun e => e.2.lid == lid && e.2.live)
    && !(k.outst.any fun o => o.lid == lid) && !(k.late.any fun o => o.lid == lid) && !(k.tracker.any fun e => e.2.lid == lid)
    && !(s.fabric.remote.any fun e => e.2.core == c && e.2.lid == lid)
    && (match k.gather with
        | some m => m.lid != lid
        | none => true)

/-- The engine error record kept at completion: the first core's that holds one (R190, R283); a launch that was
cancelled or stopped has discarded it (R206). The records of other cores count as later errors (R190, DEDUCED, log 29). -/
def State.engineAtEnd (s : State) (lid : Nat) : Option EngErr × Nat :=
  if (s.launchD lid).cancelled then (none, 0)
  else (s.launchD lid).cores.foldl (fun x c =>
    let r := s.res c lid
    (if x.1.isSome then x.1 else r.engErr,
     x.2 + r.engMore + if x.1.isSome && r.engErr.isSome then 1 else 0)) (none, 0)

/-- A queue that holds no slot, and to which a launch has come back, joins the rescan list, whose head takes a free slot at
once (R272). -/
def State.regain (s : State) (q : Nat) : State :=
  if (s.slotOf q).isSome || s.front.rescan.contains q then s
  else
    let s := s.setFront fun f => { f with rescan := f.rescan ++ [q] }
    match freeSlot s.front.slots 0 128 with
    | some n => s.takeRescan n
    | none => s

/-- LAUNCH_COMPLETION (R282, R290): the launch completes, or, where an outlier overflow lets it fall back, is bound
again to its fallback header and requeued. One whose cores stand in images waits for their restore (R338). -/
def execLaunchCompletion (lid : Nat) (s : State) : Host.Outcome State Fault Refusal :=
  .next (match s.launch? lid with
    | some l =>
      if l.st ≠ .running ∨ 4 ≤ (s.reg (0x408 + 32 * l.part)).toNat % 8 ∨ !(l.cores.all fun c => s.coreDone c lid) then s
      else
        let s := l.cores.foldl (fun s c => s.mergeFlags c lid) s
        let (eng, more) := s.engineAtEnd lid
        let s := s.updLaunch lid fun l => { l with eng, engMore := more }
        let l := s.launchD lid
        let overflow := (l.num.getLsbD 6 && (!l.cancelled || l.stop.isSome)) || (match l.stop with
          | some st => st.cause == 0x0C
          | none => false)
        if (l.recW 0).getLsbD 0 && !l.again && l.node.isNone && overflow then
          let s := s.releaseLaunch lid
          let s := s.updLaunch lid fun l =>
            { newLaunch l.rec_ l.part l.priv l.queue l.node with hdrAddr := l.hdrAddr + 64, again := true }
          match l.queue with
          | some q => (s.dropDoomed.setFront fun f =>
              { f with requeue := Tab.set f.requeue q (Tab.getD f.requeue q [] ++ [lid]), rebound := f.rebound ++ [lid] }).regain q
          | none => s
        else
          let outcome := match l.stop with
            | some _ => 2
            | none => if l.cancelled then 1 else 0
          s.completeLaunch lid outcome 0 0 0
    | none => s)

/-- FLAG_MERGE_TO_HUB (R45). -/
def execFlagMergeToHub (core lid : Nat) (s : State) : Host.Outcome State Fault Refusal :=
  .next (s.mergeFlags core lid)

/-- ENABLE_PROPAGATION (R45): the hub's enables reach a core. -/
def execEnablePropagation (core lid : Nat) (s : State) : Host.Outcome State Fault Refusal :=
  .next (if (Tab.get? (s.core core).res lid).isSome then
      s.updRes core lid fun r =>
        { r with num := (r.num &&& 0xFF8000FF#32) ||| ((s.launchD lid).num &&& 0x7F0000#32) }
    else s)

/-! ### Work-graph nodes (R287 to R289) -/

/-- The entry of a node, if the graph holds it and it is well formed (R287). -/
def State.nodeEntry (s : State) (part : Nat) (graph : Word) (n : Nat) : State × Option (List Word) :=
  match s.workObj graph.toNat with
  | some g =>
    if objLevel g ≠ 1 ∨ (g.getD 6 0).toNat ≤ n then (s, none)
    else match s.hubRead part (pairOf (g.getD 4 0) (g.getD 5 0) + BitVec.ofNat 64 (64 * n)) 64 with
      | (s, .ok bs) =>
        let w := wordsOf 16 bs
        let w6 := (w.getD 6 0).toNat
        let ok := (w.getD 0 0).toNat % 64 == 0 && (w.getD 2 0).toNat % 128 == 0 && w6 / 2 ^ 24 == 0
          && w6 / 65536 % 256 != 0 && decide (1 ≤ w6 % 256) && decide (w6 % 256 ≤ 64) && (w.getD 8 0).toNat % 64 == 0
          && (w.drop 10).all (· == 0)
        (s, if ok then some w else none)
      | (s, .error _) => (s, none)
  | none => (s, none)

/-- The team width of the header that a node names. -/
def State.nodeWidth (s : State) (part : Nat) (e : List Word) : State × Nat :=
  match s.hubRead part (pairOf (e.getD 0 0) (e.getD 1 0)) 4 with
  | (s, .ok bs) => (s, match (word32 bs).toNat / 256 % 4 with
    | 0 => 32 | 1 => 64 | _ => 128)
  | (s, .error _) => (s, 32)

def nodeNbuf (e : List Word) : Nat := (e.getD 6 0).toNat % 256

/-- The open batch of a node closes. -/
def Node.close (n : Node) : Node :=
  if n.open_.isEmpty then n
  else { n with closed := n.closed ++ [(n.next, n.open_)], busy := n.busy ++ [n.next], open_ := [], next := n.next + 1 }

/-- WGTIMER has passed since the first record of the open batch (R288). -/
def Node.lapsed (n : Node) (timer now : Nat) : Bool := decide (n.since + timer ≤ now)

/-- BATCH_TIMER_EXPIRY (R288). -/
def execBatchTimerExpiry (graph node : Nat) (s : State) : Host.Outcome State Fault Refusal :=
  .next (s.setFront fun f => { f with nodes := Tab.upd f.nodes (graph * 65536 + node) fun n =>
    if (n.lapsed s.wgTimer.toNat s.nanos) then n.close else n })

/-- A write of the front end on path C, dropped where it fails. -/
def State.hubWriteC (s : State) (part : Nat) (va : DWord) (bs : List Byte) : State := (s.hubWriteOn 1 part va bs).1

/-- BATCH_LAUNCH (R289): the argument buffer of the first closed batch is written and the batch becomes a launch; a
batch of a cancelled graph, or one that a CANCEL named, completes with outcome 1. The writes are a release at sys scope on
path C, which an IO page refuses. -/
def execBatchLaunch (graph node : Nat) (s : State) : Host.Outcome State Fault Refusal :=
  let key := graph * 65536 + node
  .next (match Tab.get? s.front.nodes key with
    | none => s
    | some nd => match nd.closed with
      | [] => s
      | (b, recs) :: rest =>
        if nd.head.isSome then s
        else match s.nodeEntry nd.part (BitVec.ofNat 32 graph) node, s.workObj graph with
          | (s, some e), some g =>
            let size := 128 * ((128 + 8 * nd.width + 127) / 128)
            let buf := pairOf (e.getD 4 0) (e.getD 5 0) + BitVec.ofNat 64 (size * (b % nodeNbuf e))
            let (s, tpl) := match s.hubRead nd.part (pairOf (e.getD 2 0) (e.getD 3 0)) 128 with
              | (s, .ok bs) => (s, bs)
              | (s, .error _) => (s, listGen (fun _ => 0) 128)
            let s := s.hubWriteC nd.part buf tpl
            let s := (recs.mapIdx fun i r => (i, r)).foldl (fun s x =>
              s.hubWriteC nd.part (buf + BitVec.ofNat 64 (128 + 8 * x.1)) (bytes32 x.2.1 ++ bytes32 x.2.2)) s
            let compl := pairOf (e.getD 8 0) (e.getD 9 0) + BitVec.ofNat 64 (128 * (b % nodeNbuf e))
            let w6 := (e.getD 6 0).toNat
            let lo := fun (v : DWord) => v.setWidth 32
            let hi := fun (v : DWord) => (v >>> 32).setWidth 32
            let recw : List Word :=
              [e.getD 0 0, e.getD 1 0, BitVec.ofNat 32 recs.length,
               BitVec.ofNat 32 (65536 + w6 / 65536 % 256 * 256 + w6 / 256 % 256), lo buf, hi buf, lo compl, hi compl,
               e.getD 7 0 + BitVec.ofNat 32 b, BitVec.ofNat 32 graph, g.getD 7 0, objOwner g, 0, 0, 0, 0]
            let (s, lid) := s.addLaunch (newLaunch recw nd.part false none (some (graph, node, b)))
            let s := s.setFront fun f =>
              { f with nodes := Tab.upd f.nodes key fun n => { n with closed := rest, head := some lid, dropped := n.dropped.filter (· != b) } }
            if nd.dropped.contains b then s.completeLaunch lid 1 0 0 0 else s.checkHead (.node graph node) lid
          | (s, _), _ => s)

end Sys2Proof.Machine
end

