-- ==== Sys2Proof/Machine/Partition.lean ====
section
/-! DEFINITION. Partitions (R335 to R344): halting, saving, restoring, resuming and discarding them, and what an answer
to a fault record does to those who wait on it (R324, R341). -/

namespace Sys2Proof.Machine

/-! ### Answers -/

/-- A lane's registers as its thread's held row keeps them; a thread parked at a block's exit holds none (R232). -/
def Thread.rowLane (t : Thread) (seed : Nat) : Lane :=
  match t.row with
  | some (_, w, p) => Lane.of t.tid seed w p t.badRow
  | none => Lane.of t.tid seed [] [] []

/-- What an answer does to one who waits in this package (R324): resolved, a thread is resumed by
FAULT_RESOLUTION_RESUME, a shepherd issues again and a copy goes on; otherwise a thread goes to step 2 of R201, a
shepherd's launch stops and a copy fails. Those that are gone are passed over (R334). -/
def State.applyAnswer (s : State) (w : Waiter) (ok : Bool) (va : DWord) : State :=
  match w with
  | .thread c lid tid =>
    match Tab.get? (s.core c).threads (threadKey lid tid) with
    | some t => match t.place, t.park with
      | .faultFold, some p => if ok then s else s.disposeTrap c lid tid (t.rowLane (s.tick * 128)) p
      | _, _ => s
    | none => s
  | .shepherd c lid ag =>
    let r : AgentRef := { core := c, id := ag }
    match s.agent? r, (s.thread c lid shepTid).park with
    | some a, some p =>
      if a.lid ≠ lid ∨ a.wait ≠ some .fault then s
      else if ok then s.wake r
      else s.stopLaunch lid { cause := p.cause, cause2 := 0, who := 0x80000000#32 + BitVec.ofNat 32 c,
                              tpc := (s.launchD lid).offset p.word, addr := p.addr }
    | _, _ => s
  | .copy c lid slot =>
    match Tab.get? (s.core c).copies slot with
    | some x =>
      if x.lid ≠ lid ∨ !x.held then s
      else if ok then s.updCore c fun k => { k with copies := Tab.set k.copies slot { x with held := false } }
      else s.failCopy c slot 5 va
    | none => s
  | .home _ => s

/-- The launch of a waiter of this package. -/
def Waiter.lid? (w : Waiter) : Option Nat :=
  match w with
  | .thread _ lid _ | .shepherd _ lid _ | .copy _ lid _ => some lid
  | .home _ => none

/-! ### Registers (R335) -/

def pstatOff (n : Nat) : Nat := 0x408 + 32 * n
def State.pState (s : State) (n : Nat) : Nat := (s.reg (pstatOff n)).toNat % 8
def State.pBusy (s : State) (n : Nat) : Bool := (s.reg (pstatOff n)).getLsbD 31
def State.pMap (s : State) (n : Nat) : Nat := (s.reg (0x400 + 32 * n)).toNat % 1024
def State.setPstat (s : State) (n state result : Nat) (busy : Bool) : State :=
  s.setReg (pstatOff n) (BitVec.ofNat 32 ((if busy then 2 ^ 31 else 0) + result * 256 + state))
/-- RESULT alone changes. -/
def State.setResult (s : State) (n result : Nat) : State := s.setPstat n (s.pState n) result (s.pBusy n)
def State.setPMap (s : State) (n v : Nat) : State := s.setReg (0x400 + 32 * n) (BitVec.ofNat 32 v)

def PartSt.none : PartSt := { saved := [], haltAt := 0, cycleAt := 0, answers := [], replies := [] }
def State.part (s : State) (n : Nat) : PartSt := Tab.getD s.parts n PartSt.none
def State.updPart (s : State) (n : Nat) (f : PartSt → PartSt) : State :=
  { s with parts := Tab.set s.parts n (f (s.part n)) }

/-- The chiplets of a mask, ascending. -/
def chipsOf (m : Nat) : List Nat := (List.range 10).filter m.testBit
/-- The cores of chiplets, ascending. -/
def coresOf (chips : List Nat) : List Nat := chips.flatMap fun c => (List.range 40).map (40 * c + ·)
def State.partCores (s : State) (n : Nat) : List Nat := coresOf (chipsOf (s.pMap n))
/-- A partition other than `n` holds one of the chiplets of a mask. -/
def State.heldElsewhere (s : State) (n m : Nat) : Bool :=
  (List.range 16).any fun k => k != n && s.pMap k &&& m != 0
/-- Every chiplet of a mask is in service (R367). -/
def State.inService (s : State) (m : Nat) : Bool := (chipsOf m).all fun c => (s.reg 0x818).getLsbD c

/-- PMAP_WRITE (R335): only while the partition is empty, of free chiplets in service; a nonzero map starts it. -/
def execPmapWrite (n : Nat) (v : Word) (s : State) : Host.Outcome State Fault Refusal :=
  let m := v.toNat % 1024
  .next (if !s.isReady || decide (16 ≤ n) || s.pState n != 0 || s.heldElsewhere n m || !s.inService m then s
    else
      let s := s.setPMap n m
      if m = 0 then s else s.setPstat n 1 0 false)

/-! ### Halting (R337) -/

/-- The waits that a halt rolls back (R337, step 3): all but those of an instruction that has begun (a SLEEP, one that awaits its
core's stores, a CVTB whose appends stand in the queue, a request to another package, a HALT) and of a fault record. -/
def Wait.kept : Wait → Bool
  | .sleep _ _ | .fence _ | .cvtb | .remote | .halt _ | .fault => true
  | _ => false

/-- A core stops: nothing issues or forms from now on, and waiting instructions are rolled back. -/
def Core.freeze (k : Core) : Core :=
  { k with
      frozen := true
      agents := k.agents.mapVals fun _ a => match a.wait with
        | some w => if w.kept then a else { a with wait := none, opnds := if a.mark.isSome then a.opnds else none, got := [] }
        | none => a }

/-- PCMD halt of a partition, by the host or by HALT (R212, R336). -/
def State.haltPart (s : State) (n : Nat) : State :=
  if s.pState n = 1 then
    let s := s.setPstat n 2 0 true
    let s := (s.partCores n).foldl (fun s c => (s.renewElig c).updCore c Core.freeze) s
    s.updPart n fun p => { p with haltAt := s.nanos, cycleAt := s.cycles }
  else s.setResult n 1

/-- A write of PCMD reaches the command engine (R335, R336). -/
def State.pcmd (s : State) (n : Nat) (states : List Nat) (f : State → State) : State :=
  if !s.isReady || decide (16 ≤ n) || s.pBusy n then s
  else if states.contains (s.pState n) then f s
  else s.setResult n 1

/-- PCMD_HALT. -/
def execPcmdHalt (n : Nat) (s : State) : Host.Outcome State Fault Refusal :=
  .next (s.pcmd n [1] fun s => s.haltPart n)

/-- A copy no longer stands in the way of a halt: it is over, or kept to start again. -/
def Copy.quiet (x : Copy) : Bool := !x.live || x.kept

/-- A core has done steps 1 to 5 of R337, but for results that are still to land in registers: of its tracker only entries that
wait for kept copies remain, and where those fill it, droves whose EXITs need an entry; of its requests only those that are pending
at their homes (R344). -/
def State.coreQuiet (s : State) (c : Nat) : Bool :=
  let k := s.core c
  let away := fun (i : Nat) => match Tab.get? s.fabric.remote i with
    | some x => x.pending
    | none => false
  let trackQuiet := fun (t : Track) => t.copies.any fun i => match Tab.get? k.copies i.1 with
    | some x => x.kept && x.gen == i.2
    | none => false
  let agentQuiet := fun (a : Agent) => a.pending.all (fun p => p.await.all fun i => a.shep && away i)
    && a.lanes.all (fun e => e.2.parking.isNone) && (a.shep || !a.ended || a.lanes.isEmpty || s.trackerFull c a.lid a.exits)
  k.agents.all (fun e => agentQuiet e.2) && k.queue.isEmpty && k.gather.isNone
    && k.tracker.all (fun e => trackQuiet e.2) && k.copies.all (fun e => e.2.quiet)
    && k.outst.isEmpty && k.late.isEmpty && s.fabric.remote.all (fun e => e.2.core != c || e.2.pending)

/-- A core at the end of a halt: its results have landed, its L1 is empty, and no line is its own (R249). -/
def State.coreHalted (s : State) (c : Nat) : State :=
  let s := s.updCore c fun k => { k with l1 := [], agents := k.agents.mapVals fun _ a => a.landAll }
  { s with fabric := { s.fabric with
      grants := s.fabric.grants.mapVals fun _ g => if g.core = c then { g with held := false } else g } }

/-- Where a HALT keeps what became of a partition that it named: 1 awaited, 2 halted. -/
def haltMark (p : Nat) : Nat := 2 ^ 34 + p

/-- A HALT that awaits a partition sees it halted, and goes on when no other is awaited. -/
def Agent.halted (p : Nat) (a : Agent) : Agent :=
  match a.wait with
  | some (.halt _) =>
    let served := Tab.upd a.served (haltMark p) fun _ => 2
    { a with served, wait := if (List.range 16).any (fun q => Tab.get? served (haltMark q) == some 1) then a.wait else none }
  | _ => a

/-- Change every agent, saved ones too. -/
def State.mapAgents (s : State) (f : Agent → Agent) : State :=
  let g := fun (t : Tab Core) => t.mapVals fun _ (k : Core) => { k with agents := k.agents.mapVals fun _ a => f a }
  { s with
      cores := g s.cores
      parts := s.parts.mapVals fun _ p => { p with saved := p.saved.map fun x => { x with cores := g x.cores } } }

/-- HALT_DONE: STATE becomes halted when every core of the partition has stopped. -/
def execHaltDone (n : Nat) (s : State) : Host.Outcome State Fault Refusal :=
  .next (if decide (16 ≤ n) || s.pState n != 2 || !((s.partCores n).all s.coreQuiet) then s
    else
      let s := (s.partCores n).foldl State.coreHalted s
      let s := s.setPstat n 3 ((s.reg (pstatOff n)).toNat / 256 % 256) false
      s.mapAgents (Agent.halted n))

/-- The partition that holds a core. -/
def State.partOfCore (s : State) (c : Nat) : Option Nat :=
  (List.range 16).find? fun n => (s.pMap n).testBit (chipOf c)

/-- COPY_HALT_TIMEOUT (R337, step 5): a copy that has not landed within 20 µs of the halt is kept to start again. -/
def execCopyHaltTimeout (core slot : Nat) (s : State) : Host.Outcome State Fault Refusal :=
  .next (match s.partOfCore core, Tab.get? (s.core core).copies slot with
    | some n, some x =>
      if s.pState n == 2 && decide ((s.part n).haltAt + 20000 ≤ s.nanos) && x.live && !x.landed && !x.kept then
        s.updCore core fun k => { k with copies := Tab.set k.copies slot { x with kept := true } }
      else s
    | _, _ => s)

/-! ### Saving (R339) -/

/-- The shadow slots that no partition holds and that are in use, ascending. -/
def State.freeShadow (s : State) : List Nat :=
  (List.range 3).filter fun i =>
    !s.errs.slotsOut.contains i && !(s.parts.any fun e => e.2.saved.any fun x => x.slot == i)

/-- PSAVE of a partition. -/
def State.psave (s : State) (n : Nat) : Nat := (s.reg64 (0x40C + 32 * n)).toNat
/-- The k-th 128 MiB of the save area can be reached for an access (R388). -/
def State.areaOk (s : State) (n k : Nat) (acc : Acc) : Bool :=
  s.psave n != 0 && (List.range 2048).all fun i =>
    (s.xlatePriv (s.psave n + 134217728 * k + 65536 * i) acc).isSome

/-- The bytes of an image (R338). -/
def imageSize : Nat := 119521280

/-- Its image there holds uncorrectable data (R340). -/
def State.areaBad (s : State) (n k : Nat) : Bool :=
  (List.range ((imageSize + 65535) / 65536)).any fun i =>
    match s.xlatePriv (s.psave n + 134217728 * k + 65536 * i) Acc.read with
    | some l => l.bad s 65536
    | none => false

/-- The chiplets of a save with the slots that they take. -/
def savePlan (chips free : List Nat) : List (Nat × Nat) := chips.mapIdx fun i c => (c, free.getD i 3)

/-- PCMD_SAVE: the slots are taken, lowest first; the other chiplets need the memory save area. -/
def execPcmdSave (n : Nat) (s : State) : Host.Outcome State Fault Refusal :=
  .next (s.pcmd n [3] fun s =>
    let plan := savePlan (chipsOf (s.pMap n)) s.freeShadow
    let inMem := (plan.filter fun x => x.2 == 3).length
    if !((List.range inMem).all fun k => s.areaOk n k Acc.write) then s.setResult n 2
    else
      let s := s.updPart n fun p =>
        { p with saved := plan.mapIdx fun i x =>
            { cls := classOf x.1, chip := x.1, slot := x.2, cores := []
              area := s.psave n + 134217728 * (i - s.freeShadow.length), spoilt := false } }
      s.setPstat n 4 0 true)

/-- A core as its image holds it (R338): no cache, no TLB. -/
def Core.image (k : Core) : Core := { k with icache := [], ictag := [], tlb := [], l1 := [], picks := [], pipes := [] }

/-- An image is written to its place in a memory save area (R339): what its bytes are is private to the part, so each is a free
value. What other images lose where they overlap is as R339 says of software. -/
def State.writeImage (s : State) (area : Nat) : State :=
  (List.range ((imageSize + 65535) / 65536)).foldl (fun s i =>
    let tick := s.tick
    let bs := listGen (fun j => Config.savedByte tick (65536 * i + j)) (min 65536 (imageSize - 65536 * i))
    match s.xlatePriv (area + 65536 * i) Acc.write with
    | some (.dev pa) => (s.devWrite pa bs).spoilImages pa bs.length
    | some l => s.hubPut l bs
    | none => s) s

/-- A core number as shadow records hold it while its partition is saved: no core's (R342). -/
def savedCore (n c : Nat) : Nat := 512 * (n + 1) + c

/-- The shadow records name the cores of their writers anew (R338, R342). -/
def State.renameShadow (s : State) (f : Nat → Nat) : State :=
  let go := fun (x : Shadow) => { x with wcore := f x.wcore }
  { s with shadow := s.shadow.mapVals fun _ x => go x, shadowWas := s.shadowWas.mapVals fun _ x => (x.1, x.2.map go) }

/-- PSLOTS of the saved chiplets. -/
def pslotsOf (saved : List SavedChip) : Nat := saved.foldr (fun x acc => x.slot + 4 * acc) 0

/-- SAVE_DONE: the images are written, and the chiplets are free. A memory save area that can no longer be written gives RESULT 2
(R388). What an image means is private to the part: the model keeps it beside memory (log 45). -/
def execSaveDone (n : Nat) (s : State) : Host.Outcome State Fault Refusal :=
  let inMem := (s.part n).saved.filter fun x => x.slot == 3
  .next (if decide (16 ≤ n) || s.pState n != 4 then s
    else if !((List.range inMem.length).all fun k => s.areaOk n k Acc.write) then
      (s.updPart n fun p => { p with saved := [] }).setPstat n 3 2 false
    else
      let s := inMem.foldl (fun s x => s.writeImage x.area) s
      let s := s.renameShadow fun c => if c < 400 ∧ (s.pMap n).testBit (chipOf c) then savedCore n c else c
      let saved := (s.part n).saved.map fun (x : SavedChip) =>
        { x with cores := (List.range 40).map fun i => (i, (s.core (40 * x.chip + i)).image) }
      let s := { s with cores := s.cores.filter fun e => !(s.pMap n).testBit (chipOf e.1) }
      let s := s.updPart n fun p => { p with saved }
      let s := s.setPMap n 0
      ((s.setReg (0x418 + 32 * n) (BitVec.ofNat 32 (pslotsOf saved))).setPstat n 5 0 false).serviceFaulty)

/-! ### Restoring (R340) -/

/-- PCMD_RESTORE: PDEST must hold as many free chiplets in service of each class as were saved. -/
def execPcmdRestore (n : Nat) (s : State) : Host.Outcome State Fault Refusal :=
  .next (s.pcmd n [5] fun s =>
    let dest := (s.reg (0x414 + 32 * n)).toNat % 1024
    let count := fun (cs : List Nat) (k : Nat) => (cs.filter fun c => c == k).length
    let saved := (s.part n).saved.map (·.cls)
    let want := (chipsOf dest).map classOf
    let same := (List.range 5).all fun k => count saved k == count want k
    if !same || s.heldElsewhere n dest || !s.inService dest then s.setResult n 3
    else (s.setPMap n dest).setPstat n 6 0 true)

/-- Where each saved chiplet goes: those of a class in ascending order. -/
def restorePlan (saved : List SavedChip) (dest : List Nat) : List (Nat × Nat) :=
  saved.map fun x =>
    let before := (saved.filter fun y => y.cls == x.cls && decide (y.chip < x.chip)).length
    (x.chip, ((dest.filter fun c => classOf c == x.cls)[before]?).getD x.chip)

/-- A core number after a restore. -/
def moveCore (plan : List (Nat × Nat)) (c : Nat) : Nat :=
  match plan.find? fun x => x.1 == chipOf c with
  | some x => 40 * x.2 + c % 40
  | none => c

def Waiter.move (plan : List (Nat × Nat)) : Waiter → Waiter
  | .thread c lid tid => .thread (moveCore plan c) lid tid
  | .shepherd c lid ag => .shepherd (moveCore plan c) lid ag
  | .copy c lid slot => .copy (moveCore plan c) lid slot
  | .home r => .home r

/-- What names the cores of a partition's launches elsewhere in the part follows them. -/
def State.moveNames (s : State) (n : Nat) (plan : List (Nat × Nat)) : State :=
  let mine := fun (w : Waiter) => match w.lid? with
    | some lid => (match s.launch? lid with
      | some l => l.part == n
      | none => false)
    | none => false
  let go := fun (w : Waiter) => if mine w then w.move plan else w
  let s := s.renameShadow fun c => if c / 512 = n + 1 then moveCore plan (c % 512) else c
  let ours := fun (lid : Nat) => match s.launch? lid with
    | some l => l.part == n
    | none => false
  { s with
      launches := s.launches.mapVals fun _ l =>
        if l.part = n then
          { l with cores := sortNat (l.cores.map (moveCore plan))
                   patches := l.patches.foldl (fun t e => Tab.set t (moveCore plan (40 * e.1) / 40) e.2) [] }
        else l
      fabric := { s.fabric with
        remote := s.fabric.remote.mapVals fun _ x => if ours x.lid then { x with core := moveCore plan x.core } else x
        fqs := s.fabric.fqs.mapVals fun _ q =>
          { q with recs := q.recs.mapVals fun _ r => { r with waiters := r.waiters.map go } } }
      parts := s.parts.mapVals fun _ p => { p with answers := p.answers.map fun a => (go a.1, a.2) } }

/-- A free bell, chute and vote slot, from free words. -/
def Bell.free (w : Nat → Word) : Bell :=
  { live := (w 0).getLsbD 0, count := (w 1).toNat, arr := (w 2).toNat, pend := (w 3).toInt, phase := (w 0).getLsbD 1,
    errCur := (w 4).setWidth 8, errLast := (w 5).setWidth 8, done := Option.none }
def Chute.free (w : Nat → Word) : Chute :=
  { live := (w 0).getLsbD 0, closed := (w 0).getLsbD 1, cap := (w 1).toNat, off := (w 2).toNat, rd := (w 3).toNat, wr := (w 4).toNat,
    allow := (w 5).toNat, own := [], closing := Option.none, pushes := (0, 0) }
def Vote.free (w : Nat → Word) : Vote := { vec := pairOf (w 0) (w 1), count := w 2 }

/-- What a launch holds on a core whose image has been written over (R339): the streams and copies that were open stay so, with
undefined elements and positions. -/
def Res.spoil (w : Nat → Nat → Word) (seed : Nat) (r : Res) : Res :=
  { r with
      scratch := [], tiles := [], scale := [], home := r.home + 400 * (seed + 1)
      bells := (List.range 64).map fun b => (b, Bell.free (w (8 + b)))
      chutes := (List.range 16).map fun c => (c, Chute.free (w (72 + c)))
      streams := r.streams.mapVals fun i x =>
        { x with spoilt := true, pos := (w (88 + i) 0).toNat, next := (w (88 + i) 1).toNat,
                 words := listGen (fun j => w (88 + i) (2 + j)) 8 }
      ring := r.ring.mapVals fun i x => (w 96 i, x.2), ringNext := w 97 0, tn := w 97 1
      votes := (List.range 64).map fun v => (v, Vote.free (w (98 + v)))
      spawnCnt := (w 97 2).toNat, retired := (w 97 3).toNat
      cfg := { set := (w 97 4).getLsbD 0, a := w 97 5, b := w 97 6, c := pairOf (w 97 7) (w 97 8) }
      outlier := r.outlier.mapVals fun i es => es.mapIdx fun j _ => (w (162 + i) (2 * j), w (162 + i) (2 * j + 1))
      engErr := r.engErr.map fun _ => { cause := (w 97 9).setWidth 8, addr := w 97 10 }, engMore := (w 97 11).toNat % 256
      mcount := w 97 12, num := w 97 13 }

/-- The values of a context whose image software has written over are undefined (R339, R9): those of its registers, its memories,
its program counters and its control state. Which droves, folds and threads there are is kept (DESIGN CHOICE, log 45). -/
def Core.spoil (tick : Nat) (k : Core) : Core :=
  let seed := fun (x y : Nat) => (tick * 2 ^ 64 + x) * 2 ^ 64 + y
  let word := fun (x y n : Nat) => Config.undefWord (seed x y) n
  { k with
      agents := k.agents.mapVals fun i a =>
        { a with
            lanes := a.lanes.mapVals fun n l => { l with zeroed := false, seed := seed i n, w := [], p := [], cw := [] }
            pc := pairOf (word i 128 32) (word i 128 33), blk := pairOf (word i 128 34) (word i 128 35), tn := word i 128 36
            snap := a.snap.mapVals fun n _ => word i 128 n }
      threads := k.threads.mapVals fun i t =>
        { t with
            c := (List.range 64).map fun n => (n, word i 129 n), row := t.row.map fun r => (r.1, [], [])
            depth := (word i 130 0).toNat % 16, inHandler := (word i 130 1).getLsbD 0, probe := (word i 130 2).getLsbD 0
            hold := some (word i 130 3), tcause := word i 130 4, taddr := pairOf (word i 130 5) (word i 130 6), tpc := word i 130 7
            tblk := pairOf (word i 130 8) (word i 130 9), epCore := (word i 130 10).setWidth 16
            epChip := (word i 130 11).setWidth 16, epPkg := (word i 130 12).setWidth 16 }
      res := k.res.mapVals fun lid r => r.spoil (word (2 ^ 40 + lid)) tick }

/-- A launch has a thread or a shepherd on a core. -/
def Core.hosts (k : Core) (lid : Nat) : Bool :=
  k.agents.any (fun e => e.2.lid == lid) || k.threads.any fun e => e.2.lid == lid

/-- RESTORE_DONE: the cores are back, with undefined values where software has written over their image; the launches with a thread or shepherd on a chiplet whose image is uncorrectable,
or cannot be read, stop with cause 0x10. -/
def execRestoreDone (n : Nat) (bad : List Nat) (s : State) : Host.Outcome State Fault Refusal :=
  .next (if decide (16 ≤ n) || s.pState n != 6 then s
    else
      let saved := (s.part n).saved
      let plan := restorePlan saved (chipsOf (s.pMap n))
      let inMem := (saved.filter fun x => x.slot == 3).map (·.chip)
      let lost := (inMem.mapIdx fun k c => (k, c)).filter fun x => !s.areaOk n x.1 Acc.read || s.areaBad n x.1
      let failed := (saved.map (·.chip)).filter fun c => bad.contains c || lost.any fun x => x.2 == c
      let stops := (s.launches.filter fun e => e.2.part == n
        && saved.any fun x => failed.contains x.chip && x.cores.any fun k => k.2.hosts e.1).map (·.1)
      let s := saved.foldl (fun s x => x.cores.foldl (fun s e => s.setCore (moveCore plan (40 * x.chip + e.1)) (if x.spoilt then e.2.spoil s.tick else e.2)) s) s
      let s := s.moveNames n plan
      let s := s.updPart n fun p => { p with saved := [] }
      let s := (s.setReg (0x418 + 32 * n) 0).setPstat n 3 (if failed.isEmpty then 0 else 4) false
      stops.foldl (fun s lid => s.stopLaunch lid { cause := 0x10, cause2 := 0, who := 0, tpc := 0, addr := 0 }) s)

/-! ### Resuming (R341) -/

/-- Waiting times count on from the resume (R235, R341): what had been waited before the halt counts, and a thread filed
while its core was halting has waited 0. -/
def Quad.shift (now d : Nat) (q : Quad) : Quad :=
  let on := fun (t : Nat) => min (t + d) now
  { q with
      lastElig := on q.lastElig
      folds := q.folds.mapVals fun _ f =>
        { f with since := on f.since, elig := f.elig.map on,
                 members := f.members.map fun m => { m with arrived := on m.arrived } } }

/-- A core goes on: a SLEEP has as many cycles left as at the halt, and kept copies start again. -/
def Core.thaw (now d : Nat) (k : Core) : Core :=
  { k with
      frozen := false
      quads := k.quads.mapVals fun _ q => q.shift now d
      agents := k.agents.mapVals fun _ a => match a.wait with
        | some (.sleep t x) => { a with wait := some (.sleep (t + d) x) }
        | _ => a
      copies := k.copies.mapVals fun _ x => if x.kept then { x with kept := false, held := false } else x }

/-- PCMD_RESUME: the cores continue, and the answers that came meanwhile take effect; the replies of homes that did are the next
events (R344). -/
def execPcmdResume (n : Nat) (s : State) : Host.Outcome State Fault Refusal :=
  .next (s.pcmd n [3] fun s =>
    let d := s.cycles - (s.part n).cycleAt
    let answers := (s.part n).answers
    let s := answers.foldl (fun s a => s.applyAnswer a.1 a.2.1 a.2.2) s
    let s := (s.partCores n).foldl (fun s c => s.updCore c (Core.thaw s.cycles d)) s
    let s := { s with agenda := s.agenda ++ (s.part n).replies.map fun (x : Nat × HomeAns) => Sched.event (.homeReply x.1 x.2) }
    (s.updPart n fun p => { p with answers := [], replies := [] }).setPstat n 1 0 false)

/-! ### Discarding (R336) -/

/-- A launch of a discarded context stops with cause 0x03 and completes at once, with the flags of its cores merged; its
engine error record is discarded (R206). -/
def State.discardLaunch (s : State) (ks : List Core) (lid : Nat) : State :=
  let s := s.stopLaunch lid { cause := 3, cause2 := 0, who := 0, tpc := 0, addr := 0 }
  let rs := ks.filterMap fun k => Tab.get? k.res lid
  let s := s.updLaunch lid fun l => rs.foldl (fun (l : Launch) (r : Res) =>
    { l with num := ((l.num ||| r.num) &&& 0xFF#32) ||| addOvf l.num r.num ||| (l.num &&& 0x7F0000#32) }) l
  s.completeLaunch lid (if (s.launchD lid).stop.isSome then 2 else 1) 0 0 0

/-- PCMD_DISCARD. -/
def execPcmdDiscard (n : Nat) (s : State) : Host.Outcome State Fault Refusal :=
  .next (s.pcmd n [3, 5] fun s =>
    let saved := (s.part n).saved
    let ks := if saved.isEmpty then (s.partCores n).map s.core else saved.flatMap fun x => x.cores.map (·.2)
    let lids := (s.launches.filter fun e => e.2.part == n && e.2.st == .running).map (·.1)
    let s := lids.foldl (fun s lid => s.discardLaunch ks lid) s
    let s := { s with cores := s.cores.filter fun e => !(s.pMap n).testBit (chipOf e.1) }
    let s := { s with parts := Tab.erase s.parts n }
    (((s.setPMap n 0).setReg (0x418 + 32 * n) 0).setPstat n 0 0 false).serviceFaulty)

end Sys2Proof.Machine
end

