-- ==== Sys2Proof/Machine/System.lean ====
section
/-! DEFINITION. Group 0xE_: traps and the return from them, the system registers, CCTL, TLBI and HALT
(R204 to R212). -/

namespace Sys2Proof.Machine

/-- TRAP (R207): each thread whose guard holds parks with cause 0x12; in the shepherd the launch stops. -/
def execTrap (o : Op) (s : State) : Host.Outcome State Fault Refusal := laneOp o .f4 0 (fun _ => .fail 0x12) s

/-! ### TRET (R204) -/

/-- A thread of a drove that is in its handler. -/
def Env.tretOk (e : Env) : Bool := !e.a.shep && e.thread.inHandler
/-- The address of a thread's frame (R203). -/
def Env.frameAt (e : Env) : DWord := e.l.tframe + BitVec.ofNat 64 (e.lane.tid * 512)
/-- TRET's read of a frame. -/
def tretAsk (s : State) (e : Env) : State × Found := s.askLane e e.frameAt 512

/-- What TRET finds for one thread: its frame, or the cause and address with which it traps. -/
def State.tretRead (s : State) (e : Env) : State × Except (BitVec 8 × DWord × Nat) (List Word) :=
  if !e.tretOk then (s, .error (1, 0, 0))
  else match s.found e (fun s => tretAsk s e) with
    | (s, .fault k) => (s, .error (k, e.frameAt, Acc.read.code))
    | (s, .away _) => (s, .error (6, e.frameAt, Acc.read.code))
    | (s, .data bs) =>
      let ws := wordsOf 128 bs
      (s, if frameOk ws then .ok ws else .error (2, 0, 0))

/-- The frames of the lanes, read in ascending order. -/
def tretFrames (es : List Env) (s : State) : State × List (Env × Except (BitVec 8 × DWord × Nat) (List Word)) :=
  es.foldl (fun (x : State × List (Env × Except (BitVec 8 × DWord × Nat) (List Word))) e =>
    let (s, out) := x.1.tretRead e
    (s, x.2 ++ [(e, out)])) (s, [])

/-- One thread returns; a thread of a cancelled launch is discarded (R147). -/
def State.tretLane (s : State) (r : AgentRef) (e : Env) (ws : List Word) : State :=
  if e.l.cancelled then
    s.updCore r.core fun k =>
      { k with
          threads := Tab.erase k.threads (threadKey e.a.lid e.tid)
          agents := Tab.upd k.agents r.id fun a => { a with lanes := Tab.erase a.lanes e.n } }
  else s.trapReturn r e.n ((Tab.get? (s.agentD r).lanes e.n).getD e.lane) ws

/-- An older drove of the same quadrant is to file its threads. -/
def State.olderFiles (s : State) (r : AgentRef) : Bool :=
  (s.core r.core).agents.any fun e => !e.2.shep && e.2.quad == (s.agentD r).quad && decide (e.1 < r.id) && e.2.ended
    && !e.2.lanes.isEmpty && e.2.pending.all (fun p => p.await.isEmpty) && e.2.lanes.all (fun x => x.2.parking.isNone)
    && !s.trackerFull r.core e.2.lid e.2.exits

/-- The thread exits: its frame holds RESUME 3. -/
def tretExits (x : Env × Except (BitVec 8 × DWord × Nat) (List Word)) : Bool :=
  match x.2 with
  | .ok ws => (ws.getD 65 0).toNat / 256 % 4 == 3
  | .error _ => false

/-- TRET: results of the matrix engine that the drove awaits land first; an exit without a free tracker entry waits. The lanes are
those whose guard held before that (R67). It files its threads after those of an older drove of its quadrant whose block has
ended (R235). Then each thread whose frame is good leaves the drove, and the others trap. -/
def execTret (o : Op) (s : State) : Host.Outcome State Fault Refusal :=
  fetchOp o 0 512 Env.tretOk tretAsk (fun r s =>
    let es := s.envs r o
    let s := if es.isEmpty then s else s.flushLoads r
    if !es.isEmpty && (s.agentD r).pending.any (fun p => !p.await.isEmpty) then s.waitFor r .sync
    else
      let s := if es.isEmpty then s else s.updAgent r Agent.landAll
      let (s, outs) := tretFrames es s
      if s.trackerFull r.core (s.agentD r).lid ((outs.filter tretExits).map fun x => x.1.tid) then s.waitFor r (.yield s.cycles)
      else if !es.isEmpty && s.olderFiles r then s.waitFor r (.yield (s.cycles + 1))
      else
        let s := outs.foldl (fun s x => match x.2 with
          | .ok ws => s.tretLane r x.1 ws
          | .error _ => s) s
        let traps := outs.filterMap fun x => match x.2 with
          | .ok _ => none
          | .error t => some (x.1.n, { LaneRes.of [] with trap := some t })
        (s.commit r o .f4 0 traps).reap r) s

/-! ### System registers (R208, R209) -/

/-- A system register. -/
def Env.sysReg (e : Env) (n : Nat) : Option Word :=
  let hi := fun (v : DWord) => (v >>> 32).setWidth 32
  match n with
  | 0x000 => some e.l.hintmiss
  | 0x001 => some (e.l.tframe.setWidth 32)
  | 0x002 => some (hi e.l.tframe)
  | 0x004 => some e.l.racectl
  | 0x005 => some (e.l.racelog.setWidth 32)
  | 0x006 => some (hi e.l.racelog)
  | 0x010 => some (BitVec.ofNat 32 e.l.part)
  | 0x011 => some (if e.l.priv then 1 else 0)
  | 0x012 => some (Config.pkgId.setWidth 32)
  | 0x100 => some e.s.migThresh
  | 0x101 => some e.s.qIdle
  | 0x102 => some e.s.wgTimer
  | _ => none

/-- SRD. -/
def execSrd (o : Op) (s : State) : Host.Outcome State Fault Refusal :=
  laneOp o .v 1 (fun e => match e.sysReg o.imm.toNat with
    | some v => .word v
    | none => .fail 1) s

/-- The low or the high half of an address register. -/
def setLow (a : DWord) (v : Word) : DWord := pairOf v ((a >>> 32).setWidth 32)
def setHigh (a : DWord) (v : Word) : DWord := pairOf (a.setWidth 32) v

/-- SWR for one thread: the register's new value, or the cause. -/
def State.sysWrite (s : State) (lid n : Nat) (v : Word) : Except (BitVec 8) State :=
  let x := v.toNat
  let range := fun (lo hi : Nat) (t : State) => if lo ≤ x ∧ x ≤ hi then .ok t else .error 2
  match n with
  | 0x001 =>
    if x % 512 ≠ 0 then .error 2 else .ok (s.updLaunch lid fun l => { l.keepWas s.cycles with tframe := setLow l.tframe v })
  | 0x002 =>
    if 2 ^ 25 ≤ x then .error 2 else .ok (s.updLaunch lid fun l => { l.keepWas s.cycles with tframe := setHigh l.tframe v })
  | 0x004 => .ok (s.updLaunch lid fun l => { l.keepWas s.cycles with racectl := v &&& 1 })
  | 0x005 => .ok (s.updLaunch lid fun l => { l with racelog := setLow l.racelog v })
  | 0x006 => .ok (s.updLaunch lid fun l => { l with racelog := setHigh l.racelog (v &&& 0x1FFFFFF) })
  | 0x100 => range 1 65535 { s with migThresh := v }
  | 0x101 => range 1 10000 { s with qIdle := v }
  | 0x102 => range 100 1000000 { s with wgTimer := v }
  | 0x000 | 0x010 | 0x011 | 0x012 => .error 2
  | _ => .error 1

/-- SWR: ascending lanes, so that the highest lane's value remains. The registers of the package are privileged. -/
def execSwr (o : Op) (s : State) : Host.Outcome State Fault Refusal :=
  let write := seqOp o 0 fun s e => match s.sysWrite e.a.lid o.imm.toNat (e.a32 o) with
    | .ok s => (s, .of [])
    | .error k => (s, .fail k)
  if isPrivSysReg o.imm.toNat then privileged write s else write s

/-! ### CCTL (R210) -/

/-- The bytes that CCTL acts on for one lane: whole lines, cut at pages. -/
def cctlSpans (a : DWord) (n : Nat) : List (DWord × Nat) :=
  if n = 0 then []
  else
    let first := a - BitVec.ofNat 64 (a.toNat % 128)
    let len := (a.toNat % 128 + n + 127) / 128 * 128
    let head := 65536 - first.toNat % 65536
    if len ≤ head then [(first, len)]
    else (first, head) :: (List.range ((len - head + 65535) / 65536)).map fun i =>
      (first + BitVec.ofNat 64 (head + 65536 * i), min 65536 (len - head - 65536 * i))

/-- The lines of the lanes that translate: their places with their lengths, and their virtual pages. -/
def State.cctlPlaces (s : State) (o : Op) (es : List Env) : State × List (Loc × DWord × Nat) :=
  (es.flatMap fun e => (cctlSpans (e.a64 o) (e.b32 o).toNat).map fun g => (e, g)).foldl
    (fun (x : State × List (Loc × DWord × Nat)) (g : Env × DWord × Nat) =>
      match x.1.xlate (some g.1.r.core) 0 g.1.l.part g.2.1 Acc.touch with
      | (s, .ok l) => (s, x.2 ++ [(l, g.2)])
      | (s, .error _) => (s, x.2)) (s, [])

/-- A byte of the L1 or the far cache lies among some places. -/
def inPlaces (ps : List (Loc × DWord × Nat)) (k : Nat) : Bool :=
  ps.any fun p => decide (p.1.key ≤ k) && decide (k < p.1.key + p.2.2)

/-- A store of a core that is not performed touches some places. -/
def State.dirtyIn (s : State) (c : Nat) (ps : List (Loc × DWord × Nat)) : Bool :=
  ps.any fun p => s.storeOver c p.1.key p.2.2

/-- The meaning of a CCTL: one that writes back (`wb`) waits for the stores of its core to its places, and then does `f`. -/
def cctlOp (o : Op) (wb : Bool) (f : State → Nat → Nat → List (Loc × DWord × Nat) → State) (s : State) :
    Host.Outcome State Fault Refusal :=
  agentOp (fun r s =>
    let s := s.latch r o
    let es := s.envs r o
    let (s, ps) := s.cctlPlaces o es
    if wb && s.dirtyIn r.core ps then s.waitStores r (ps.map fun p => (p.1.key, p.2.2))
    else (f s r.core (s.launchD (s.agentD r).lid).part ps).commit r o .f4 0 (es.map fun e => (e.n, .of []))) s

/-- CCTL.wb: the range's dirty lines reach their homes. -/
def execCctlWb (o : Op) (s : State) : Host.Outcome State Fault Refusal :=
  cctlOp o true (fun s _ _ _ => s) s
/-- CCTL.inv: then the range's lines leave the L1. -/
def execCctlInv (o : Op) (s : State) : Host.Outcome State Fault Refusal :=
  cctlOp o true (fun s c _ ps => s.l1Drop c (inPlaces ps)) s
/-- CCTL.farinv. -/
def execCctlFarinv (o : Op) (s : State) : Host.Outcome State Fault Refusal :=
  cctlOp o false (fun s _ _ ps =>
    let s := s.unkeep fun x => (List.range 128).any fun i => inPlaces ps (x.loc.key / 32 * 32 + i / 32 * 32)
    { s with fabric := { s.fabric with far := s.fabric.far.filter fun e => !inPlaces ps e.1 } }) s
/-- CCTL.icinv: the words of the range leave the core's instruction cache. -/
def execCctlIcinv (o : Op) (s : State) : Host.Outcome State Fault Refusal :=
  cctlOp o false (fun s c part ps =>
    s.updCore c fun k => { k with icache := k.icache.filter fun e =>
      !(ps.any fun p => decide (icKey part p.2.1 ≤ e.1) && decide (e.1 < icKey part p.2.1 + p.2.2)) }) s

/-! ### TLBI (R211, R318, R319) -/

/-- The first page and the number of pages of an invalidation; all ones names the whole space. -/
def tlbiRange (va : DWord) (n : Word) : Nat × Nat :=
  if n = 0xFFFFFFFF then (0, 2 ^ 41) else (va57 va / 65536, n.toNat)

/-- TLBI. -/
def execTlbi (o : Op) (s : State) : Host.Outcome State Fault Refusal :=
  privileged (seqOp o 0 fun s e => (s.invalidate e.l.part (tlbiRange (e.a64 o) (e.b32 o)), .of [])) s

/-! ### HALT (R212) -/

/-- A lane's HALT names its own partition or none, and traps with cause 0x02. -/
def haltBad (o : Op) (e : Env) : Bool := decide (15 < (e.a32 o).toNat) || decide ((e.a32 o).toNat = e.l.part)

/-- The halt of one partition that a HALT names, at the first time that it does: whether it must be awaited. -/
def State.haltName (s : State) (r : AgentRef) (p : Nat) : State :=
  if (Tab.get? (s.agentD r).served (haltMark p)).isSome then s
  else
    let st := s.pState p
    (s.haltPart p).updAgent r fun a =>
      { a with served := Tab.set a.served (haltMark p) (if st = 1 ∨ st = 2 then 1 else 2) }

/-- A partition that a HALT awaits. -/
def Agent.haltAwaits (a : Agent) : Option Nat :=
  (List.range 16).find? fun p => Tab.get? a.served (haltMark p) == some 1

/-- HALT: each partition that the lanes name is halted once, in ascending lane order, and awaited. -/
def execHalt (o : Op) (s : State) : Host.Outcome State Fault Refusal :=
  privileged (agentOp fun r s =>
    let s := s.latch r o
    let es := s.envs r o
    let good := es.filter fun e => !haltBad o e
    let s := (good.map fun e => (e.a32 o).toNat).foldl (fun s p => s.haltName r p) s
    let bad := es.filter (haltBad o)
    match (s.agentD r).haltAwaits with
    | some p => (s.waitFor r (.halt p)).trapLanes r (bad.map fun e => (e.n, 2, 0, 0))
    | none => s.commit r o .f4 0
        (bad.map (fun e => (e.n, LaneRes.fail 2)) ++ good.map fun e => (e.n, .of []))) s

end Sys2Proof.Machine
end

