-- ==== Sys2Proof/Machine/Fabric.lean ====
section
/-! DEFINITION. Translation and the fabric (R310 to R334): requests of other packages and to them, migration, answers to
fault records, bias, invalidation, and the host's accesses. -/

namespace Sys2Proof.Machine

def State.setFab (s : State) (f : Fabric → Fabric) : State := { s with fabric := f s.fabric }

/-! ### The home (R315, R320) -/

/-- The lowest partition that holds a space (R313, R315). -/
def State.homePart (s : State) (space : Nat) : Option Nat :=
  (List.range 16).find? fun n => (s.reg (0x30008 + 16 * n)).getLsbD 31 && s.space n == space

def reqAcc (r : HomeReq) : Acc :=
  if r.atomic.isSome then Acc.rmw else if r.write.isSome then Acc.write else Acc.read

/-- A reply echoes the mark of its request (R331). -/
def State.reply (s : State) (r : HomeReq) (a : HomeAns) : State := s.emit (.reply r.src r.tid a r.marked)

/-- A fault at the home: a record of KIND 5 in the home queue, on which the request waits; without a queue it is
unresolvable, and where the queue is full the source tries again (R322, R323). -/
def State.homeFault (s : State) (n : Nat) (r : HomeReq) : State :=
  let page := va57 r.va / 65536
  let f : FqWords :=
    { kind := 5, path := r.path, cause := 6, acc := (reqAcc r).code, va := r.va, launch := 0, who := r.tid,
      space := r.space, part := n, peer := r.src, info := 1 }
  match s.fqRecord 400 f (n * 2 ^ 41 + page) [.home r] with
  | (s, .waits) => s.reply r (.pending 6)
  | (s, .noQueue) => s.reply r (.fault 6)
  | (s, .full) => s.reply r (.retry 6)

/-- The counter of smallest value, the oldest of those. -/
def leastCount (l : List ((Nat × Nat × Nat) × Nat)) : Option (Nat × Nat × Nat) :=
  (l.foldl (fun (b : Option ((Nat × Nat × Nat) × Nat)) x => match b with
    | some y => if x.2 < y.2 then some x else b
    | none => some x) none).map (·.1)

/-- A request counts for migration (R320). -/
def countRequest (l : List ((Nat × Nat × Nat) × Nat)) (k : Nat × Nat × Nat) : List ((Nat × Nat × Nat) × Nat) :=
  if l.any fun x => x.1 == k then l.map fun x => if x.1 = k then (k, x.2 + 1) else x
  else
    let l := if l.length < 16384 then l else match leastCount l with
      | some g => l.filter fun x => x.1 != g
      | none => l
    l ++ [(k, 1)]

/-- Bytes are written at a frame of this package by another, or by its host, but for those that a byte mask leaves out (R315,
R328, R329): a store of part of an uncorrectable sector is dropped, with a record of KIND 2 (R363). -/
def State.outsideWrite (s : State) (pa mask : Nat) (who : Word) (bs : List Byte) : State :=
  let one := fun (s : State) (pa : Nat) (bs : List Byte) =>
    (((s.partLog (.dev pa) bs.length 0 who).approach none (.dev pa) bs.length).devWrite pa bs).wrote pa bs.length
  if (List.range bs.length).all mask.testBit then one s pa bs
  else (bs.mapIdx fun i b => (i, b)).foldl (fun s x => if mask.testBit x.1 then one s (pa + x.1) [x.2] else s) s

/-- An accepted request is performed at the L2 (R315), of a read the sectors of its mask (R329). -/
def State.homeAccess (s : State) (r : HomeReq) (pa : Nat) : State :=
  let put := fun (s : State) (bs : List Byte) =>
    let s := s.outsideWrite pa (if r.atomic.isSome then 2 ^ bs.length - 1 else r.mask) r.tid bs
    if r.path = 0 then s else s.shadowClear pa bs.length
  let s := s.approach none (.dev pa) r.size
  match r.atomic, r.write with
  | some (op, b, x), _ =>
    let n := r.size
    if s.badRange pa n then s.reply r (.fault 0x10)
    else
      let old := s.hubBytes (.dev pa) n
      let m := 2 ^ (8 * n)
      let new := bytesLE n (atomNew op (8 * n) (ofBytesLE old) (b.toNat % m) (x.toNat % m))
      (put s new).reply r (.data old)
  | none, some bs => (put s bs).reply r .accepted
  | none, none =>
    if s.badRange pa r.size then s.reply r (.fault 0x10)
    else s.reply r (.data ((s.hubBytes (.dev pa) r.size).mapIdx fun i b => if r.mask.testBit ((pa % 32 + i) / 32) then b else 0))

/-- A request of MODE MIGRATE under a leaf of 64 KiB at both ends counts, whatever comes of it (R320). -/
def State.counted (s : State) (n : Nat) (r : HomeReq) (e : DWord) (level : Nat) : State :=
  if r.mode == 2 && r.leaf64 && level == 1 && e.getLsbD 7 then
    s.setFab fun f => { f with migr := countRequest f.migr (n, va57 r.va / 65536, r.src) }
  else s

/-- A request at its home (R315). -/
def State.homeServe (s : State) (r : HomeReq) : State :=
  match s.homePart r.space with
  | none => s.reply r (.fault 6)
  | some n =>
    let page := va57 r.va / 65536
    if s.fabric.moving.any fun m => m.part == n && m.page == page && m.frame.isNone then
      s.setFab fun f => { f with waiting := f.waiting ++ [r] }
    else match s.leaf none 0 n r.va with
      | (s, none) => s.homeFault n r
      | (s, some (e, lv)) =>
        if pteKind e = 5 then s.emit (.notHere r.src r.tid (ptePeer e) r.marked)
        else match pteKind e, leafLoc r.space r.path (reqAcc r) r.va e lv with
          | 1, .ok (.dev pa) =>
            if s.frameHeld pa then s.setFab fun f => { f with waiting := f.waiting ++ [r] }
            else (s.homeAccess r pa).counted n r e lv
          | 1, .error k => (s.reply r (.fault k)).counted n r e lv
          | _, _ => s.homeFault n r

/-- It is a packet's turn at the home (R330): the packets of its source to its line before it have come, and of an atomic those of
its instruction. One that was sent again after it had come is served again (log 76). -/
def State.homeDue (s : State) (r : HomeReq) : Bool :=
  decide (r.seq ≤ Tab.getD s.fabric.heard (lineNo r.src r) 0) && match r.inst with
    | some (i, place) => decide (place ≤ Tab.getD s.fabric.heard (instNo r.src i) 0)
    | none => true

/-- A packet is counted, and served. -/
def State.homeTake (s : State) (r : HomeReq) : State :=
  let count := fun (t : Tab Nat) (k n : Nat) => Tab.set t k (max (Tab.getD t k 0) (n + 1))
  (s.setFab fun f =>
    let heard := count f.heard (lineNo r.src r) r.seq
    { f with heard := match r.inst with
        | some (i, place) => count heard (instNo r.src i) place
        | none => heard }).homeServe r

/-- The packets that came before their turn are served as it comes; `fuel` bounds them. -/
def State.homeEarly : Nat → State → State
  | 0, s => s
  | fuel + 1, s => match s.fabric.early.find? s.homeDue with
    | some r => State.homeEarly fuel ((s.setFab fun f => { f with early := f.early.filter (· != r) }).homeTake r)
    | none => s

/-- HOME_REQUEST (R315, R329, R330): a packet of at most 256 bytes comes; one whose turn has not come waits for it. -/
def execHomeRequest (r : HomeReq) (s : State) : Host.Outcome State Fault Refusal :=
  .next (if 256 < r.size ∨ 256 < (r.write.getD []).length then s
    else if s.homeDue r then State.homeEarly s.fabric.early.length (s.homeTake r)
    else s.setFab fun f => { f with early := f.early ++ [r] })

/-- The requests that wait at the home are served again. -/
def State.serveWaiting (s : State) : State :=
  let rs := s.fabric.waiting
  rs.foldl State.homeServe (s.setFab fun f => { f with waiting := [] })

/-! ### The source (R316, R321, R330) -/

/-- A request is over: its agent goes on when it was the last. -/
def State.endRemote (s : State) (idx : Nat) (r : Remote) : State :=
  let s := s.setFab fun f => { f with remote := Tab.erase f.remote idx }
  let more := s.fabric.remote.any fun e => e.2.ofLane && e.2.core == r.core && e.2.ag == r.ag
  let who : AgentRef := { core := r.core, id := r.ag }
  if !r.ofLane then s
  else match s.agent? who with
  | some a => if a.wait = some .remote ∧ !more then s.wake who else s
  | none => s

/-- The result of an answered load or atomic. -/
def Remote.writes (r : Remote) (bs : List Byte) : List LaneWrite :=
  let ws := fun (dst : List Reg) (vals : List Word) =>
    dst.zipWith (fun g v => ({ lane := r.lane, reg := g, val := v } : LaneWrite)) vals
  match r.kind with
  | .load n sext dst => ws dst (loadWords n sext bs)
  | .atomic _ wide _ _ _ dst => ws dst (valWords (if wide then 8 else 4) (ofBytesLE bs))
  | _ => []

/-- The bytes that an answer brings: as many as were asked for. -/
def Remote.sectors (r : Remote) (bs : List Byte) : List Byte := (bs ++ listGen (fun _ => 0) r.span.2).take r.span.2
/-- Those of them that the access reads. -/
def Remote.read (r : Remote) (bs : List Byte) : List Byte :=
  let bs := r.sectors bs
  if r.fills then (bs.drop (r.loc.key % 32)).take r.size else bs

/-- The copies that this package holds of some bytes homed elsewhere go, and a core's clean ones. -/
def State.dropSectors (s : State) (c key n : Nat) : State :=
  let hit := fun (k : Nat) => decide (key ≤ k) && decide (k < key + n)
  (s.setFab fun f => { f with far := f.far.filter fun e => !hit e.1 }).l1Drop c hit

/-- A read of a CACHE or MIGRATE page fills the far cache with its sectors and, on path V, the core's L1, unless what it
brings may not be kept (R236, R247, R250). What earlier requests for these sectors still bring is older, and is not kept (R240). -/
def State.farFill (s : State) (idx : Nat) (r : Remote) (bs : List Byte) : State :=
  if r.fills then
    let key := r.span.1.key
    let near := match r.kind with
      | .pref _ near => near
      | _ => r.path == 0
    let s := s.dropSectors r.core key r.span.2
    if r.keep then
      let s := s.setFab fun f =>
        { f with
            far := putBytes f.far key (r.sectors bs)
            remote := f.remote.mapVals fun i x =>
              if i < idx ∧ meets x.span.1.key x.span.2 key r.span.2 then { x with keep := false } else x }
      if near then s.updCore r.core fun k => { k with l1 := l1Fill k.l1 key (r.sectors bs) } else s
    else s
  else s

/-- Bytes of the L1 that it holds are replaced by clean ones. -/
def replaceL1 (t : Tab L1Byte) (k : Nat) : List Byte → Tab L1Byte
  | [] => t
  | b :: bs => replaceL1 (if (Tab.get? t k).isSome then Tab.set t k { val := b, dirty := false } else t) (k + 1) bs

/-- Reads on their way to a sector that a write has reached are not kept (R250). -/
def State.overtaken (s : State) (key n : Nat) : State :=
  s.unkeep fun x => meets x.span.1.key x.span.2 (key / 32 * 32) (key % 32 + n)

/-- An accepted store takes effect in the copies that this package holds (R316, R247), and is then performed. -/
def State.storeAccepted (s : State) (r : Remote) (bs : List Byte) : State :=
  let s := (s.setFab fun f => { f with far := replaceBytes f.far r.loc.key bs }).overtaken r.loc.key bs.length
  let s := s.updCore r.core fun k => { k with l1 := replaceL1 k.l1 r.loc.key bs, settledAt := some s.cycles }
  if r.rel then s.releaseNow r.core r.lid r.scope else s

/-- The notice of KIND 2 for the first lane of an instruction whose page its home cannot resolve (R324); INFO counts the lanes that
wait on that home's answer, this one among them (R322). -/
def State.homeNotice (s : State) (r : Remote) : State :=
  if r.noticed then s
  else
    let l := s.launchD r.lid
    let same := fun (x : Remote) => x.ofLane == r.ofLane && x.core == r.core && x.ag == r.ag && x.word == r.word
      && va57 x.va / 65536 == va57 r.va / 65536
    let others := (s.fabric.remote.map (·.2)).filter fun x => same x && x.pending
    let first := others.foldl (fun (b : Remote) x => if x.lane < b.lane then x else b) r
    let shep := r.tid == shepTid
    let f : FqWords :=
      { kind := 2, path := r.path, cause := 6, acc := r.acc.code, va := first.va, launch := l.recW 8,
        who := if shep then 0xFFFFFFFF else BitVec.ofNat 32 first.tid, space := s.space l.part, part := l.part,
        peer := r.pkg, info := BitVec.ofNat 32 (min 128 (others.length + 1)) }
    let (s, _) := s.fqRecord r.core f (va57 r.va / 65536) []
    s.setFab fun f => { f with remote := f.remote.mapVals fun _ x => if same x then { x with noticed := true } else x }

/-- A lane's access has failed: the lane parks at its instruction with the cause, once the other lanes' answers are in. -/
def State.failLane (s : State) (idx : Nat) (r : Remote) (cause : BitVec 8) : State :=
  let who : AgentRef := { core := r.core, id := r.ag }
  let s := (s.deliver who idx []).endRemote idx r
  match s.agent? who with
  | none => s
  | some a =>
    let p : Park :=
      { cause, word := r.word, blk := a.blk, addr := r.va, acc := r.acc.code, path := r.path,
        tframe := (s.launchD r.lid).tframeAt s.cycles, target := none }
    let s := if cause = 0x10 then s.ueLane who r.lane r.va else s
    if a.shep then s.shepTrap who p
    else if a.pending.any fun q => !q.await.isEmpty then
      s.updAgent who fun a => { a with lanes := Tab.upd a.lanes r.lane fun l => { l with parking := some p } }
    else s.parkLanes who [(r.lane, p)]

/-- What an instruction reads before it acts has come. -/
def State.fetched (s : State) (idx : Nat) (r : Remote) (e : Elem) : State :=
  (s.updAgent { core := r.core, id := r.ag } fun a => { a with got := Tab.set a.got r.lane e }).endRemote idx r

/-- The answer to a frame of a trap: the thread begins its handler, or the launch stops (R203). -/
def State.framed (s : State) (idx : Nat) (r : Remote) (cause : Option (BitVec 8)) : State :=
  let s := s.endRemote idx r
  match Tab.get? (s.core r.core).threads (threadKey r.lid r.tid) with
  | some { park := some p, .. } => match cause with
    | some k => s.stopEntry r.lid r.tid p p.cause k
    | none => s.beginHandler r.core r.lid r.tid p
  | _ => s

/-- The answer to a fetch of a stream: an index leads to its element (R159). -/
def State.elemCame (s : State) (idx : Nat) (r : Remote) (strm i : Nat) (index : Bool) (e : Elem) : State :=
  let s := s.endRemote idx r
  let x := s.stream r.core r.lid strm
  (match index, e with
    | true, .data bs => s.fetchFrom r.core r.lid strm i (x.indexed (word32 bs))
    | _, e => s.putElem r.core r.lid strm i e).wakeStream r.core r.lid

/-- A thread that awaited its request in the fault fold goes on to step 2 of R201 (R229, R324). -/
def State.failParked (s : State) (idx : Nat) (r : Remote) (cause : BitVec 8) : State :=
  let s := s.endRemote idx r
  match Tab.get? (s.core r.core).threads (threadKey r.lid r.tid) with
  | some t => match t.park with
    | some p =>
      let s := if cause = 0x10 then s.ueRead r.lid (BitVec.ofNat 32 r.tid) r.va else s
      s.disposeTrap r.core r.lid r.tid (t.rowLane (s.tick * 128)) { p with cause }
    | none => s
  | none => s

/-- A thread that awaits the answer of another package in the fault fold executes its instruction again (R230, R231). -/
def State.againParked (s : State) (idx : Nat) (r : Remote) : State :=
  let s := s.endRemote idx r
  match Tab.get? (s.core r.core).threads (threadKey r.lid r.tid) with
  | some { park := some p, .. } => s.fileResume r.core r.lid r.tid p.word p.blk
  | _ => s

/-- A request has failed (R316, R324, R330). A PREF's is dropped (R158). -/
def State.failRemote (s : State) (idx : Nat) (r : Remote) (cause : BitVec 8) : State :=
  let s := s.setFab fun f => { f with remote := Tab.erase f.remote idx }
  let quiet := match r.kind with
    | .pref _ _ => true
    | _ => false
  let s := if cause = 6 && !quiet then s.homeNotice r else s
  if r.parked then s.failParked idx r cause
  else match r.kind with
  | .pref _ _ => s
  | .fetch _ => s.fetched idx r (.fault cause r.va)
  | .frame _ => s.framed idx r (some cause)
  | .elem strm i _ index => s.elemCame idx r strm i index (.fault cause r.va)
  | _ => s.failLane idx r cause

/-- The data of a request have come (R316, R242, R247): an acquire performs now, and the value is what the answer brings. -/
def State.dataCame (s : State) (idx : Nat) (r : Remote) (bs : List Byte) : State :=
  let who : AgentRef := { core := r.core, id := r.ag }
  let acq := fun (s : State) => if r.acq then s.acquire r.core r.lid r.tid r.scope else s
  let give := fun (s : State) (ws : List LaneWrite) =>
    if r.parked then (s.endRemote idx r).finishParked r.core r.lid r.tid ws else (s.deliver who idx ws).endRemote idx r
  match r.kind with
  | .load _ _ _ => give ((acq s).farFill idx r bs) (r.writes (r.read bs))
  | .pref _ _ => (s.farFill idx r bs).endRemote idx r
  | .atomic _ _ ret _ _ _ =>
    let s := (s.dropSectors r.core (r.loc.key / 128 * 128) 128).overtaken r.loc.key r.size
    let s := s.updCore r.core fun k => { k with settledAt := some s.cycles }
    let s := acq (if r.rel then s.releaseNow r.core r.lid r.scope else s)
    give s (if ret then r.writes (r.read bs) else [])
  | .fetch _ =>
    let s := s.farFill idx r bs
    if r.parked then s.againParked idx r else s.fetched idx r (.data (r.read bs))
  | .elem strm i _ index => (s.farFill idx r bs).elemCame idx r strm i index (.data (r.read bs))
  | _ => s

/-- A request is sent anew, in packets of new numbers. -/
def State.resend (s : State) (idx : Nat) (r : Remote) : State :=
  match s.sendPackets (some idx) r.pkg r.packetsOf with
  | (s, packets) => s.setFab fun f => { f with remote := Tab.set f.remote idx { r with packets } }

/-- The packets of a request are sent once more as they were (R330). -/
def State.sendAgain (s : State) (idx : Nat) (r : Remote) : State :=
  r.packets.foldl (fun s p => s.emit (.request (some idx) r.pkg p)) (s.setFab fun f => { f with remote := Tab.set f.remote idx r })

/-- An answer that a home gives to a request of a partition that is halted or saved, once it had said that it waits, is kept until
the partition resumes (R341, R344). -/
def State.keptReply (s : State) (r : Remote) : Bool := r.pending && decide (2 < s.pState (s.launchD r.lid).part)

/-- A home waits for its software (R324, R229): a PREF is dropped, and the lanes of a drove that has no other answer to come park. -/
def State.nowPending (s : State) (idx : Nat) (r : Remote) : State :=
  match r.kind with
  | .pref _ _ => s.endRemote idx r
  | _ => (s.setFab fun f => { f with remote := Tab.set f.remote idx { r with pending := true } }).parkPending
      { core := r.core, id := r.ag }

/-- HOME_REPLY (R316, R324): data or an acceptance completes the access, a fault fails it, a pending fault goes on waiting, and
a retry sends the request again, or has a parked thread execute its instruction again (R323). -/
def execHomeReply (idx : Nat) (a : HomeAns) (s : State) : Host.Outcome State Fault Refusal :=
  .next (match Tab.get? s.fabric.remote idx with
    | none => s
    | some r =>
      if s.keptReply r then
        s.updPart (s.launchD r.lid).part fun p => { p with replies := p.replies ++ [(idx, a)] }
      else match a, r.kind with
      | .data bs, _ => s.dataCame idx r bs
      | .accepted, .store bs =>
        let s := s.storeAccepted r bs
        if r.parked then (s.endRemote idx r).finishParked r.core r.lid r.tid []
        else (s.deliver { core := r.core, id := r.ag } idx []).endRemote idx r
      | .accepted, .frame bs => (s.storeAccepted r bs).framed idx r none
      | .accepted, _ => s
      | .fault cause, _ => s.failRemote idx r cause
      | .pending _, _ => s.nowPending idx r
      | .retry _, .pref _ _ => s.endRemote idx r
      | .retry _, _ =>
        if r.parked then s.againParked idx r
        else s.resend idx { r with pending := false, again := false, sent := s.nanos })

/-- NOT_HERE_REPLY (R321): the request goes on to the package named; the fifth is a home fault that is not resolvable. -/
def execNotHereReply (idx peer : Nat) (s : State) : Host.Outcome State Fault Refusal :=
  .next (match Tab.get? s.fabric.remote idx with
    | none => s
    | some r =>
      let s := s.wentTo (s.launchD r.lid).part r.pkg r.space r.va peer
      if 4 ≤ r.hops then
        if s.keptReply r then s.updPart (s.launchD r.lid).part fun p => { p with replies := p.replies ++ [(idx, .fault 6)] }
        else s.failRemote idx r 6
      else s.resend idx
        { r with pkg := peer, hops := r.hops + 1, pending := false, again := false, sent := s.nanos, keep := true })

/-- REQUEST_RETRY_TIMEOUT (R330): a request unanswered for 200 µs is sent once more; a second lapse fails it. -/
def execRequestRetryTimeout (idx : Nat) (s : State) : Host.Outcome State Fault Refusal :=
  .next (match Tab.get? s.fabric.remote idx with
    | none => s
    | some r =>
      if r.pending || decide (s.nanos < r.sent + 200000) then s
      else if r.again then s.failRemote idx r 0x10
      else s.sendAgain idx { r with again := true, sent := s.nanos })

/-! ### Congestion (R331) -/

def State.rateOf (s : State) (pkg : Nat) : Rate :=
  Tab.getD s.fabric.rate pkg { num := 1, sh := 0, mark := 0, at_ := 0 }
def State.setRate (s : State) (pkg : Nat) (r : Rate) : State :=
  s.setFab fun f => { f with rate := Tab.set f.rate pkg r }

/-- CONGESTION_MARK_ECHO: the rate halves, not below 1/64, at most once per 5 µs; any echo puts off its rise. -/
def execCongestionMarkEcho (pkg : Nat) (s : State) : Host.Outcome State Fault Refusal :=
  .next (
    let r := s.rateOf pkg
    if (Tab.get? s.fabric.rate pkg).isSome && decide (s.nanos < r.mark + 5000) then s.setRate pkg { r with at_ := s.nanos }
    else
      let low := decide (r.num * 64 ≤ 2 ^ (r.sh + 1))
      s.setRate pkg { num := if low then 1 else r.num, sh := if low then 6 else r.sh + 1, mark := s.nanos, at_ := s.nanos })

/-- RATE_RECOVERY_TICK: after 5 µs without a mark the rate rises by 1/32, up to 1. -/
def execRateRecoveryTick (pkg : Nat) (s : State) : Host.Outcome State Fault Refusal :=
  .next (match Tab.get? s.fabric.rate pkg with
    | none => s
    | some r =>
      if s.nanos < r.at_ + 5000 then s
      else
        let sh := max r.sh 5
        let num := r.num * 2 ^ (sh - r.sh) + 2 ^ (sh - 5)
        let full := decide (2 ^ sh ≤ num)
        s.setRate pkg { r with num := if full then 1 else num, sh := if full then 0 else sh, at_ := s.nanos })

/-! ### Migration (R320) -/

/-- A record of KIND 7 in the home queue: a frame freed (0) or taken (1). -/
def State.moveRecord (s : State) (part : Nat) (va : DWord) (who frame : Nat) : State :=
  (s.fqRecord 400
    { kind := 7, path := 0, cause := 0, acc := 0, va := BitVec.ofNat 64 (va57 va / 65536 * 65536), launch := 0,
      who := BitVec.ofNat 32 who, space := s.space part, part, peer := 0, info := BitVec.ofNat 32 frame }
    0 []).1

def State.dropMove (s : State) (m : Move) : State :=
  s.setFab fun f => { f with moving := f.moving.filter (· != m) }

/-- The frame list of migration: the last entry is taken, or given back (R313, R320). -/
def State.poolAddr (s : State) (i : Nat) : Nat := (s.reg64 0x30110).toNat + 4 * i
def State.takeFrame (s : State) : Option (State × Nat) :=
  let n := (s.reg 0x30118).toNat
  if n = 0 then none
  else match s.privRead (s.poolAddr (n - 1)) 4 with
    | some bs => some (s.setReg 0x30118 (BitVec.ofNat 32 (n - 1)), (word32 bs).toNat)
    | none => none
def State.giveFrame (s : State) (frame : Nat) : State :=
  let n := (s.reg 0x30118).toNat
  ((s.privWrite (s.poolAddr n) (bytes32 (BitVec.ofNat 32 frame))).getD s).setReg 0x30118 (BitVec.ofNat 32 (n + 1))

/-- A LOCAL leaf of 64 KiB with some permissions: bit 0 R, 1 W, 2 X, 3 MIGOK. -/
def localLeaf (frame : Nat) (p : BitVec 4) : DWord := BitVec.ofNat 64 (frame * 65536 + p.toNat * 16 + 3)
/-- A DRIFT leaf (R311). -/
def driftLeaf (peer : Nat) : DWord := BitVec.ofNat 64 (peer % 4096 * 65536 + 11)

/-- R, W, X and MIGOK of a LOCAL leaf: bits 0 to 3. -/
def leafPerms (e : DWord) : BitVec 4 := e.extractLsb' 4 4

/-- Bytes in parts of 256 (R329). -/
def parts256 : Nat → Nat → List Byte → List (Nat × List Byte)
  | 0, _, _ => []
  | n + 1, i, bs => (i, bs.take 256) :: parts256 n (i + 1) (bs.drop 256)

/-- The home's side, step 3: the page is sent in parts, with the permissions of its leaf. -/
def State.sendPage (s : State) (m : Move) (va : DWord) : State :=
  match s.walkLeaf m.part va with
  | some (e, 1, _) =>
    if pteKind e = 1 && e.getLsbD 7 then
      let bs := s.hubBytes (.dev (pteAddr e)) 65536
      let s := (parts256 256 0 bs).foldl (fun s x =>
        s.emit (.page m.pkg (s.space m.part) m.page (leafPerms e) x.1 x.2)) (s.approach none (.dev (pteAddr e)) 65536)
      s.setFab fun f => { f with moving := f.moving.map fun x => if x == m then { x with sent := true } else x }
    else (s.dropMove m).serveWaiting
  | _ => (s.dropMove m).serveWaiting

/-- Step 5, once the parts are acknowledged: the leaf becomes DRIFT, and waiting requests are answered with not-here. -/
def State.pageGone (s : State) (m : Move) (va : DWord) : State :=
  let s := s.dropMove m
  match s.walkLeaf m.part va with
  | some (e, 1, at_) =>
    if pteKind e = 1 && e.getLsbD 7 then
      let s := s.devWrite at_ (bytes64 (driftLeaf m.pkg))
      let s := s.invalidate m.part (m.page, 1)
      let s := s.setFab fun f => { f with migr := f.migr.filter fun x => x.1.1 != m.part || x.1.2.1 != m.page }
      (s.moveRecord m.part va 0 (pteAddr e / 65536)).serveWaiting
    else s.serveWaiting
  | _ => s.serveWaiting

/-- The taker's side: the page's parts arrive in the frame and are acknowledged, and the ROUTE leaf becomes LOCAL. -/
def State.receivePage (s : State) (m : Move) (frame : Nat) (va : DWord) : State :=
  let s := s.dropMove m
  match s.walkLeaf m.part va with
  | some (e, 1, at_) =>
    if pteKind e = 2 ∨ pteKind e = 5 then
      let base := va57 va / 65536 * 65536
      let tick := s.tick
      let s := (List.range 256).foldl (fun s i => s.emit (.pageAck (ptePeer e) (s.space m.part) m.page i)) s
      let s := s.devWrite (frame * 65536) (listGen (fun i => Config.remoteByte tick (ptePeer e) (base + i)) 65536)
      let s := s.devWrite at_ (bytes64 (localLeaf frame (Config.movedPerms tick)))
      let s := s.dropRemotePage (ptePeer e) (s.space m.part) va
      let s := s.invalidate m.part (m.page, 1)
      s.moveRecord m.part va 1 frame
    else s.giveFrame frame
  | _ => s.giveFrame frame

/-- The home's side of a move that has not begun (R320, step 1): it asks the package for a frame once the count has reached
MIGTHRESH, and the answer begins the move, or sets the counter to 0. -/
def State.askFrame (s : State) (part : Nat) (va : DWord) (pkg : Nat) (granted : Bool) : State :=
  let page := va57 va / 65536
  let key := (part, page, pkg)
  let due := s.fabric.migr.any fun x => x.1 == key && decide (s.migThresh.toNat ≤ x.2)
  let movable := match s.walkLeaf part va with
    | some (e, 1, _) => pteKind e == 1 && e.getLsbD 7
    | _ => false
  if s.fabric.asked.contains key then
    let s := s.setFab fun f => { f with asked := f.asked.filter (· != key) }
    if granted && movable then
      s.setFab fun f => { f with moving := f.moving ++ [{ part, page, pkg, since := s.nanos, frame := none, sent := false }] }
    else s.setFab fun f => { f with migr := f.migr.map fun x => if x.1 = key then (x.1, 0) else x }
  else if due && movable then
    (s.setFab fun f => { f with asked := f.asked ++ [key] }).emit (.frame pkg (s.space part) page)
  else s

/-- The taker's side (R320, step 1): it gives a frame of its list for a page that its own leaf routes, or refuses. -/
def State.grantFrame (s : State) (part : Nat) (va : DWord) : State :=
  let page := va57 va / 65536
  match s.walkLeaf part va with
  | some (e, 1, _) =>
    if pteKind e = 2 ∧ pteMode e = 2 then match s.takeFrame with
      | some (s, frame) =>
        (s.setFab fun f => { f with moving := f.moving ++
          [{ part, page, pkg := Config.pkgId.toNat, since := s.nanos, frame := some frame, sent := false }] }).emit
          (.frameReply (ptePeer e) (s.space part) page true)
      | none => s.emit (.frameReply (ptePeer e) (s.space part) page false)
    else s
  | _ => s

/-- MIGRATION (R320), in steps of the event: the home asks for a frame, its answer begins the move, the page is sent, and the move
ends with its acknowledgement, within 40 µs. This package is the one that gives the page away or, where `pkg` is its own number, the one that takes it. -/
def execMigration (part : Nat) (va : DWord) (pkg : Nat) (granted : Bool) (s : State) : Host.Outcome State Fault Refusal :=
  let page := va57 va / 65536
  .next (match s.fabric.moving.find? fun m => m.part == part && m.page == page && m.pkg == pkg with
    | some m =>
      if m.since + 40000 ≤ s.nanos then s
      else match m.frame with
        | some frame => s.receivePage m frame va
        | none => if m.sent then s.pageGone m va else s.sendPage m va
    | none => if pkg == Config.pkgId.toNat then s.grantFrame part va else s.askFrame part va pkg granted)

/-- MIGRATION_ABANDON: a move that has not finished in 40 µs is given up; the frame goes back and the page stays. -/
def execMigrationAbandon (part : Nat) (va : DWord) (s : State) : Host.Outcome State Fault Refusal :=
  .next (match s.fabric.moving.find? fun m => m.part == part && m.page == va57 va / 65536 with
    | some m =>
      if s.nanos < m.since + 40000 then s
      else
        let s := s.dropMove m
        match m.frame with
        | some frame => s.giveFrame frame
        | none => s.serveWaiting
    | none => s)

/-! ### Answers to fault records (R324) -/

/-- An answer reaches one who waits. What belongs to a partition that is halted or saved waits until it resumes (R341). -/
def State.answer (s : State) (w : Waiter) (ok : Bool) (va : DWord) : State :=
  match w with
  | .home r => if ok then s.homeServe r else s.reply r (.fault 6)
  | w => match w.lid?.bind s.launch? with
    | some l =>
      if s.pState l.part ≤ 2 then s.applyAnswer w ok va
      else s.updPart l.part fun p => { p with answers := p.answers ++ [(w, ok, va)] }
    | none => s

/-- A record is answered: every waiter hears of it. -/
def State.answerAll (s : State) (r : FqRec) (ok : Bool) : State :=
  r.waiters.foldl (fun s w => s.answer w ok r.va) s

/-- RESP of a record, as the part reads it. -/
def State.respOf (s : State) (q slot : Nat) : Nat :=
  match s.privRead ((s.reg64 0x30100).toNat + fqAddr q + 32 * slot) 1 with
  | some bs => ofBytesLE bs
  | none => 0

/-- FQACK (R8, R324): bits 31:21 are ignored; the slot is free; a record that awaits an answer is resolved by RESP 1, and by no other. -/
def execFqack (v : Word) (s : State) : Host.Outcome State Fault Refusal :=
  let q := v.toNat % 512
  let slot := v.toNat / 512 % 4096
  .next (if !s.isReady then s
    else match Tab.get? (s.fq q).recs slot with
      | none => s
      | some r =>
        let ok := s.respOf q slot == 1
        let fq := s.fq q
        let s := s.setFq q { fq with recs := Tab.erase fq.recs slot, ovf := fq.ovf && r.kind != 4 }
        if r.open_ then s.answerAll r ok else s)

/-- FAULT_TIMEOUT (R324): a record unanswered for FAULTTO ms receives RESP 3 and is unresolvable. -/
def execFaultTimeout (queue slot : Nat) (s : State) : Host.Outcome State Fault Refusal :=
  .next (match Tab.get? (s.fq queue).recs slot with
    | none => s
    | some r =>
      if !r.open_ || decide (s.nanos < r.at_ + (s.reg 0x3010C).toNat * 1000000) then s
      else
        let at_ := (s.reg64 0x30100).toNat + fqAddr queue + 32 * slot
        let s := (s.privWrite at_ [3]).getD s
        let fq := s.fq queue
        let s := s.setFq queue { fq with recs := Tab.set fq.recs slot { r with open_ := false, waiters := [] } }
        s.answerAll r false)

/-! ### Bias and invalidation (R326, R318) -/

/-- The ranges of a list without the frames of one range. -/
def cutRange (f n : Nat) (l : List (Nat × Nat)) : List (Nat × Nat) :=
  l.flatMap fun x =>
    ([(x.1, min (x.1 + x.2) f - x.1), (max x.1 (f + n), x.1 + x.2 - max x.1 (f + n))]).filter fun y => y.2 != 0

/-- A write of BIASCMD: it is ignored while a change is under way; a range beyond 512 GiB is invalid. -/
def State.biasCmd (s : State) (toHost : Bool) : State :=
  let f := (s.reg 0x30120).toNat
  let n := (s.reg 0x30124).toNat
  if !s.isReady || s.fabric.biasJob.isSome then s
  else if n = 0 ∨ 2 ^ 23 < f + n then s.setReg 0x3012C 1
  else (s.setReg 0x3012C 0x80000000).setFab fun x => { x with biasJob := some (f, n, toHost) }

/-- BIASCMD_TO_DEVICE. -/
def execBiascmdToDevice (s : State) : Host.Outcome State Fault Refusal := .next (s.biasCmd false)
/-- BIASCMD_TO_HOST. -/
def execBiascmdToHost (s : State) : Host.Outcome State Fault Refusal := .next (s.biasCmd true)

/-- The lines of a range of frames in host bias that the host holds changed are written back, as a recall asks (R326). -/
def State.recallHost (s : State) (f n : Nat) : State :=
  (s.fabric.bias.filter fun g => meets g.1 g.2 f n).foldl (fun (s : State) (g : Nat × Nat) =>
    let lo := max f g.1
    (List.range ((min (f + n) (g.1 + g.2) - lo) * 1024)).foldl (fun (s : State) i =>
      let pa := 65536 * lo + 64 * i
      if Config.hostHas s.tick (pa / 64) then s.devWrite pa (s.hubBytes (.dev pa) 64) else s) s) s

/-- BIAS_CHANGE_DONE: towards host bias the device's lines of the range are written back, so that it comes after the stores to them,
and leave every L1; towards device bias the host's are recalled. Those who waited for a frame go on. -/
def execBiasChangeDone (s : State) : Host.Outcome State Fault Refusal :=
  .next (match s.fabric.biasJob with
    | none => s
    | some (f, n, toHost) =>
      let lo := 65536 * f
      let hi := 65536 * (f + n)
      let inRange := fun (k : Nat) => decide (lo ≤ k) && decide (k < hi)
      if (s.cores.map (·.1)).any fun c => s.storeOver c lo (hi - lo) then s
      else
      let s := if toHost then (s.cores.map (·.1)).foldl (fun s c => s.l1Drop c inRange) s
        else (s.recallHost f n).emit (.recall f n)
      let s := s.setFab fun x =>
        { x with biasJob := none, bias := if toHost then cutRange f n x.bias ++ [(f, n)] else cutRange f n x.bias }
      ((s.setReg 0x3012C 0).wakeAll .bias).serveWaiting)

/-- TLBICMD (R8, R313): ignored while an invalidation is under way; bits 31:5 are ignored. Bit 4 names the privileged
space, numbered 16. -/
def execTlbicmd (v : Word) (s : State) : Host.Outcome State Fault Refusal :=
  .next (if !s.isReady || s.fabric.tlbi.isSome then s
    else
      let g := tlbiRange (s.reg64 0x30130) (s.reg 0x30138)
      let part := if v.getLsbD 4 then 16 else v.toNat % 16
      (s.setReg 0x30140 0x80000000).setFab fun f => { f with tlbi := some (part, g.1, g.2) })

/-- TLBI_DONE: every entry that overlaps the range is gone (R211, R318). -/
def execTlbiDone (s : State) : Host.Outcome State Fault Refusal :=
  .next (match s.fabric.tlbi with
    | none => s
    | some (part, first, n) =>
      ((s.invalidate part (first, n)).setReg 0x30140 0).setFab fun f => { f with tlbi := none })

/-! ### The host (R325 to R328) -/

/-- A window's refusal: Completer Abort for a read, and a KIND 6 record. -/
def State.inboundFault (s : State) (part off : Nat) (va : DWord) (write : Bool) : State :=
  let s := (s.fqRecord 400
    { kind := 6, path := 4, cause := 0, acc := if write then 2 else 1, va, launch := 0, who := 0,
      space := s.space part, part, peer := 0, info := 0 } 0 []).1
  if write then s else s.emit (.abort off)

/-- An access of the host to device memory at the L2 (path H), of a virtual address where it comes through a window. A read of
uncorrectable data is aborted and recorded. What the host itself has cached of a frame in host bias is its own; a window reads it
(R326, R328). -/
def State.hostAccess (s : State) (off pa n : Nat) (va : Option DWord) (write : Option (List Byte)) : State :=
  match write with
  | some bs => (s.outsideWrite pa (2 ^ bs.length - 1) 0x40000000 bs).shadowClear pa bs.length
  | none =>
    let bad := s.errs.bad.find? fun b => decide (pa / 32 ≤ b) && decide (b ≤ (pa + n - 1) / 32)
    if bad.isSome then (s.ueLog bad 0 0x40000000 (va.getD 0)).emit (.abort off)
    else
      let s := s.approach none (.dev pa) n
      s.emit (.data (if va.isSome then s.hubBytes (.dev pa) n else memRead s.mem pa n))

/-- INBOUND_ACCESS (R328): through a window of BAR 2. -/
def execInboundAccess (off n : Nat) (write : Option (List Byte)) (s : State) : Host.Outcome State Fault Refusal :=
  let w := off / 2 ^ 32 % 16
  let ctl := s.reg (0x30208 + 16 * w)
  let part := ctl.toNat % 16
  let va := ((s.reg64 (0x30200 + 16 * w) + BitVec.ofNat 64 (off % 2 ^ 32)).setWidth 57).signExtend 64
  let acc := if write.isSome then Acc.write else Acc.read
  .next (if !ctl.getLsbD 4 || (write.isSome && !ctl.getLsbD 5) then s.inboundFault part off va write.isSome
    else match s.xlate none 4 part va acc with
      | (s, .ok (.dev pa)) => s.hostAccess off pa n (some va) write
      | (s, _) => s.inboundFault part off va write.isSome)

/-- HOST_MEMORY_ACCESS (R326): over CXL.mem, served at the L2. -/
def execHostMemoryAccess (pa n : Nat) (write : Option (List Byte)) (s : State) : Host.Outcome State Fault Refusal :=
  let len := match write with
    | some bs => bs.length
    | none => n
  .next (if memSize < pa + len ∨ s.frameHeld pa then s else s.hostAccess pa pa n none write)

/-- CXL_CACHE_SNOOP (R327): the part gives up a 64-byte line of host memory, after the stores to it that are under way. -/
def execCxlCacheSnoop (line : Nat) (s : State) : Host.Outcome State Fault Refusal :=
  let lo := (Loc.host (64 * line)).key
  let inLine := fun (k : Nat) => decide (lo ≤ k) && decide (k < lo + 64)
  .next (if (s.cores.map (·.1)).any fun c => s.storeOver c lo 64 then s
    else ((s.cores.map (·.1)).foldl (fun s c => s.l1Drop c inLine) s).setFab fun f =>
      { f with owned := f.owned.filter fun e => e.1 / 64 != line })

/-- CONFIGURATION_REQUEST (R383): Configuration Request Retry Status until READY. -/
def execConfigurationRequest (s : State) : Host.Outcome State Fault Refusal :=
  .next (s.emit (.config ((s.reg 0x50014).getLsbD 31)))

/-- CONTENDED_MARK_EXPIRY (R249). -/
def execContendedMarkExpiry (line : Nat) (s : State) : Host.Outcome State Fault Refusal :=
  .next (match Tab.get? s.fabric.grants line with
    | some g => match g.mark with
      | some t => if t ≤ s.cycles then s.setFab fun f => { f with grants := Tab.erase f.grants line } else s
      | none => s
    | none => s)

end Sys2Proof.Machine
end

