-- ==== Sys2Proof/Machine/Sync.lean ====
section
/-! DEFINITION. FENCE and XFENCE (R169, R170, R242, R246). -/

namespace Sys2Proof.Machine

/-- Every active lane acquires at a scope. -/
def State.acquireAll (s : State) (es : List Env) (scope : Nat) : State :=
  es.foldl (fun s e => s.acquire e.r.core e.a.lid e.tid scope) s

/-- A thread's release fence (R169, R242). It performs when every access of the core before it has; wider than the core it
stands among the outstanding accesses till then, and the thread's later stores come after it. -/
def State.fenceRel (s : State) (e : Env) (scope : Nat) : State :=
  let c := e.r.core
  if scope ≤ 2 ∨ (s.core c).outst.isEmpty then s.releaseNow c e.a.lid scope
  else s.updCore c fun k =>
    { k with
        outst := k.outst ++ [{ id := k.nextOut, lid := e.a.lid, tid := e.owner, loc := .dev 0, bytes := [], scope, rel := true,
                               rec_ := none }]
        nextOut := k.nextOut + 1 }

/-- FENCE (R169): earlier loads take their values; no fence waits for a store to perform (R251). -/
def execFence (o : Op) (s : State) : Host.Outcome State Fault Refusal :=
  agentOp (fun r s =>
    let es := s.envs r o
    let rel := 2 ≤ o.mods.toNat
    let acq := o.mods.toNat % 2 = 1
    let scope := o.scope.toNat
    let s := if es.isEmpty then s else s.flushLoads r
    let s := if rel then es.foldl (fun s e => s.fenceRel e scope) s else s
    let s := if acq then s.acquireAll es scope else s
    s.commit r o .f4 0 (es.map fun e => (e.n, .of []))) s

/-- The mark in `served` of what a queue held when an instruction that waits for it first issued. -/
def matMark : Nat := 2 ^ 33

/-- An agent's instruction that waits for the matrix queue notes how far the queue reached when it first issued. -/
def State.markQueue (s : State) (r : AgentRef) : State :=
  s.updAgent r fun a =>
    if (Tab.get? a.served matMark).isSome then a
    else { a with served := Tab.set a.served matMark (BitVec.ofNat 32 (s.core r.core).nextMat) }

/-- A matrix instruction of the agent's launch that was queued before the mark has not completed. -/
def State.queueBusy (s : State) (r : AgentRef) : Bool :=
  let a := s.agentD r
  let mark := Tab.getD a.served matMark 0
  let k := s.core r.core
  let before := fun (m : MatOp) => m.lid == a.lid && decide (0 < (mark - BitVec.ofNat 32 m.id).toInt)
  k.queue.any before

/-- Two paths are those that an XFENCE names: 0 V, 1 C, 2 M. -/
def joins (o : Op) (p q : Nat) : Bool :=
  (o.mbits 0 3 == p && o.mbits 3 3 == q) || (o.mbits 0 3 == q && o.mbits 3 3 == p)

/-- XFENCE (R170, R246): the core's accesses are performed and its clean L1 lines go, so that each path sees the other's
writes, and what the lanes' stores had left to a path that is joined to V is gone; one that names M waits for the matrix
instructions queued before it, and acquires as MSTAT.sync does. -/
def execXfence (o : Op) (s : State) : Host.Outcome State Fault Refusal :=
  agentOp (fun r s =>
    let es := s.envs r o
    let m := o.mbits 0 3 = 2 ∨ o.mbits 3 3 = 2
    let s := if m then s.markQueue r else s
    if es.isEmpty then s.commit r o .f4 0 []
    else if s.storesBefore r then (s.flushLoads r).waitStores r []
    else if m ∧ s.queueBusy r then (s.flushLoads r).waitFor r .sync
    else
      let s := (s.flushLoads r).l1Clear r.core
      let s := if o.scope = 5 then s.farClear else s
      let s := es.foldl (fun s e => s.joined r.core e.a.lid e.owner (joins o 0 1) (joins o 0 2)) s
      let s := if m then es.foldl (fun s e => s.acquireEpoch r.core e.a.lid e.tid 2) s else s
      s.commit r o .f4 0 (es.map fun e => (e.n, .of []))) s

end Sys2Proof.Machine
end

