-- ==== Sys2Proof/Machine/Matrix.lean ====
section
/-! DEFINITION. Group 0xB_: the matrix engine of a core, its queue and its instructions (R186 to R200, R183). -/

namespace Sys2Proof.Machine

/-! ### The configuration (R191, R192) -/

def MatCfg.af (m : MatCfg) : Nat := m.a.toNat % 32
def MatCfg.bf (m : MatCfg) : Nat := m.a.toNat / 32 % 32
def MatCfg.acc (m : MatCfg) : Nat := m.a.toNat / 1024 % 4
def MatCfg.scpitch (m : MatCfg) : Nat := m.a.toNat / 4096 % 256
def MatCfg.apitch (m : MatCfg) : Nat := m.b.toNat % 65536
def MatCfg.bpitch (m : MatCfg) : Nat := m.b.toNat / 65536
def MatCfg.ga (m : MatCfg) : Word := m.c.setWidth 32
def MatCfg.gb (m : MatCfg) : Word := (m.c >>> 32).setWidth 32

/-- A block format has block scales (R194). -/
def isBlk (f : Nat) : Bool := 19 ≤ f && f ≤ 29
/-- The scale bytes of one row of 64 elements. -/
def rowScales (f : Nat) : Nat := if isBlk f then 64 / blockLen f else 0
/-- An integer-only format (R42). -/
def isIntOnly (f : Nat) : Bool := (8 ≤ f && f ≤ 12) || f == 15 || f == 16

/-- An operand's pitches are wide enough (R192). -/
def pitchOk (f pitch scpitch : Nat) : Bool :=
  pitch % 4 == 0 && decide (rowBytes f 64 ≤ pitch) && (!isBlk f || decide (rowScales f ≤ scpitch))

/-- MCFG fails check 4 of R189 (R192). -/
def cfgBad (l : Launch) (m : MatCfg) : Bool :=
  !(rowA l.class_ m.af && rowB l.class_ m.bf) || m.acc == 3 || decide (2 ^ 20 ≤ m.a.toNat)
    || (m.acc != 0 && !(isIntOnly m.af && isIntOnly m.bf && isIntOnly l.fmtA && isIntOnly l.fmtB))
    || !pitchOk m.af m.apitch m.scpitch || !pitchOk m.bf m.bpitch m.scpitch

/-- The configuration that an instruction queued now will meet: that of the last MCFG in the queue, or the one in
force. -/
def State.tailCfg (s : State) (c lid : Nat) : MatCfg :=
  (s.core c).queue.foldl (fun m q =>
    if q.lid = lid ∧ q.opc = 0xB0 then { set := true, a := q.a, b := q.b, c := q.c } else m) (s.res c lid).cfg

/-! ### The checks of R189 -/

/-- A matrix instruction as it is checked: its opcode, its fields and its sources. -/
structure MatSrc where
  opc : BitVec 8
  op  : Op
  a   : Word
  b   : Word
  c   : DWord
  deriving Repr

def MatSrc.c32 (m : MatSrc) : Word := m.c.setWidth 32
/-- MLOAD.sc, and the `.z` and `.t` bits. -/
def MatSrc.bit36 (m : MatSrc) : Bool := m.op.mbit 4
def MatSrc.tile (m : MatSrc) : Nat := m.op.mbits 0 4

/-- The scratchpad addresses that an instruction names. -/
def MatSrc.addrs (m : MatSrc) : List Word :=
  match m.opc.toNat with
  | 0xB1 | 0xB3 => [m.a, m.b]
  | 0xB2 => [m.a, m.b, m.c32]
  | 0xB5 | 0xB6 => [m.a]
  | 0xB8 => [m.b]
  | _ => []

/-- Scale-memory offsets of MMAS: sa and sb, for the operands that have block scales. -/
def MatSrc.scaleOffs (m : MatSrc) (f : MatCfg) : List (Nat × Nat) :=
  (if isBlk f.af then [(m.c32.toNat % 65536, f.af)] else []) ++
    if isBlk f.bf then [(m.c32.toNat / 65536, f.bf)] else []

/-- A limit of the instruction's own table is broken (check 4). -/
def MatSrc.limitBad (m : MatSrc) (l : Launch) (f : MatCfg) : Bool :=
  let block := isBlk f.af || isBlk f.bf
  match m.opc.toNat with
  | 0xB0 => cfgBad l { set := true, a := m.a, b := m.b, c := m.c }
  | 0xB1 => block
  | 0xB3 => !block
  | 0xB5 =>
    if m.bit36 then m.c32.toNat % 4 != 0 || decide (m.c32.toNat < 4) || decide (65536 < m.c32.toNat)
    else m.b.toNat % 4 != 0 || decide (m.b.toNat < 256)
  | 0xB6 => decide (18 < m.op.fmt.toNat) || m.b.toNat % 4 != 0 || decide (m.b.toNat < rowBytes m.op.fmt.toNat 64)
  | _ => false

/-- An address or offset that breaks its alignment (check 5); MODRAIN's is 8 (R200). -/
def MatSrc.misaligned (m : MatSrc) (f : MatCfg) : Option Nat :=
  let al := if m.opc = 0xB8 then 8 else 4
  let offs := if m.opc = 0xB3 then (m.scaleOffs f).map (·.1) else if m.opc = 0xB5 ∧ m.bit36 then [m.b.toNat] else []
  match m.addrs.find? fun x => x.toNat % al != 0 with
  | some x => some x.toNat
  | none => offs.find? fun x => x % 4 != 0

/-- The instruction names a tile. -/
def MatSrc.tiled (m : MatSrc) : Bool :=
  match m.opc.toNat with
  | 0xB1 | 0xB2 | 0xB3 | 0xB4 | 0xB6 => true
  | 0xB5 => !m.bit36
  | _ => false

/-- The ranges that are checked at issue: start, end, and whether it is scale memory (R194, R197, R198, R200). -/
def MatSrc.ranges (m : MatSrc) (f : MatCfg) : List (Nat × Nat × Bool) :=
  let a := m.a.toNat
  let b := m.b.toNat
  let rng := fun (x n : Nat) => (x, x + n, false)
  let bRange := rng b (63 * f.bpitch + rowBytes f.bf 64)
  match m.opc.toNat with
  | 0xB1 => [rng a (63 * f.apitch + rowBytes f.af 64), bRange]
  | 0xB2 => [rng m.c32.toNat 132, bRange]
  | 0xB3 => [rng a (63 * f.apitch + rowBytes f.af 64), bRange]
      ++ (m.scaleOffs f).map fun x => (x.1, x.1 + 63 * f.scpitch + rowScales x.2, true)
  | 0xB5 => if m.bit36 then [rng a m.c32.toNat, (b, b + m.c32.toNat, true)] else [rng a (63 * b + 256)]
  | 0xB6 => [rng a (63 * b + rowBytes m.op.fmt.toNat 64)]
  | 0xB8 => [rng b 512]
  | _ => []

/-- The checks of R189 in their order: the cause and the offending address or offset. -/
def MatSrc.check (m : MatSrc) (l : Launch) (f : MatCfg) : Option (BitVec 8 × Nat) :=
  let usesCfg := m.opc == 0xB1 || m.opc == 0xB2 || m.opc == 0xB3 || m.opc == 0xB6
  if l.class_ = 0 ∧ m.opc.toNat ≤ 0xB6 then some (2, 0)
  else if usesCfg && !f.set then some (2, 0)
  else match m.addrs.find? fun x => x.toNat / 2 ^ 20 != 0 with
    | some x => some (2, x.toNat)
    | none =>
      if m.limitBad l f then some (2, 0)
      else match m.misaligned f with
        | some x => some (4, x)
        | none =>
          if m.tiled ∧ l.ntiles ≤ m.tile then some (7, 0)
          else match (m.ranges f).find? fun g => decide ((if g.2.2 then l.scaleKb * 1024 else l.scratch) < g.2.1) with
            | some g => some (7, g.1)
            | none => none

/-! ### Issue (R186, R187) -/

/-- The queue takes an instruction. -/
def State.enqueue (s : State) (c : Nat) (m : MatSrc) (lid : Nat) (who : Option AgentRef) (lanes : List Nat)
    (bell : Option Nat) : State :=
  s.updCore c fun k =>
    { k with
        queue := k.queue ++ [{ id := k.nextMat, lid, who, lanes, bell, op := m.op, opc := m.opc, a := m.a, b := m.b,
                               c := m.c, run := false, flags := 0, err := none, res := none }]
        nextMat := k.nextMat + 1 }

/-- The meaning of a matrix instruction that is queued: it takes its sources from the lead, passes the checks of R189,
waits while the queue is full, and its k result words, if any, await its completion. -/
def matOp (opc : BitVec 8) (o : Op) (k : Nat) (s : State) : Host.Outcome State Fault Refusal :=
  agentOp (fun r s =>
    let s := s.latchFor o ((s.envs r o).take 1)
    let es := s.envs r o
    match es with
    | [] => s.commit r o .v 0 []
    | e :: _ =>
      let m : MatSrc := { opc, op := o, a := e.a32 o, b := e.b32 o, c := e.c64 o }
      let lid := e.a.lid
      let core := s.core r.core
      match m.check e.l (s.tailCfg r.core lid) with
      | some (cause, x) =>
        s.commit r o .v k (es.map fun e => (e.n, { LaneRes.of [] with trap := some (cause, BitVec.ofNat 64 x, 0) }))
      | none =>
        if core.queueFull then s.waitFor r .queue
        else
          let s := s.enqueue r.core m lid (some r) (es.map Env.n) none
          if k = 0 then s.commit r o .v 0 (es.map fun e => (e.n, .of []))
          else s.commitAwait r o .v k (es.map fun e => (e.n, .of [])) [matKey core.nextMat]) s

/-- MCFG (R191). -/
def execMcfg (o : Op) (s : State) : Host.Outcome State Fault Refusal := matOp 0xB0 o 0 s
/-- MMA (R194). -/
def execMma (o : Op) (s : State) : Host.Outcome State Fault Refusal := matOp 0xB1 o 0 s
/-- MMAG. -/
def execMmag (o : Op) (s : State) : Host.Outcome State Fault Refusal := matOp 0xB2 o 0 s
/-- MMAS. -/
def execMmas (o : Op) (s : State) : Host.Outcome State Fault Refusal := matOp 0xB3 o 0 s
/-- MZERO (R197). -/
def execMzero (o : Op) (s : State) : Host.Outcome State Fault Refusal := matOp 0xB4 o 0 s
/-- MLOAD. -/
def execMload (o : Op) (s : State) : Host.Outcome State Fault Refusal := matOp 0xB5 o 0 s
/-- MLOAD.sc. -/
def execMloadSc (o : Op) (s : State) : Host.Outcome State Fault Refusal := matOp 0xB5 o 0 s
/-- MSTORE (R198). -/
def execMstore (o : Op) (s : State) : Host.Outcome State Fault Refusal := matOp 0xB6 o 0 s
/-- MSTAT.set (R199): D := the word as it stood just before it executes. -/
def execMstatSet (o : Op) (s : State) : Host.Outcome State Fault Refusal := matOp 0xB7 o 1 s
/-- MODRAIN (R200): D := the number of entries. -/
def execModrain (o : Op) (s : State) : Host.Outcome State Fault Refusal := matOp 0xB8 o 1 s

/-- MSTAT (R199): D := the numeric status word. -/
def execMstat (o : Op) (s : State) : Host.Outcome State Fault Refusal :=
  laneOp o .v 1 (fun e => .word (e.s.numStat e.r.core e.a.lid)) s

/-- MSTAT.sync (R199): waits for what the launch had queued on the core; an engine error then parks every active thread
and is cleared (R190); else D := the number of matrix instructions that have completed. -/
def execMstatSync (o : Op) (s : State) : Host.Outcome State Fault Refusal :=
  agentOp (fun r s =>
    let s := s.markQueue r
    let es := s.envs r o
    let lid := (s.agentD r).lid
    if es.isEmpty then s.commit r o .v 1 []
    else if s.queueBusy r then s.waitFor r .sync
    else
      let res := s.res r.core lid
      match res.engErr with
      | some x =>
        let s := s.updRes r.core lid fun r => { r with engErr := none, engMore := 0 }
        s.commit r o .v 1 (es.map fun e =>
          (e.n, { LaneRes.of [] with trap := some (x.cause, x.addr.setWidth 64, 0) }))
      | none =>
        let s := es.foldl (fun s e => s.acquireEpoch r.core lid e.tid 2) s
        s.commit r o .v 1 (es.map fun e => (e.n, .word res.mcount))) s

/-- MSTAT.list (R199): waits as MSTAT.sync; D := the number of entries of an outlier list. -/
def execMstatList (o : Op) (s : State) : Host.Outcome State Fault Refusal :=
  agentOp (fun r s =>
    let s := (s.latch r o).markQueue r
    let es := s.envs r o
    if es.isEmpty then s.commit r o .v 1 []
    else if s.queueBusy r then s.waitFor r .sync
    else s.commit r o .v 1 (es.map fun e =>
      (e.n, .word (BitVec.ofNat 32 (Tab.getD (s.res r.core e.a.lid).outlier ((e.a32 o).toNat % 16) []).length)))) s

/-! ### Tiles and operands -/

/-- A word of a tile; one that nothing has written is a free value (R9). -/
def State.tileWord (s : State) (c lid t i : Nat) : Word :=
  (Tab.get? (s.res c lid).tiles (t * 4096 + i)).getD (Config.undefTile lid (s.res c lid).home t i)

/-- A tile takes 4,096 words. -/
def setTile (t : Tab Word) (n : Nat) (ws : List Word) : Tab Word :=
  (t.filter fun e => decide (e.1 < n * 4096)) ++ (ws.mapIdx fun i w => (n * 4096 + i, w))
    ++ t.filter fun e => decide ((n + 1) * 4096 ≤ e.1)

/-- A tile of a launch takes 4,096 words, whose check codes are then good (R363). -/
def State.putTile (s : State) (c lid t : Nat) (ws : List Word) : State :=
  s.updRes c lid fun r => { r.mend 1 (t * 16384) 16384 with tiles := setTile r.tiles t ws }

/-- A byte of scale memory. -/
def State.scaleByte (s : State) (c lid off : Nat) : Byte :=
  (Tab.get? (s.res c lid).scale off).getD (Config.undefScale lid (s.res c lid).home off)

/-- An element of an operand row: its value under its scales (R39), its code and its factor, and whether its code is
invalid. -/
structure MatElem where
  val  : Val
  code : Nat
  sc   : Val
  bad  : Bool
  deriving Repr

/-- The 64 elements of a row of a format from its bytes and its scale bytes. -/
def rowElems (f : Nat) (g : Word) (bs scales : List Byte) : List MatElem :=
  (List.range 64).map fun k =>
    let x := rowGet f bs k
    let (v, bad) := rowVal f x
    let blk := (scales.getD (k / blockLen f) 0).toNat
    { val := scaled f blk g v, code := x.1, sc := scaleOf f blk g, bad }

/-- A format whose elements are integers or trits, which have no negative zero (R29, R30). -/
def signless (f : Nat) : Bool := (ifmt (elemFmt f)).isSome || elemFmt f == 15 || elemFmt f == 16

/-- The factors of a product of integers or trits: a product that is zero is 0 (R53). -/
def plainZero (p : Val × Val) : Val × Val :=
  match p with
  | (.fin _ n _, .fin _ m _) => if n = 0 ∨ m = 0 then (Val.zero false, Val.zero false) else p
  | p => p

/-- ExactSum over an old value and the products of two rows (R52 to R54). In class LOG a product is LnsProduct times
the scales. An integer 0 times a negative float is −0, as `Val.mul` has it: the sign of such a zero is not told (DESIGN CHOICE,
log 85). -/
def rowSum (log : Bool) (fa fb : Nat) (old : Val) (xs ys : List MatElem) : Val × Word :=
  if log then
    exactSum (old :: xs.zipWith (fun x y =>
      (((lnsProduct (elemFmt fa) (elemFmt fb) x.code y.code).mul x.sc).1.mul y.sc).1) ys) false
  else
    let plain := signless fa && signless fb
    sumOfProducts [old] (xs.zipWith (fun x y => if plain then plainZero (x.val, y.val) else (x.val, y.val)) ys)

/-- The word that a sum leaves in a tile under an accumulation mode, and its flags (R52). -/
def accResult (acc : Nat) (x : Val × Word) : Word × Word :=
  match acc with
  | 1 => (BitVec.ofInt 32 (intVal x.1), 0)
  | 2 =>
    let n := intVal x.1
    if n < -2147483648 then (0x80000000, fOF)
    else if 2147483647 < n then (0x7FFFFFFF, fOF)
    else (BitVec.ofInt 32 n, 0)
  | _ => arith32 0 false x

/-- AccValue. -/
def accValue (acc : Nat) (w : Word) : Val := if acc = 0 then f32 w else .ofInt w.toInt

/-- The new words of a tile and the flags (R52, R194, R195). `rows` holds the A rows, none where an index names no row. -/
def multiply (log : Bool) (m : MatCfg) (z : Bool) (old : Nat → Word) (rows : List (Option (List MatElem)))
    (cols : List (List MatElem)) : List Word × Word :=
  let cell := fun (i j : Nat) (row : Option (List MatElem)) (col : List MatElem) =>
    let o := if z then Val.zero false else accValue m.acc (old (i * 64 + j))
    accResult m.acc (match row with
      | some xs => rowSum log m.af m.bf o xs col
      | none => exactSum [o] false)
  let out := (rows.mapIdx fun i row => cols.mapIdx fun j col => cell i j row col).flatten
  (out.map (·.1), out.foldl (fun w x => w ||| x.2) 0)

/-- INVCODE where a row holds an invalid code. -/
def invFlag (rows : List (List MatElem)) : Word := if rows.any fun r => r.any (·.bad) then fINVCODE else 0

/-! ### Gathering (R195) -/

/-- The first error of a gather: a row outside the allocation, then scales outside scale memory. -/
def gatherErr (l : Launch) (f : MatCfg) (a : Nat) (idx : List Nat) (sa sb : Nat) : Option EngErr :=
  let named := idx.filter (· != 0xFFFF)
  let lim := l.scaleKb * 1024
  let row := fun i => a + i * f.apitch
  let sc := fun i => sa + i * f.scpitch
  match named.find? fun i => decide (l.scratch < row i + rowBytes f.af 64) with
  | some i => some { cause := 7, addr := BitVec.ofNat 32 (row i) }
  | none => match (if isBlk f.af then named.find? fun i => decide (lim < sc i + rowScales f.af) else none) with
    | some i => some { cause := 7, addr := BitVec.ofNat 32 (max (sc i) lim) }
    | none =>
      if isBlk f.bf ∧ lim < sb + 63 * f.scpitch + rowScales f.bf then
        some { cause := 7, addr := BitVec.ofNat 32 (max sb lim) }
      else none

/-- The first uncorrectable word among the rows that a gather names, or among their scales (R363). -/
def Res.badRows (r : Res) (f : MatCfg) (a sa : Nat) (idx : List Nat) : Option Granule :=
  (idx.filter (· != 0xFFFF)).findSome? fun i =>
    ((r.badAt 0 (a + i * f.apitch) (rowBytes f.af 64)).map Granule.scratch).or
      ((r.badAt 2 (sa + i * f.scpitch) (if isBlk f.af then rowScales f.af else 0)).map Granule.scale)

/-- The gather of an MMAG: its record, the rows and their scales. -/
def State.gatherOf (s : State) (c : Nat) (q : MatOp) : Gather :=
  let l := s.launchD q.lid
  let f := (s.res c q.lid).cfg
  let rec_ := s.scratchRead c q.lid (q.c.setWidth 32 : Word).toNat 132
  let half := fun i => ofBytesLE ((rec_.drop (2 * i)).take 2)
  let idx := (List.range 64).map half
  let block := isBlk f.af || isBlk f.bf
  let sa := if block then half 64 else 0
  let sb := if block then half 65 else 0
  let r := s.res c q.lid
  let at_ := (q.c.setWidth 32 : Word).toNat
  let err := ((r.badAt 0 at_ 132).map fun x => ({ cause := 0x10, addr := BitVec.ofNat 32 x } : EngErr)).or
    ((gatherErr l f q.a.toNat idx sa sb).or ((r.badRows f q.a.toNat sa idx).map fun g =>
      { cause := 0x10, addr := BitVec.ofNat 32 (granPlace g).2 }))
  let row := fun i => if i = 0xFFFF then [] else s.scratchRead c q.lid (q.a.toNat + i * f.apitch) (rowBytes f.af 64)
  let sc := fun i =>
    if i = 0xFFFF then [] else listGen (fun k => s.scaleByte c q.lid (sa + i * f.scpitch + k)) (rowScales f.af)
  { id := q.id, lid := q.lid, idx, rows := if err.isSome then [] else idx.map row,
    scales := if err.isSome then [] else idx.map sc, sb, err }

/-- The engine has read ranges of an allocation: what CHPUSH had put there is no longer its own (R175). -/
def State.engineReads (s : State) (c lid : Nat) (gs : List (Nat × Nat)) : State :=
  gs.foldl (fun s g => s.reach c lid g.1 g.2) s

/-- The ranges of the scratchpad that an instruction reads as it executes. -/
def MatOp.readsOf (q : MatOp) (f : MatCfg) : List (Nat × Nat) :=
  let m : MatSrc := { opc := q.opc, op := q.op, a := q.a, b := q.b, c := q.c }
  if q.opc = 0xB6 ∨ q.opc = 0xB8 then []
  else (m.ranges f).filterMap fun g => if g.2.2 then none else some (g.1, g.2.1 - g.1)

/-- The rows that a gather reads. -/
def Gather.readsOf (g : Gather) (q : MatOp) (f : MatCfg) : List (Nat × Nat) :=
  if g.err.isSome then []
  else (g.idx.filter (· != 0xFFFF)).map fun i => (q.a.toNat + i * f.apitch, rowBytes f.af 64)

/-- GATHER_READ (R195): the gather unit reads the record and the rows of the next MMAG to execute. -/
def execGatherRead (core : Nat) (s : State) : Host.Outcome State Fault Refusal :=
  .next (match (s.core core).queue.find? fun q => !q.run with
    | some q =>
      let ready : Bool := match (s.core core).gather with
        | some g => g.id != q.id
        | none => true
      if q.opc == 0xB2 && ready then
        let g := s.gatherOf core q
        let s := match g.err with
          | some { cause := 0x10, addr } => s.ueMet core q.lid 0 0 (.scratch addr.toNat)
          | _ => s
        (s.engineReads core q.lid (g.readsOf q (s.res core q.lid).cfg)).updCore core fun k => { k with gather := some g }
      else s
    | none => s)

/-! ### Execution -/

/-- What an instruction does when it executes: its effect on the state, its flags, an error, a result. -/
structure MatDone where
  s     : State
  flags : Word
  err   : Option EngErr
  res   : Option Word

/-- The rows of B, with their scales from an offset. -/
def State.bRows (s : State) (c : Nat) (q : MatOp) (f : MatCfg) (sb : Nat) : List (List MatElem) :=
  (List.range 64).map fun j =>
    rowElems f.bf f.gb (s.scratchRead c q.lid (q.b.toNat + j * f.bpitch) (rowBytes f.bf 64))
      (listGen (fun k => s.scaleByte c q.lid (sb + j * f.scpitch + k)) (rowScales f.bf))

/-- The tile takes the product of some rows and B, whose elements are read only where some row is (R194, R195). -/
def State.runMultiply (s : State) (c : Nat) (q : MatOp) (rows : List (Option (List MatElem))) (sb : Nat) : MatDone :=
  let l := s.launchD q.lid
  let f := (s.res c q.lid).cfg
  let t := q.op.mbits 0 4
  let cols := s.bRows c q f sb
  let (ws, fl) := multiply (l.class_ == 1) f (q.op.mbit 4) (s.tileWord c q.lid t) rows cols
  { s := s.putTile c q.lid t ws,
    flags := fl ||| (if rows.any Option.isSome then invFlag cols else 0) ||| invFlag (rows.filterMap id), err := none,
    res := none }

/-- MMA and MMAS. -/
def State.runMma (s : State) (c : Nat) (q : MatOp) : MatDone :=
  let f := (s.res c q.lid).cfg
  let cc : Word := q.c.setWidth 32
  let sa := cc.toNat % 65536
  let rows := (List.range 64).map fun i =>
    some (rowElems f.af f.ga (s.scratchRead c q.lid (q.a.toNat + i * f.apitch) (rowBytes f.af 64))
      (listGen (fun k => s.scaleByte c q.lid (sa + i * f.scpitch + k)) (rowScales f.af)))
  s.runMultiply c q rows (cc.toNat / 65536)

/-- MMAG, from what the gather unit holds. -/
def State.runMmag (s : State) (c : Nat) (q : MatOp) (g : Gather) : MatDone :=
  let f := (s.res c q.lid).cfg
  match g.err with
  | some e => { s, flags := 0, err := some e, res := none }
  | none =>
    let rows := (List.range 64).map fun i =>
      if g.idx.getD i 0 = 0xFFFF then none
      else some (rowElems f.af f.ga (g.rows.getD i []) (g.scales.getD i []))
    s.runMultiply c q rows g.sb

/-- MLOAD of a tile. -/
def State.runMload (s : State) (c : Nat) (q : MatOp) : MatDone :=
  let ws := (List.range 64).flatMap fun i =>
    wordsOf 64 (s.scratchRead c q.lid (q.a.toNat + i * q.b.toNat) 256)
  { s := s.putTile c q.lid (q.op.mbits 0 4) ws, flags := 0, err := none, res := none }

/-- MLOAD.sc. -/
def State.runMloadSc (s : State) (c : Nat) (q : MatOp) : MatDone :=
  let bs := s.scratchRead c q.lid q.a.toNat (q.c.setWidth 32 : Word).toNat
  { s := s.updRes c q.lid fun r => r.putScale q.b.toNat bs, flags := 0, err := none,
    res := none }

/-- One row of MSTORE: its bytes and flags (R198). -/
def storeRow (o : Op) (src : Nat) (ws : List Word) : List Byte × Word :=
  let f := o.fmt.toNat
  let out := ws.map fun w =>
    if f = src then (w.toNat, (0 : Word)) else rowCode f o.rm.toNat o.sat (decodeElem src w.toNat)
  (rowPut f (out.map (·.1)) (if f = 16 then 0x79 else 0), out.foldl (fun w x => w ||| x.2) 0)

/-- MSTORE. -/
def State.runMstore (s : State) (c : Nat) (q : MatOp) : MatDone :=
  let src := if (s.res c q.lid).cfg.acc = 0 then 0 else 14
  let t := q.op.mbits 0 4
  let rows := (List.range 64).map fun r => storeRow q.op src ((List.range 64).map fun j =>
    s.tileWord c q.lid t (if q.op.mbit 4 then j * 64 + r else r * 64 + j))
  { s := (rows.mapIdx fun r x => (r, x.1)).foldl (fun s x => s.scratchWrite c q.lid (q.a.toNat + x.1 * q.b.toNat) x.2) s,
    flags := rows.foldl (fun w x => w ||| x.2) 0, err := none, res := none }

/-- MSTAT.set (R199, R45): the enables at the hub and on this core; the named flags cleared at both, but for those set in this
cycle (R44). -/
def State.runMstatSet (s : State) (c : Nat) (q : MatOp) : MatDone :=
  let old := s.numStat c q.lid
  let ovf := fun (kept : Word) => if q.b.getLsbD 6 && !kept.getLsbD 6 then 0xFF000000#32 else 0
  let new := fun (kept x : Word) =>
    (x &&& ~~~(q.b &&& 0xFF#32 &&& ~~~kept) &&& ~~~(ovf kept) &&& ~~~0x7F0000#32) ||| (q.a &&& 0x7F0000#32)
  let fresh := (s.launchD q.lid).cores.foldl (fun w c => w ||| (s.res c q.lid).fresh s.cycles) 0
  let s := s.updLaunch q.lid fun l => { l with num := new fresh l.num }
  { s := s.updRes c q.lid fun r => { r with num := new (r.fresh s.cycles) r.num }, flags := 0, err := none, res := some old }

/-- MODRAIN (R200). -/
def State.runModrain (s : State) (c : Nat) (q : MatOp) : MatDone :=
  let n := q.a.toNat % 16
  let es := Tab.getD (s.res c q.lid).outlier n []
  let s := s.scratchWrite c q.lid q.b.toNat (bytesOfWords (es.flatMap fun e => [e.1, e.2]))
  { s := s.updRes c q.lid fun r => { r with outlier := Tab.set r.outlier n [] }, flags := 0, err := none,
    res := some (BitVec.ofNat 32 es.length) }

/-- The effect of the instruction at the head of the queue; none while the gather unit has not read for an MMAG, and none of its own
for the appends of a CVTB. -/
def State.runMat (s : State) (c : Nat) (q : MatOp) : Option MatDone :=
  match q.opc.toNat with
  | 0xB0 => some
    { s := s.updRes c q.lid fun r => { r with cfg := { set := true, a := q.a, b := q.b, c := q.c } },
      flags := 0, err := none, res := none }
  | 0xB2 => match (s.core c).gather with
    | some g => if g.id = q.id then some (s.runMmag c q g) else none
    | none => none
  | 0xB4 => some
    { s := s.putTile c q.lid (q.op.mbits 0 4) (listGen (fun _ => 0) 4096),
      flags := 0, err := none, res := none }
  | 0xB5 => some (if q.op.mbit 4 then s.runMloadSc c q else s.runMload c q)
  | 0xB6 => some (s.runMstore c q)
  | 0xB7 => some (s.runMstatSet c q)
  | 0xB8 => some (s.runModrain c q)
  | 0x51 => none
  | _ => some (s.runMma c q)

/-- The instruction at the head has executed. -/
def Core.setHead (k : Core) (flags : Word) (err : Option EngErr) (res : Option Word) : Core :=
  match k.queue with
  | q :: rest => { k with queue := { q with run := true, flags, err, res } :: rest }
  | [] => k

/-- The first uncorrectable word among those that an instruction reads as it executes: of its ranges, of scale memory, and of its
tile, where it reads that (R363). -/
def MatOp.meets (q : MatOp) (f : MatCfg) (r : Res) : Option Granule :=
  let m : MatSrc := { opc := q.opc, op := q.op, a := q.a, b := q.b, c := q.c }
  let scales := if q.opc = 0xB5 then [] else (m.ranges f).filter (·.2.2)
  let tile := q.opc == 0xB6 || ((q.opc == 0xB1 || q.opc == 0xB2 || q.opc == 0xB3) && !q.op.mbit 4)
  (((q.readsOf f).findSome? fun g => (r.badAt 0 g.1 g.2).map Granule.scratch).or
    (scales.findSome? fun g => (r.badAt 2 g.1 (g.2.1 - g.1)).map Granule.scale)).or
    (if tile then (r.badAt 1 (q.op.mbits 0 4 * 16384) 16384).map fun i => .tile (i / 4) else none)

/-- The instruction at the head has met uncorrectable data: it has no effect but an error (R190, R363). -/
def State.engineMet (s : State) (core : Nat) (q : MatOp) (g : Granule) : State :=
  (s.ueMet core q.lid 0 0 g).updCore core fun k =>
    { k.setHead 0 (some { cause := 0x10, addr := BitVec.ofNat 32 (granPlace g).2 }) none with
        gather := k.gather.filter fun x => x.id != q.id }

/-- MATRIX_EXECUTE (R187): the instruction at the head of the queue reads its operands and writes its results; a CVTB whose appends
stand there is granted its issue. -/
def execMatrixExecute (core : Nat) (s : State) : Host.Outcome State Fault Refusal :=
  .next (match (s.core core).queue with
    | q :: _ =>
      if q.run then s
      else if q.opc = opCvtb then match q.who with
        | some r => { s.wake r with cur := some r }
        | none => s
      else match q.meets (s.res core q.lid).cfg (s.res core q.lid) with
      | some g => s.engineMet core q g
      | none => match s.runMat core q with
        | some d => (d.s.engineReads core q.lid (q.readsOf (s.res core q.lid).cfg)).updCore core fun k =>
            { k.setHead d.flags d.err d.res with gather := if q.opc == 0xB2 then none else k.gather }
        | none => s
    | [] => s)

/-- The engine's error record (R190): the first error is kept, later ones are counted. -/
def State.engError (s : State) (c lid : Nat) (e : EngErr) : State :=
  s.updRes c lid fun r =>
    if r.engErr.isSome then { r with engMore := min 255 (r.engMore + 1) } else { r with engErr := some e }

/-- MATRIX_COMPLETE (R188): flags or the error are recorded, the count rises, MSTORE, MODRAIN and
MLOAD release at core scope (R242), the result lands, a carried word's bell
counts its completion, and those who wait for the queue go on. -/
def execMatrixComplete (core : Nat) (s : State) : Host.Outcome State Fault Refusal :=
  .next (match (s.core core).queue with
    | q :: rest =>
      if !q.run then s
      else
        let s := s.updCore core fun k => { k with queue := rest }
        let s := match q.err with
          | some e => s.engError core q.lid e
          | none => s.raise core q.lid q.flags
        let s := s.updRes core q.lid fun r => { r with mcount := r.mcount + 1 }
        let s := if q.opc = 0xB5 ∨ q.opc = 0xB6 ∨ q.opc = 0xB8 then s.released q.lid else s
        let s := match q.who, q.res with
          | some r, some v => s.deliver r (matKey q.id) (q.lanes.flatMap fun n => destWrites n q.op.d [v])
          | some r, none => s.deliver r (matKey q.id) []
          | none, _ => s
        let s := match q.bell with
          | some b => s.bellCompletion core q.lid b q.err.isSome
          | none => s
        (s.wakeCore core .queue).wakeCore core .sync
    | [] => s)

/-- A source of a carried word (R183). -/
def Launch.mxRead (l : Launch) (o : Op) (x : Opnd) : Word :=
  match x with
  | .k n => Tab.getD l.k n.toNat 0
  | .imm => o.imm
  | _ => 0

/-- The word of a landed CPYMX takes the checks of R189 and enters the queue where that has room; one that fails them is an engine
error, and its bell counts it at once (R183). -/
def State.enterWord (s : State) (core slot : Nat) : State :=
  match Tab.get? (s.core core).copies slot with
    | some x =>
      if !x.live || !x.landed || x.kind != 0xA3 || decide (32 ≤ (s.core core).queue.length) then s
      else
        let l := s.launchD x.lid
        let w := wordOfBytes (bytesOfWords (x.desc.drop 8))
        let o := decodeOp false w
        let m : MatSrc :=
          { opc := bits w 88 8, op := o, a := l.mxRead o o.a, b := l.mxRead o o.b,
            c := (l.mxRead o o.c).setWidth 64 }
        match m.check l (s.tailCfg core x.lid) with
        | some (cause, a) =>
          let s := s.engError core x.lid { cause, addr := BitVec.ofNat 32 a }
          let s := s.updRes core x.lid fun r => { r with mcount := r.mcount + 1 }
          let s := s.endCopy core slot none false 0
          match x.bell with
          | some b => s.bellCompletion core x.lid b true
          | none => s
        | none => (s.enqueue core m x.lid none [] x.bell).endCopy core slot none false 0
    | none => s

/-- CPYMX_WORD_ENTRY (R183): a carried word that found the queue full takes the first entry that frees; those who wait for an
entry go on after it. -/
def execCpymxWordEntry (core slot : Nat) (s : State) : Host.Outcome State Fault Refusal :=
  .next ((s.enterWord core slot).wakeCore core .queue)

/-- COPY_LANDED (R182): the copy writes its last byte, its transfer flags join the status word, and its bell counts the
completion; the word that a CPYMX carries then enters the queue, if there is room. A translation fault of cause 0x05 waits for its answer (R184); where a full
queue takes no record the copy tries again. -/
def execCopyLanded (core slot : Nat) (s : State) : Host.Outcome State Fault Refusal :=
  .next (match Tab.get? (s.core core).copies slot with
    | some x =>
      if !x.live || x.landed || x.held || x.kept || s.copyHeld x then s
      else
        let (s, ps) := s.copyPieces core x
        match firstFault ps with
        | none =>
          let s := (piecePuts ps).foldl (fun s p => s.doPut core x.lid (copyWho slot x) p) s
          let s := s.copyStatus core slot (pieceFlags ps)
          let s := s.raise core x.lid (statusFlags (Tab.getD (s.core core).copies slot default).status)
          if x.kind = 0xA3 then
            (s.updCore core fun k =>
              { k with copies := Tab.upd k.copies slot fun x => { x with landed := true } }).enterWord core slot
          else s.endCopy core slot x.bell false 0
        | some (cause, addr, acc) =>
          if cause = 5 then
            let who := match x.tid with
              | some t => BitVec.ofNat 32 t
              | none => 0xFFFFFFFF
            match s.localFault core x.lid 1 cause acc addr who 1 [.copy core x.lid slot] with
            | (s, .waits) =>
              s.updCore core fun k => { k with copies := Tab.upd k.copies slot fun x => { x with held := true } }
            | (s, .noQueue) => s.failWith core slot cause addr ps
            | (s, .full) => s
          else s.failWith core slot cause addr ps
    | none => s)

end Sys2Proof.Machine
end

