-- ==== Sys2Proof/Machine/Errors.lean ====
section
/-! DEFINITION. Errors, sparing and the consumers of uncorrectable data (R361 to R372). -/

namespace Sys2Proof.Machine

def State.setErrs (s : State) (f : Errs → Errs) : State := { s with errs := f s.errs }

/-! ### The log and the windows (R361, R362) -/

/-- ERRACK_WRITE: a value behind the current one or ahead of ERRNEXT is ignored; an advance ends the overflow. -/
def execErrackWrite (v : Word) (s : State) : Host.Outcome State Fault Refusal :=
  let ack := s.reg 0x80C
  .next (if v = ack ∨ (s.reg 0x808 - ack).toNat < (v - ack).toNat then s
    else (s.setReg 0x80C v).setErrs fun e => { e with lost := none })

/-- CE_WINDOW_BOUNDARY: every window that has ended closes. -/
def execCeWindowBoundary (s : State) : Host.Outcome State Fault Refusal := .next s.closeWindows

/-! ### Corrected errors and sparing (R365, R366) -/

/-- The counter of smallest count, the oldest of those, is given up when none of 4,096 is free. -/
def makeRoom (l : List CeCount) : List CeCount :=
  if l.length < 4096 then l
  else match l.foldl (fun (b : Option CeCount) x => match b with
      | some y => if x.count < y.count then some x else b
      | none => some x) none with
    | some g => l.filter (· != g)
    | none => l

/-- The structure of a location, and its spares (R366). -/
def spareKey (unit : Nat) (loc : Word) : Nat :=
  unit * 2 ^ 32 + (if unit = 0 then loc.toNat / 2 ^ 20 else loc.toNat / 65536)
def spareCount (unit : Nat) : Nat :=
  if unit = 0 then 4 else if unit ≤ 7 then 2 else if unit = 10 then Config.ucieSpares else 0

/-- The core that a location of units 4 to 9 names (R362). -/
def locCore (loc : Word) : Nat := loc.toNat / 2 ^ 28 * 40 + loc.toNat / 2 ^ 22 % 64

/-- A chiplet leaves service (R366, R367). -/
def State.chipOut (s : State) (chip unit : Nat) (loc : Word) : State :=
  let v := (s.reg 0x818).toNat
  if v.testBit chip && decide (chip < 10) then
    (s.chipLeaves chip).errLog (ErrRec.at_ 6 unit loc)
  else s

/-- What follows when a lasting location finds no spare (R366). -/
def State.noSpare (s : State) (unit : Nat) (loc : Word) : State :=
  let s := s.setErrs fun e => { e with worn := if e.worn.contains (unit, loc) then e.worn else e.worn ++ [(unit, loc)] }
  if unit = 3 then
    s.setErrs fun e =>
      let slot := loc.toNat / 65536 / 512
      { e with slotsOut := if slot < 3 ∧ !e.slotsOut.contains slot then e.slotsOut ++ [slot] else e.slotsOut }
  else if 4 ≤ unit ∧ unit ≤ 7 then
    (s.setErrs fun e =>
      { e with faulty := if e.faulty.contains (locCore loc) then e.faulty else e.faulty ++ [locCore loc] }).serviceFaulty
  else if unit = 10 then s.chipOut (loc.toNat / 65536) unit loc
  else s

/-- A weak lane has been swapped, or taken out of use: a record of KIND 7 (R368, R369). -/
def State.laneRecord (s : State) (unit : Nat) (loc : Word) : State := s.errLog (ErrRec.at_ 7 unit loc)

/-- A location is spared, or finds no spare left; `lasting` where its errors call for it (R365), and not the sampling of a lane (R368).
The spare holds what the location held, and its counter begins again. A UCIe lane is repaired as a scale-up lane is, with a record
of KIND 7. -/
def State.spareLoc (s : State) (unit : Nat) (loc : Word) (lasting : Bool) : State :=
  let key := spareKey unit loc
  let used := Tab.getD s.errs.spares key 0
  if used < spareCount unit then
    let s := if lasting then s.errLog { ErrRec.at_ 4 unit loc with spares := spareCount unit - used - 1 } else s
    let s := s.setErrs fun e =>
      { e with spares := Tab.set e.spares key (used + 1), counts := e.counts.filter fun x => x.unit != unit || x.loc != loc }
    if unit = 10 then s.laneRecord unit loc else s
  else (if lasting then s.errLog (ErrRec.at_ 5 unit loc) else s).noSpare unit loc

/-- The key of a lane of a port. -/
def laneKey (port lane : Nat) : Nat := port * 65536 + lane
/-- A lane of a port is in use. -/
def State.laneUsed (s : State) (port lane : Nat) : Bool :=
  decide (port < 96) && decide (lane < 2) && !(Tab.getD s.fabric.lanesOut port 0).testBit lane

/-- A lasting location (R365, R366). A scale-up lane is weak from then on, and its port proposes a swap (R368). -/
def State.spare (s : State) (unit : Nat) (loc : Word) : State :=
  if unit = 11 then
    if s.laneUsed (loc.toNat / 65536) (loc.toNat % 65536) then
      s.setFab fun f => { f with weak := Tab.set f.weak loc.toNat 4 }
    else s
  else if unit = 8 ∨ unit = 9 then s
  else s.spareLoc unit loc true

def State.setCounter (s : State) (x : CeCount) : State :=
  s.setErrs fun e =>
    { e with counts :=
        if e.counts.any fun y => y.unit == x.unit && y.loc == x.loc then
          e.counts.map fun y => if y.unit = x.unit ∧ y.loc = x.loc then x else y
        else makeRoom e.counts ++ [x] }

/-- CORRECTED_ERROR: the first of a location in a window is recorded; the count that reaches CETHR makes it lasting. A
lasting HBM row without a spare has each of its errors recorded. An error in the cycle of a boundary counts in the new
window (R372). -/
def execCorrectedError (unit : Nat) (loc : Word) (s : State) : Host.Outcome State Fault Refusal :=
  .next (if 12 < unit then s
    else
      let s := s.closeWindows
      let x := s.ceCounter unit loc
      let x : CeCount := { x with count := x.count + 1 }
      let s := s.setCounter x
      let worn := s.errs.worn.contains (unit, loc)
      let s := if x.count = 1 ∨ (worn ∧ unit = 0) then s.errLog (ErrRec.at_ 1 unit loc) else s
      if (s.reg 0x814).toNat ≤ x.count ∧ !worn then s.spare unit loc else s)

/-! ### Uncorrectable data (R363) -/

/-- An uncorrectable error of a location counts; the second in one window makes it lasting (R365). -/
def State.countUe (s : State) (unit : Nat) (loc : Word) : State :=
  let s := s.closeWindows
  let x := s.ceCounter unit loc
  let s := s.setCounter { x with ue := x.ue + 1 }
  if x.ue = 1 ∧ !s.errs.worn.contains (unit, loc) then s.spare unit loc else s

/-- A sector of device memory is uncorrectable. Loads of it that have passed their check take their values before. -/
def State.markSector (s : State) (sector : Nat) : State :=
  let s := (s.cores.map (·.1)).foldl (fun s c => s.takeLates c fun x => x.meets (32 * sector) 32) s
  (s.setErrs fun e => { e with bad := if e.bad.contains sector then e.bad else e.bad ++ [sector] }).countUe 0 (Config.hbmLoc sector)

/-- The sector that an address of a partition reaches, if it is device memory. -/
def State.markAddr (s : State) (part : Nat) (va : DWord) : State :=
  match s.sectorAt part va with
  | some b => s.markSector b
  | none => s

/-- A line of an L1 that holds uncorrectable data is dropped. What a dirty one had to write back leaves a failing sector behind; a
release there is performed in its turn all the same, without its bytes. -/
def State.dropL1Sector (s : State) (c pa : Nat) (dirty : Bool) : State :=
  let inSector := fun (k : Nat) => k / 32 == pa / 32
  if dirty then
    match (s.core c).outst.filter fun x => meets x.loc.key x.bytes.length (pa / 32 * 32) 32 with
    | [] => s
    | xs =>
      let s := (xs.filter fun x => !x.rel).foldl (fun s x => s.perform c x) s
      (s.updCore c fun k => { k with l1 := k.l1.filter fun e => !inSector e.1 }).markSector (pa / 32)
  else s.l1Drop c fun k => k / 128 == pa / 128

/-- A word on a core fails its check: it stays uncorrectable until a write covers it. -/
def State.failWord (s : State) (c lid tid : Nat) (g : Granule) : State :=
  let (unit, key) := granKey lid tid g
  let s := match g with
    | .cReg n => s.updThread c lid tid fun t => { t with bad := n.toNat :: t.bad.filter (· != n.toNat) }
    | .global _ | .wReg _ => s
    | g => s.updRes c lid fun r => { r with bad := if r.bad.contains g then r.bad else r.bad ++ [g] }
  s.countUe unit (coreLoc c unit key)

/-- A lane's granule fails its check: the instruction that reads it parks there (`State.meetBad`, R363). An access to what is no
device memory of this package fails at once. -/
def State.failLaneGranule (s : State) (r : AgentRef) (a : Agent) (lane : Nat) (g : Granule) : State :=
  let tid := if a.shep then shepTid else (Tab.getD a.lanes lane default).tid
  match g with
  | .global va => match s.sectorAt (s.launchD a.lid).part va with
    | some b => s.markSector b
    | none => s.trapLanes r [(lane, 0x10, va, Acc.read.code)]
  | .wReg n =>
    (s.updAgent r fun a => { a with lanes := Tab.upd a.lanes lane fun l =>
      { l with bad := n.toNat :: l.bad.filter (· != n.toNat) } }).failWord r.core a.lid tid g
  | g => s.failWord r.core a.lid tid g

/-- UNCORRECTABLE_CONSUMED (R363): data that a consumer is about to read fail their check. They stay uncorrectable until a write
covers them, and each consumer meets them as it reads them. A core whose running launches cannot avoid the error is left by
CORE_LOGIC_ERROR (R367). -/
def execUncorrectableConsumed (k : Consumer) (s : State) : Host.Outcome State Fault Refusal :=
  let ofAgent := fun (shep : Bool) (r : AgentRef) (lane : Nat) (g : Granule) =>
    match s.agent? r with
    | some a =>
      if a.shep != shep || a.ended || (s.core r.core).frozen || (Tab.get? a.lanes lane).isNone then s
      else s.failLaneGranule r a lane g
    | none => s
  .next (match k with
    | .lane core ag lane g => ofAgent false { core, id := ag } lane g
    | .shepherd core ag g => ofAgent true { core, id := ag } 0 g
    | .copy core slot g =>
      match Tab.get? (s.core core).copies slot with
      | some x =>
        if !x.live || x.landed || x.kept then s
        else match g with
          | .global va => match s.sectorAt (s.launchD x.lid).part va with
            | some b => s.markSector b
            | none => s.failCopy core slot 0x10 va
          | g => s.failWord core x.lid 0 g
      | none => s
    | .engine core g =>
      match (s.core core).queue with
      | q :: _ => if q.run then s else s.failWord core q.lid 0 g
      | [] => s
    | .collective idx va =>
      match Tab.get? s.fabric.colls idx with
      | some x =>
        let s := match s.sectorAt x.part va with
          | some b => s.markSector b
          | none => s
        (s.ueRead x.lid x.whoW va).setFab fun f => { f with colls := Tab.set f.colls idx { x with bad := true } }
      | none => s
    | .hostRead pa => ((s.markSector (pa / 32)).ueLog (some (pa / 32)) 0 0x40000000 0).emit (.abort pa)
    | .partialStore pa => s.markSector (pa / 32)
    | .cleanL1 core pa => s.dropL1Sector core pa false
    | .dirtyL1 core pa => s.dropL1Sector core pa true)

/-- The locations of the words of a core that are uncorrectable. -/
def Core.badWords (k : Core) (c : Nat) : List (Nat × Word) :=
  let at_ := fun (lid tid : Nat) (g : Granule) => let (unit, key) := granKey lid tid g; (unit, coreLoc c unit key)
  (k.res.flatMap fun e => e.2.bad.map (at_ e.1 0))
    ++ (k.threads.flatMap fun e => e.2.bad.map fun n => at_ e.2.lid e.2.tid (.cReg (BitVec.ofNat 6 n)))
    ++ (k.agents.flatMap fun e => e.2.lanes.flatMap fun x =>
      x.2.bad.map fun n => at_ e.2.lid (if e.2.shep then shepTid else x.2.tid) (.wReg (BitVec.ofNat 6 n)))

/-- A location holds uncorrectable data. -/
def State.badAtLoc (s : State) (unit : Nat) (loc : Word) : Bool :=
  if unit = 0 then s.errs.bad.any fun b => Config.hbmLoc b == loc
  else s.cores.any fun e => (e.2.badWords e.1).contains (unit, loc)

/-- SCRUB (R363, R370): an uncorrectable granule is recorded and left as it is. -/
def execScrub (unit : Nat) (loc : Word) (s : State) : Host.Outcome State Fault Refusal :=
  .next (if s.badAtLoc unit loc then s.errLog (ErrRec.at_ 3 unit loc) else s)

/-- HBM_REFRESH (R370): it takes a bank for a time, and nothing else. -/
def execHbmRefresh (_bank : Nat) (s : State) : Host.Outcome State Fault Refusal := .next s

/-- CORE_LOGIC_ERROR (R367): the launches with a thread or shepherd on the core stop with cause 0x10, the core is left
empty, and its position moves to a spare. -/
def execCoreLogicError (core : Nat) (s : State) : Host.Outcome State Fault Refusal :=
  .next (if 400 ≤ core then s
    else
      let lids := (s.launches.filter fun e => (s.core core).hosts e.1).map (·.1)
      let s := lids.foldl (fun s lid => s.stopLaunch lid { cause := 0x10, cause2 := 0, who := 0, tpc := 0, addr := 0 }) s
      let s := s.setFab fun f => { f with remote := f.remote.filter fun e => e.2.core != core }
      s.retireCore core)

/-! ### What is out of use (R366) -/

/-- The lanes of the host link: x16, and x8 once one of them is lasting. -/
def State.hostLinkWidth (s : State) : Nat := if s.errs.worn.any (·.1 == 12) then 8 else 16

/-- The arrays of 256 KiB of the L2 (unit 1) or of the far cache (2) that are out of use: its capacity has fallen by as many. -/
def State.arraysOut (s : State) (unit : Nat) : Nat :=
  ((s.errs.worn.filter fun e => e.1 == unit).map fun e => e.2.toNat / 65536).eraseDups.length

/-! ### Lanes and ports (R332, R368, R369) -/

/-- Spare scale-up lanes of an I/O chiplet (LANESTAT). -/
def State.laneSpares (s : State) (io : Nat) : Nat := (s.reg 0x81C).toNat / 16 ^ io % 16
/-- Three low samples in a row, or errors that have made the lane lasting (value 4), and it is weak (R368). -/
def State.laneWeak (s : State) (port lane : Nat) : Bool :=
  s.laneUsed port lane && decide (3 ≤ Tab.getD s.fabric.weak (laneKey port lane) 0)
/-- The lower weak lane of a port. -/
def State.weakLane (s : State) (port : Nat) : Option Nat := [0, 1].find? fun l => s.laneWeak port l

/-- LANE_SAMPLE (R368): of a port below 96 a scale-up lane, of port 96 + c a lane of the UCIe link of compute chiplet c, which is
repaired as soon as it is weak. -/
def execLaneSample (port lane : Nat) (low : Bool) (s : State) : Host.Outcome State Fault Refusal :=
  let k := laneKey port lane
  let n := Tab.getD s.fabric.weak k 0
  let count := fun (s : State) => s.setFab fun f =>
    { f with weak := if low then Tab.set f.weak k (max n (min 3 (n + 1))) else if n < 3 then Tab.erase f.weak k else f.weak }
  .next (if port < 96 then (if s.laneUsed port lane then count s else s)
    else if 106 ≤ port then s
    else if low ∧ 2 ≤ n then
      (s.setFab fun f => { f with weak := Tab.erase f.weak k }).spareLoc 10 (BitVec.ofNat 32 (laneKey (port - 96) lane)) false
    else count s)

/-- A weak lane is dealt with: its record of KIND 4 or 5 where errors had made it lasting (R366), with what is left of the spares,
and that of KIND 7; the lane in its place begins with no low sample and no error. -/
def State.laneDone (s : State) (port lane kind left : Nat) : State :=
  let k := laneKey port lane
  let loc := BitVec.ofNat 32 k
  let s := if Tab.getD s.fabric.weak k 0 = 4 then s.errLog { ErrRec.at_ kind 11 loc with spares := left } else s
  let s := s.setFab fun f => { f with weak := Tab.erase f.weak k }
  (s.setErrs fun e => { e with counts := e.counts.filter fun x => x.unit != 11 || x.loc != loc }).laneRecord 11 loc

/-- LANE_SWAP (R332): a weak lane gives way to a spare of its I/O chiplet. -/
def execLaneSwap (port : Nat) (s : State) : Host.Outcome State Fault Refusal :=
  .next (match s.weakLane port with
    | some lane =>
      let io := port / 24
      let left := s.laneSpares io
      if left = 0 then s
      else (s.setReg 0x81C (BitVec.ofNat 32 ((s.reg 0x81C).toNat - 16 ^ io))).laneDone port lane 4 (left - 1)
    | none => s)

/-- A port is down: the requests that had gone out over it are sent again (R369). -/
def State.portDown (s : State) (port : Nat) : State :=
  (s.fabric.remote.filter fun e => !e.2.pending && Config.onPort e.1 port).foldl (fun s e =>
    s.sendAgain e.1 { e.2 with again := true, sent := s.nanos }) s

/-- PORT_DEGRADE (R369): a weak lane with no spare is taken out of use; a port that loses both lanes is down. -/
def execPortDegrade (port : Nat) (s : State) : Host.Outcome State Fault Refusal :=
  .next (match s.weakLane port with
    | some lane =>
      if s.laneSpares (port / 24) ≠ 0 then s
      else
        let gone := Tab.getD s.fabric.lanesOut port 0 + 2 ^ lane
        let s := (s.laneDone port lane 5 0).setFab fun f => { f with lanesOut := Tab.set f.lanesOut port gone }
        if gone = 3 then s.portDown port else s
    | none => s)

end Sys2Proof.Machine
end

