-- ==== Sys2Proof/Machine/Firmware.lean ====
section
/-! DEFINITION. Firmware, management and identity (R373 to R387). -/

namespace Sys2Proof.Machine

def State.setFw (s : State) (f : Fw → Fw) : State := { s with fw := f s.fw }

/-! ### The lease (R374, R375) -/

/-- The lease countdown is not 0. -/
def State.leased (s : State) : Bool := s.fw.leader.isSome && decide (s.nanos < s.fw.until_)
/-- The leader's number, 0 without one. -/
def State.leaderNo (s : State) : Nat := s.fw.leader.getD 0

/-- LEADSTAT after a change of the lease: `up` counts a takeover. -/
def State.setLead (s : State) (up : Bool) : State :=
  let n := (s.reg 0x50010).toNat / 65536
  let n := if up then min 65535 (n + 1) else n
  s.setReg 0x50010 (BitVec.ofNat 32 (n * 65536 + (if s.fw.leader.isSome then 16 else 0) + s.leaderNo))

/-- LEASE_RENEWAL: it succeeds while the countdown is nonzero and it carries the current epoch; a refused one
changes nothing, and its core is a follower. -/
def execLeaseRenewal (who : Nat) (epoch : Word) (s : State) : Host.Outcome State Fault Refusal :=
  .next (if s.leased && s.fw.leader == some who && epoch == s.fw.epoch then
      s.setFw fun f => { f with until_ := s.nanos + 1000000 }
    else s)

/-- LEASE_LAPSE: the countdown has reached 0. -/
def execLeaseLapse (s : State) : Host.Outcome State Fault Refusal :=
  .next (if s.fw.leader.isSome && decide (s.fw.until_ ≤ s.nanos) then
      (s.setFw fun f => { f with leader := none }).setLead false
    else s)

/-! ### Results of commands -/

/-- FEATURES (R298). -/
def State.features (s : State) : DWord := s.reg64 0x20018
/-- SECVER of the release in use. -/
def State.secverOf (s : State) (rel : Nat) : Word := (Tab.get? s.fw.secvers rel).getD (Config.secver rel)

/-- The identity record (R380). -/
def State.identityRecord (s : State) : List Byte :=
  let fw := s.fw.bank
  bytesOfWords [0x4800, (if Config.form then 1 else 0), Config.serial.setWidth 32, (Config.serial >>> 32).setWidth 32,
    Config.fwVersion fw, s.secverOf fw, Config.mcRevision fw, Config.binderVersion fw, 1, s.features.setWidth 32,
    (s.features >>> 32).setWidth 32, s.reg 0x818, Config.pkgId.setWidth 32, 0, 0, 0]
  ++ publicKey devPrivate ++ listGen (fun _ => 0) 316

/-- The attestation report (R381). -/
def State.attestReport (s : State) (nonce : List Byte) : List Byte :=
  let fw := s.fw.bank
  let body := nonce ++ sha512 s.identityRecord
    ++ (List.range 4).flatMap (fun i => sha512 (Config.imageBytes fw i))
    ++ bytes32 (s.secverOf fw) ++ bytes32 (Config.fwVersion fw)
  body ++ deviceSign body

/-- The telemetry record (R378). -/
def State.telemetryRecord (s : State) : List Byte :=
  bytesLE 8 s.fw.power ++ bytesLE 4 s.fw.mhz ++ (List.range 15).flatMap fun i => bytesLE 4 (s.fw.temps.getD i 0)

/-! ### Commands (R375 to R378, R382) -/

def cmdWord (c : Cmd) : Nat := ofBytesLE (c.payload.take 4)

/-- The update lock is held by the other master (R382), whose last FWSTAGE was less than 10 s ago. -/
def State.lockedOut (s : State) (m : Master) : Bool :=
  match s.fw.lock with
  | some (h, t) => h != m && decide (s.nanos < t + 10000000000)
  | none => false

/-- Every partition is empty or saved (R382). -/
def State.noneRunning (s : State) : Bool := (List.range 16).all fun n => s.pState n == 0 || s.pState n == 5

/-- The status of a command under the state in which the leader takes it (R376, R378, R382, R385). -/
def State.judge9 (s : State) (c : Cmd) : Nat :=
  let n := c.payload.length
  let v := cmdWord c
  if s.fw.trip && c.opcode != 7 && c.opcode != 8 then 8
  else if c.opcode = 0 ∨ 9 < c.opcode then 1
  else if c.judged ≠ 0 then c.judged
  else match c.opcode with
    | 1 | 7 => if n = 0 then 0 else 2
    | 2 => if n = 64 then 0 else 2
    | 3 => if n < 4 ∨ 4096 < n ∨ v % 4 ≠ 0 then 2 else if s.lockedOut c.master then 3 else 0
    | 4 =>
      if n ≠ 4 ∨ 1 < v then 2
      else if s.lockedOut c.master then 3
      else if v = 1 ∧ !s.noneRunning then 6
      else if !bundleSigned s.fw.staged then 4
      else if (Config.bundleSecver s.fw.staged).toNat < s.fw.secMin.toNat then 5
      else 0
    | 5 => if n ≠ 0 then 2 else if s.lockedOut c.master then 3 else 0
    | 6 => if n = 4 ∧ 1200 ≤ v ∧ v ≤ 3200 then 0 else 2
    | 8 => if n ≠ 0 then 2 else if s.fw.trip && s.fw.temps.any (fun t => decide (900 ≤ t)) then 6 else 0
    | _ => if 1 ≤ n ∧ n ≤ 4096 then 0 else 2

/-- The staged bundle is a release, of the next number. -/
def Fw.enroll (f : Fw) : Fw :=
  { f with staged := [], newest := f.newest + 1, secvers := Tab.set f.secvers (f.newest + 1) (Config.bundleSecver f.staged) }

/-- FWACTIVATE of a good bundle (R382): its bank is the boot bank, and in mode 1 it is in use at once, with the
binder's cache discarded; the fused minimum rises at its next boot. -/
def State.activate (s : State) (live : Bool) : State :=
  let rel := s.fw.newest + 1
  let sv := Config.bundleSecver s.fw.staged
  let s := s.setFw fun f =>
    { f.enroll with lock := none, other := some f.bank, boot := some rel, bank := if live then rel else f.bank,
                    secNext := f.secNext ++ [(rel, sv)] }
  if live then s.discardImages fun _ => true else s

/-- The spare maps and the service state as the repair record keeps them over a reset; the faulty cores that waited are
spared, since every partition is then empty (R367). -/
def State.repairRecord (s : State) : Repair :=
  let s' := (({ s with front := { s.front with regs := [] } } : State).setReg 0x818 (s.reg 0x818)).serviceFaulty
  { svc := s'.reg 0x818, lanes := s.reg 0x81C, spares := s.errs.spares, worn := s.errs.worn, slotsOut := s.errs.slotsOut,
    lanesOut := s.fabric.lanesOut }

/-- Stage 4 of bring-up applies the repair record (R383). -/
def State.applyRepair (s : State) : State :=
  match s.fw.repair with
  | none => s
  | some r =>
    let s := (s.setReg 0x818 r.svc).setReg 0x81C r.lanes
    { s with
        errs := { s.errs with spares := r.spares, worn := r.worn, slotsOut := r.slotsOut }
        fabric := { s.fabric with lanesOut := r.lanesOut } }

/-- The part is reset (R378): every launch, context and shadow slot is lost; flash with its repair record and fuses
are kept, and bring-up starts again. Time goes on, the cycle counters start again (R21). -/
def State.resetPart (s : State) : State :=
  { State.reset with
      tick := s.tick, nanos := s.nanos
      fabric := { State.reset.fabric with out := s.fabric.out }
      fw := { State.reset.fw with
                perst := s.fw.perst, early := s.fw.early, bank := s.fw.bank, boot := s.fw.boot, other := s.fw.other, newest := s.fw.newest,
                secvers := s.fw.secvers, secMin := s.fw.secMin, secNext := s.fw.secNext, staged := s.fw.staged,
                temps := s.fw.temps, power := s.fw.power,
                repair := if 4 ≤ s.fw.stage then some s.repairRecord else s.fw.repair } }

/-- A chunk goes to the flash bank that is not in use (R378), in place of the release that was there. -/
def Fw.stageChunk (f : Fw) (off : Nat) (bs : List Byte) : Fw :=
  let inUse := f.boot == some f.bank
  { f with staged := putBytes f.staged off bs, other := if inUse then none else f.other, boot := if inUse then f.boot else none }

/-- What a command of status 0 does, and its result. -/
def State.perform9 (s : State) (c : Cmd) : State × List Byte :=
  match c.opcode with
  | 1 => (s, s.identityRecord)
  | 2 => (s, s.attestReport c.payload)
  | 3 =>
    (s.setFw fun f => { f.stageChunk (cmdWord c) (c.payload.drop 4) with lock := some (c.master, s.nanos) }, [])
  | 4 => (s.activate (cmdWord c == 1), [])
  | 5 => (s.setFw fun f => { f with lock := none, staged := [] }, [])
  | 6 => (s.setFw fun f => { f with cap := cmdWord c }, [])
  | 7 => (s, s.telemetryRecord)
  | 8 => (s.resetPart, [])
  | _ => (s.emit (.switchConfig c.payload), [])

/-- A command completes: its status and result reach its master, and its mailbox is free. -/
def State.completeCmd (s : State) (c : Cmd) (status : Nat) (res : List Byte) : State :=
  let s := s.setFw fun f => { f with journal := none, last := some c.master }
  match c.master with
  | .host =>
    let s := s.setFw fun f => { f with mbHost := none, data := putBytes f.data 0 res }
    (s.setReg 0x5000C (BitVec.ofNat 32 (res.length * 65536 + s.leaderNo * 256 + status))).msix 4
  | .sideband => (s.setFw fun f => { f with mbSide := none }).emit (.sideband c.seq (BitVec.ofNat 8 status) res)

/-- The journaled command is executed from its start (R375). After a RESET nothing is left of the host's mailbox, and
only a side-band master has its answer (R387). -/
def State.runJournal (s : State) : State :=
  match s.fw.journal with
  | none => s
  | some c =>
    if c.judged = 0 ∧ c.opcode = 8 then
      let s := (s.perform9 c).1
      if c.master = .sideband then s.emit (.sideband c.seq 0 []) else s
    else if c.judged = 0 then
      let (s, res) := s.perform9 c
      s.completeCmd c 0 res
    else s.completeCmd c c.judged []

/-- A flash bank passes the check of its boot ROM: with a release, or with what has been staged there (R382). -/
def State.bankGood (s : State) : Option Nat → Bool
  | some r => Config.bankGood s.tick r
  | none => bundleSigned s.fw.staged && Config.bankGood s.tick (s.fw.newest + 1)

/-- A flash bank passes the check, or firmware runs already (R382, R383). -/
def State.bootable (s : State) : Bool := s.fw.holder.isSome || s.bankGood s.fw.boot || s.bankGood s.fw.other

/-- The boot ROMs start a bank that passes their check, the boot bank first; the boot of a newly activated release
raises the fused minimum (R382). -/
def State.boot (s : State) : State :=
  let first := s.bankGood s.fw.boot
  s.setFw fun f =>
    let rel := (if first then f.boot else f.other).getD (f.newest + 1)
    let f := match if first then f.boot else f.other with
      | some _ => f
      | none => if first then { f.enroll with boot := some rel } else { f.enroll with other := some rel }
    { f with
        bank := rel
        secMin := (f.secNext.filter fun x => x.1 == rel).foldl (fun m x => if m.toNat < x.2.toNat then x.2 else m) f.secMin
        secNext := f.secNext.filter fun x => x.1 != rel }

/-- LEASE_CLAIM (R374, R375): it succeeds only while the countdown is 0; the new leader first executes the journaled
command that has no completion. The first claim after a reset comes once the boot ROMs have started the firmware (R382, R383); stage
1 does not begin where PERST# ended too early (R386). -/
def execLeaseClaim (who : Nat) (s : State) : Host.Outcome State Fault Refusal :=
  .next (if s.leased || s.fw.perst || s.fw.early || decide (14 < who) || !s.bootable then s
    else
      let up := s.fw.holder.isSome
      let s := if up then s else s.boot
      let s := s.setFw fun f =>
        { f with holder := some who, leader := some who, epoch := f.epoch + 1, until_ := s.nanos + 1000000 }
      let s := (s.setLead up).runJournal
      if up then s.msix 5 else s)

/-- The command that a master's mailbox holds. -/
def State.mailbox (s : State) (m : Master) : Option Cmd :=
  match m with
  | .host => s.fw.mbHost
  | .sideband => s.fw.mbSide

/-- It is a master's turn (R376): the other's mailbox is empty, or was served last. The host goes first where none was
served before, or both submitted in one cycle (R387). -/
def State.masterTurn (s : State) (m : Master) : Bool :=
  match s.fw.mbHost, s.fw.mbSide with
  | some h, some x => if h.at_ = x.at_ ∨ s.fw.last = none then m == .host else s.fw.last != some m
  | _, _ => true

/-- The opcode of a step that serves a command: an unknown one is served as 1 is. -/
def cmdStep (c : Cmd) : Nat := if 1 ≤ c.opcode ∧ c.opcode ≤ 9 then c.opcode else 1

/-- A RESET that is allowed is taken whatever the other master's command is doing, which gets no status (R387). -/
def State.resetTaken (s : State) (c : Cmd) : Bool :=
  c.opcode == 8 && s.judge9 c == 0 && match s.fw.journal with
    | some j => j.opcode != 8
    | none => true

/-- A command's step of the leader (R375): first it takes the command, judges it and journals it, then it executes it
and writes its completion. -/
def State.command (s : State) (op : Nat) (m : Master) : State :=
  let take := fun (c : Cmd) => s.setFw fun f => { f with journal := some { c with judged := s.judge9 c } }
  if !s.leased then s
  else match (s.mailbox m).filter fun c => decide (cmdStep c = op) && s.resetTaken c with
    | some c => take c
    | none => match s.fw.journal with
      | some c => if cmdStep c = op ∧ c.master = m then s.runJournal else s
      | none => match s.mailbox m with
        | some c => if cmdStep c = op ∧ s.masterTurn m then take c else s
        | none => s

/-- IDENTITY. -/
def execIdentity (m : Master) (s : State) : Host.Outcome State Fault Refusal := .next (s.command 1 m)
/-- ATTEST. -/
def execAttest (m : Master) (s : State) : Host.Outcome State Fault Refusal := .next (s.command 2 m)
/-- FWSTAGE. -/
def execFwstage (m : Master) (s : State) : Host.Outcome State Fault Refusal := .next (s.command 3 m)
/-- FWACTIVATE. -/
def execFwactivate (m : Master) (s : State) : Host.Outcome State Fault Refusal := .next (s.command 4 m)
/-- FWABORT. -/
def execFwabort (m : Master) (s : State) : Host.Outcome State Fault Refusal := .next (s.command 5 m)
/-- POWERCAP. -/
def execPowercap (m : Master) (s : State) : Host.Outcome State Fault Refusal := .next (s.command 6 m)
/-- TELEMETRY. -/
def execTelemetry (m : Master) (s : State) : Host.Outcome State Fault Refusal := .next (s.command 7 m)
/-- RESET. -/
def execReset (m : Master) (s : State) : Host.Outcome State Fault Refusal := .next (s.command 8 m)
/-- SWCONFIG. -/
def execSwconfig (m : Master) (s : State) : Host.Outcome State Fault Refusal := .next (s.command 9 m)

/-- SIDEBAND_MESSAGE (R376): a command enters the side-band mailbox, one at a time; while no firmware core can lead it
is answered with status 7. -/
def execSidebandMessage (opcode : Byte) (seq : Word) (payload : List Byte) (s : State) : Host.Outcome State Fault Refusal :=
  .next (if s.fw.perst || (s.fw.stage == 0 && s.fw.leader.isNone) then s.emit (.sideband seq 7 [])
    else if s.fw.mbSide.isSome then s
    else s.setFw fun f =>
      { f with mbSide := some { master := .sideband, opcode := opcode.toNat, seq, payload, judged := 0, at_ := s.cycles } })

/-- UPDATE_LOCK_TIMEOUT (R382): 10 s without a FWSTAGE. -/
def execUpdateLockTimeout (s : State) : Host.Outcome State Fault Refusal :=
  .next (match s.fw.lock with
    | some (_, t) => if t + 10000000000 ≤ s.nanos then s.setFw fun f => { f with lock := none } else s
    | none => s)

/-! ### Power, cooling and bring-up (R383 to R386) -/

/-- The clocks stop and nothing of any launch or context is kept (R385); the side-band port signals an event. What goes on is
named by `standby`. -/
def State.tripPart (s : State) (event : Nat) : State :=
  let s := { s with
    cur := none, agenda := [], cores := [], launches := [], parts := []
    front := { s.front with latch := [], slots := [], rescan := [], pass := [], serving := [], requeue := [], nodes := [],
                            loader := none, pending := [], cancelled := [], halted := [], rebound := [] }
    fabric := { s.fabric with remote := [], waiting := [], moving := [], asked := [], colls := [], biasJob := none, tlbi := none } }
  (s.setFw fun f => { f with trip := true }).emit (.event event)

/-- THROTTLE_TICK (R384): the average power in mW and the hottest junction of each die in 0.1 °C are measured, and the
clock moves by 25 MHz; a junction at 110 °C trips the part (R385). -/
def execThrottleTick (avgMw : Nat) (temps : List Nat) (s : State) : Host.Outcome State Fault Refusal :=
  .next (
    let temps := temps.take 15
    let s := s.setFw fun f => { f with power := avgMw, temps }
    let cap := s.fw.cap * 1000
    let hot := decide (cap < avgMw) || temps.any fun t => decide (1000 < t)
    let under := decide (avgMw * 100 ≤ cap * 95) && temps.all fun t => decide (t < 950)
    if s.fw.trip then s
    else if temps.any fun t => decide (1100 ≤ t) then s.tripPart 0
    else if hot then s.setFw fun f => { f with mhz := max 425 (f.mhz - 25) }
    else if under then s.setFw fun f => { f with mhz := min 850 (f.mhz + 25) }
    else s)

/-- THERMAL_TRIP (R385): the junction of a die has reached 110 °C; which one is free (log 54). -/
def execThermalTrip (s : State) : Host.Outcome State Fault Refusal :=
  let die := Config.hotDie s.tick % 15
  .next (if s.fw.trip then s
    else (s.setFw fun f =>
      { f with temps := listGen (fun i => if i = die then max 1100 (f.temps.getD i 0) else f.temps.getD i 0) 15 }).tripPart 0)
/-- BROWN_OUT (R386): a rail has left its window; the event names it, from 1 for VCORE0 to 16 for VSTBY. -/
def execBrownOut (rail : Nat) (s : State) : Host.Outcome State Fault Refusal :=
  .next (if s.fw.trip || decide (16 ≤ rail) then s else s.tripPart (rail + 1))

/-- The set points of VCORE and VHUB in mV: within their ranges, as the clock has them (R386). -/
def State.vcore (s : State) : Nat := 650 + Config.vcoreSet s.fw.mhz % 201
def State.vhub (s : State) : Nat := 700 + Config.vhubSet s.fw.mhz % 101

/-- PERST_DEASSERT (R383, R386): bring-up begins, unless the last rail has not been within its window for 10 ms. -/
def execPerstDeassert (s : State) : Host.Outcome State Fault Refusal :=
  .next (if s.fw.perst then
      s.setFw fun f => { f with perst := false, stage := 0, early := decide (s.nanos < Config.railsUp + 10000000) }
    else s)

/-- Every granule gets a good check code (R383). -/
def State.initGranules (s : State) : State :=
  { s with errs := { s.errs with bad := [] }
           cores := s.cores.mapVals fun _ k =>
             { k with res := k.res.mapVals fun _ r => { r with bad := [] }
                      threads := k.threads.mapVals fun _ t => { t with bad := [] }
                      agents := k.agents.mapVals fun _ a =>
                        { a with lanes := a.lanes.mapVals fun _ l => { l with bad := [] } } } }

/-- BRINGUP_STAGE_DONE (R383): stage 1 ends with the first lease claim; READY is set with stage
4, which applies the repair record and initialises every granule; the error windows count from the end of bring-up. -/
def execBringupStageDone (s : State) : Host.Outcome State Fault Refusal :=
  .next (if s.fw.perst || decide (5 ≤ s.fw.stage) || (s.fw.stage == 0 && s.fw.leader.isNone) then s
    else
      let s := s.setFw fun f => { f with stage := f.stage + 1 }
      let s := if s.fw.stage = 4 then s.applyRepair.initGranules else s
      let s := if s.fw.stage = 5 then { s with errs := { s.errs with start := s.nanos, window := 0, counts := [] } } else s
      s.setReg 0x50014 (BitVec.ofNat 32 ((if 4 ≤ s.fw.stage then 2 ^ 31 else 0) + s.fw.stage)))

end Sys2Proof.Machine
end

