-- ==== Sys2Proof/Machine/Integer.lean ====
section
/-! DEFINITION. The integer instructions, group 0x1_ (R88 to R94). -/

namespace Sys2Proof.Machine

/-- A source as a number, unsigned under bit 32 (R91). -/
def intOf (u : Bool) (w : Word) : Int := if u then w.toNat else w.toInt

/-- A result modulo 2^32, or clamped with OF under `.sat` (R90, R92). -/
def satInt (sat u : Bool) (v : Int) : LaneRes :=
  let lo : Int := if u then 0 else -2147483648
  let hi : Int := if u then 4294967295 else 2147483647
  if sat && v < lo then { LaneRes.word (BitVec.ofInt 32 lo) with flags := fOF }
  else if sat && hi < v then { LaneRes.word (BitVec.ofInt 32 hi) with flags := fOF }
  else .word (BitVec.ofInt 32 v)

/-- An integer instruction of class F4 that writes one register from its three sources as numbers. -/
def intOp (o : Op) (f : Int → Int → Int → LaneRes) (s : State) : Host.Outcome State Fault Refusal :=
  let u := o.mbit 0
  laneOp o .f4 1 (fun e => f (intOf u (e.a32 o)) (intOf u (e.b32 o)) (intOf u (e.c32 o))) s

/-- IADD (R91, R92). -/
def execIadd (o : Op) (s : State) : Host.Outcome State Fault Refusal :=
  intOp o (fun a b _ => satInt o.sat (o.mbit 0) (a + b)) s
/-- ISUB (R91, R92). -/
def execIsub (o : Op) (s : State) : Host.Outcome State Fault Refusal :=
  intOp o (fun a b _ => satInt o.sat (o.mbit 0) (a - b)) s
/-- IMUL (R91, R92). -/
def execImul (o : Op) (s : State) : Host.Outcome State Fault Refusal :=
  intOp o (fun a b _ => satInt o.sat (o.mbit 0) (a * b)) s
/-- IMULH (R91): bits 63:32 of the exact product. -/
def execImulh (o : Op) (s : State) : Host.Outcome State Fault Refusal :=
  intOp o (fun a b _ => .word (BitVec.ofInt 32 ((a * b).ediv 4294967296))) s
/-- IMAD (R91, R92). -/
def execImad (o : Op) (s : State) : Host.Outcome State Fault Refusal :=
  intOp o (fun a b c => satInt o.sat (o.mbit 0) (a * b + c)) s

/-- IMADW (R91): the 64-bit addend is signed or unsigned, which does not matter modulo 2^64. -/
def execImadw (o : Op) (s : State) : Host.Outcome State Fault Refusal :=
  let u := o.mbit 0
  laneOp o .f4 2 (fun e => .pair (BitVec.ofInt 64 (intOf u (e.a32 o) * intOf u (e.b32 o)) + e.c64 o)) s

/-- IMIN (R91). -/
def execImin (o : Op) (s : State) : Host.Outcome State Fault Refusal :=
  intOp o (fun a b _ => .word (BitVec.ofInt 32 (min a b))) s
/-- IMAX (R91). -/
def execImax (o : Op) (s : State) : Host.Outcome State Fault Refusal :=
  intOp o (fun a b _ => .word (BitVec.ofInt 32 (max a b))) s
/-- IABS (R91). -/
def execIabs (o : Op) (s : State) : Host.Outcome State Fault Refusal :=
  laneOp o .f4 1 (fun e => .word (BitVec.ofInt 32 (e.a32 o).toInt.natAbs)) s

/-- The predicate register that source C names (R93). -/
def carryReg (x : Opnd) : Reg :=
  match x with
  | .p n | .sp n => .p n.toNat
  | _ => .p 0

/-- A word and the carry or borrow that goes with it into the predicate of source C (R93). -/
def withCarry (o : Op) (d : Word) (c : Bool) : LaneRes :=
  { LaneRes.word d with extra := [(carryReg o.c, if c then 1 else 0)] }

/-- IADDC (R93). -/
def execIaddc (o : Op) (s : State) : Host.Outcome State Fault Refusal :=
  laneOp o .f4 1 (fun e =>
    let v := (e.a32 o).toNat + (e.b32 o).toNat + (e.c32 o).toNat
    withCarry o (BitVec.ofNat 32 v) (decide (4294967296 ≤ v))) s

/-- ISUBB (R93). -/
def execIsubb (o : Op) (s : State) : Host.Outcome State Fault Refusal :=
  laneOp o .f4 1 (fun e =>
    let v : Int := (e.a32 o).toNat - (e.b32 o).toNat - (e.c32 o).toNat
    withCarry o (BitVec.ofInt 32 v) (decide (v < 0))) s

/-- A division by zero sets IDZ, with the value that is written unless IDZE traps (R94). -/
def divZero (v : Word) : LaneRes := { LaneRes.word v with flags := fIDZ }

/-- IDIV (R94): truncated towards zero. -/
def execIdiv (o : Op) (s : State) : Host.Outcome State Fault Refusal :=
  let u := o.mbit 0
  laneOp o .v 1 (fun e =>
    if e.b32 o = 0 then divZero 0xFFFFFFFF
    else .word (BitVec.ofInt 32 ((intOf u (e.a32 o)).tdiv (intOf u (e.b32 o))))) s

/-- IREM (R94). -/
def execIrem (o : Op) (s : State) : Host.Outcome State Fault Refusal :=
  let u := o.mbit 0
  laneOp o .v 1 (fun e =>
    if e.b32 o = 0 then divZero (e.a32 o)
    else .word (BitVec.ofInt 32 ((intOf u (e.a32 o)).tmod (intOf u (e.b32 o))))) s

/-- ISAD (R91). -/
def execIsad (o : Op) (s : State) : Host.Outcome State Fault Refusal :=
  intOp o (fun a b c => .word (BitVec.ofInt 32 ((a - b).natAbs + c))) s
/-- ICLAMP (R91). -/
def execIclamp (o : Op) (s : State) : Host.Outcome State Fault Refusal :=
  intOp o (fun a b c => .word (BitVec.ofInt 32 (min (max a b) c))) s
/-- LEA (R91). -/
def execLea (o : Op) (s : State) : Host.Outcome State Fault Refusal :=
  laneOp o .f4 2 (fun e => .pair (e.a64 o + (e.b32 o).signExtend 64 <<< o.mbits 1 2)) s

end Sys2Proof.Machine
end

