-- ==== Sys2Proof/Machine/Loader.lean ====
section
/-! DEFINITION. The loader (R293 to R299, R303): registering and unregistering images. -/

namespace Sys2Proof.Machine

/-- Bytes of an image read in 32-byte sectors; none where one cannot be read. -/
def State.imgPieces (s : State) (part : Nat) (addr : DWord) : Nat → Nat → Option (List Byte)
  | _, 0 => some []
  | i, n + 1 =>
    match (s.hubRead part (addr + BitVec.ofNat 64 (32 * i)) 32).2, s.imgPieces part addr (i + 1) n with
    | .ok bs, some rest => some (bs ++ rest)
    | _, _ => none

/-- `n` bytes of an image from an offset. -/
def State.imgBytes (s : State) (part : Nat) (addr : DWord) (off n : Nat) : Option (List Byte) :=
  if n = 0 then some []
  else (s.imgPieces part addr (off / 32) ((off + n + 31) / 32 - off / 32)).map fun bs => (bs.drop (off % 32)).take n

/-- An entry of the section table (R294). -/
structure Sect where
  type : Nat
  opt  : Bool
  off  : Nat
  size : Nat
  rsv  : Bool
  log2 : Nat
  deriving DecidableEq, Repr, Inhabited

def sectOf (w : List Word) : Sect :=
  let g := fun i => (w.getD i 0).toNat
  { type := g 0 / 65536, opt := g 0 % 2 == 1, off := g 1, size := g 2,
    rsv := g 0 / 2 % 32768 != 0 || g 3 / 32 != 0 || (w.drop 4).any (· != 0), log2 := g 3 % 32 }

/-- Two ranges of an image share a byte. -/
def overlap (a n b m : Nat) : Bool := decide (0 < n) && decide (0 < m) && decide (a < b + m) && decide (b < a + n)

/-- Check 3 of R297 for one section; the rules of R295 for CODE count as its placement. -/
def sectOk (len tabOff tabLen : Nat) (x : Sect) : Bool :=
  !x.rsv && x.type != 0 && decide (x.log2 ≤ 16) && x.off % 2 ^ x.log2 == 0 && decide (x.off + x.size ≤ len)
    && !overlap x.off x.size 0 64 && !overlap x.off x.size tabOff tabLen
    && (x.type != 1 || (decide (6 ≤ x.log2) && x.size % 16 == 0))

def anyOverlap : List Sect → Bool
  | [] => false
  | x :: xs => xs.any (fun y => overlap x.off x.size y.off y.size) || anyOverlap xs

def countType (t : Nat) (xs : List Sect) : Nat := (xs.filter fun x => x.type == t).length

/-- A relocation entry (R299): kind and, for one in the CODE section, its site. -/
def relocOk (xs : List Sect) (w0 w1 : Word) : Bool :=
  let kind := w0.toNat / 2 ^ 24
  let idx := w0.toNat / 65536 % 256
  let site := w1.toNat
  w0.toNat % 65536 == 0 && (kind == 1 || kind == 2) && match xs[idx]? with
    | some x =>
      (x.type == 1 && site % 16 == 0 && decide (site + 16 ≤ x.size))
        || (x.type == 2 && site % 4 == 0 && decide (site + 4 ≤ x.size))
    | none => false

def relocPairs : List Word → List (Word × Word)
  | a :: b :: rest => (a, b) :: relocPairs rest
  | _ => []

/-- The head of a note (R296): where it stands, its first word, the length of its payload, and whether the record runs past
the section's end. -/
structure Note where
  at_  : Nat
  head : Word
  len  : Nat
  overrun : Bool
  deriving DecidableEq, Repr, Inhabited

def Note.type (n : Note) : Nat := n.head.toNat / 65536

/-- Check 7: an unknown note that is mandatory. -/
def note7 (h : Word) : Bool :=
  h.getLsbD 0 && !(h.toNat / 65536 == 1 || h.toNat / 65536 == 2 || h.toNat / 65536 == 3)

/-- The heads of the notes between two offsets, read in turn, or the code of check 7 or of an unreadable byte. -/
def State.noteHeads (s : State) (part : Nat) (addr : DWord) (end_ : Nat) : Nat → Nat → Except Nat (List Note)
  | 0, _ => .ok []
  | fuel + 1, off =>
    if end_ ≤ off then .ok []
    else if end_ < off + 8 then .ok [{ at_ := off, head := 0, len := 0, overrun := true }]
    else match s.imgBytes part addr off 8 with
      | none => .error 10
      | some b =>
        let n : Note := { at_ := off, head := word32 (b.take 4), len := (word32 (b.drop 4)).toNat,
                          overrun := decide (end_ < off + 8 + (word32 (b.drop 4)).toNat) }
        if note7 n.head then .error 7
        else if n.overrun then .ok [n]
        else match s.noteHeads part addr end_ fuel (off + 8 + (n.len + 7) / 8 * 8) with
          | .ok rest => .ok (n :: rest)
          | .error c => .error c

/-- Check 8 for one note: a malformed one, or a REQFEAT that FEATURES does not meet, or what RESOURCE holds; only the payloads
of these two are read. -/
def State.note8 (s : State) (part : Nat) (addr : DWord) (n : Note) : Except Nat (Option (Nat × Nat)) :=
  let bad := n.overrun || n.head.toNat / 2 % 32768 != 0 || (n.type == 1 && n.len != 4) || (n.type == 2 && n.len != 8)
  if bad then .error 8
  else if n.type ≠ 1 ∧ n.type ≠ 2 then .ok none
  else match s.imgBytes part addr (n.at_ + 8) n.len with
    | none => .error 10
    | some p =>
      let v := ofBytesLE p
      if n.type = 2 then (if 7 < v then .error 8 else .ok none)
      else if v / 32 % 8 != 0 || v / 32768 != 0 || decide (16 < v % 32) || decide (64 < v / 256 % 128) then .error 8
      else .ok (some (v % 32, v / 256 % 128))

/-- Check 8 over the notes in turn, with the values of RESOURCE; of two RESOURCE records the later counts (R296 does not say:
DESIGN CHOICE, log 70). -/
def State.notesOk (s : State) (part : Nat) (addr : DWord) : List Note → Option (Nat × Nat) → Except Nat (Option (Nat × Nat))
  | [], r => .ok r
  | n :: ns, r => match s.note8 part addr n with
    | .error c => .error c
    | .ok x => s.notesOk part addr ns (x.orElse fun _ => r)

/-- The loader's checks in ascending code order (R297): the image, or the status code. -/
def State.loadImage (s : State) (addr : DWord) (part : Nat) : Except Nat Image :=
  match s.imgBytes part addr 0 64 with
  | none => .error 10
  | some hb =>
    let h := wordsOf 16 hb
    let g := fun i => (h.getD i 0).toNat
    let ns := g 1 % 65536
    let len := g 3
    if g 0 ≠ 0x4B565050 ∨ g 1 / 65536 ≠ 1 ∨ ns = 0 ∨ 256 < ns ∨ !(h.drop 4).all (· == 0) ∨ len = 0 ∨ len % 64 ≠ 0 then
      .error 1
    else if g 2 % 32 ≠ 0 ∨ len < g 2 + 32 * ns then .error 2
    else match s.imgBytes part addr (g 2) (32 * ns) with
      | none => .error 10
      | some tb =>
        let xs := (listGen (fun i => i) ns).map fun i => sectOf (wordsOf 8 (tb.drop (32 * i)))
        if !xs.all (sectOk len (g 2) (32 * ns)) || anyOverlap xs then .error 3
        else if countType 1 xs ≠ 1 ∨ 1 < countType 3 xs ∨ 1 < countType 4 xs then .error 4
        else if xs.any fun x => decide (5 < x.type) && !x.opt then .error 5
        else
          let body := fun (t : Nat) => match xs.find? fun x => x.type == t with
            | some x => s.imgBytes part addr x.off x.size
            | none => some []
          match body 3 with
          | none => .error 10
          | some rb =>
            let rel := relocPairs (wordsOf (rb.length / 4) rb)
            if rb.length % 8 ≠ 0 ∨ !rel.all (fun r => relocOk xs r.1 r.2) then .error 6
            else
              let nsec := (xs.find? fun x => x.type == 4).getD default
              match s.noteHeads part addr (nsec.off + nsec.size) (nsec.size / 8 + 1) nsec.off with
              | .error c => .error c
              | .ok heads => match s.notesOk part addr heads none with
                | .error c => .error c
                | .ok res =>
                if 4096 ≤ s.front.images.length
                    ∨ s.front.images.any (fun e => e.2.addr == addr && e.2.part == part) then .error 9
                else match s.imgBytes part addr 0 len, xs.find? fun x => x.type == 1 with
                  | some all, some cs =>
                    let inCode := fun (r : Word × Word) => match xs[r.1.toNat / 65536 % 256]? with
                      | some x => x.type == 1
                      | none => false
                    .ok { addr, part, len, code := addr.toNat + cs.off, size := cs.size,
                          bytes := (all.drop cs.off).take cs.size, res,
                          relocs := (rel.filter inCode).map fun r => (r.1.toNat / 2 ^ 24, r.2.toNat) }
                  | _, _ => .error 10

/-- A write of LDRCMD starts the loader unless it is busy (R297). -/
def State.startLoader (s : State) (cmd : Nat) : State :=
  if !s.isReady || (s.reg 0x20010).getLsbD 31 then s
  else (s.setFront fun f => { f with loader := some (cmd, ((s.reg64 0x20000).setWidth 57).signExtend 64, (s.reg 0x20008).toNat) }).setReg 0x20010
    0x80000000

/-- IMAGE_REGISTER: LDRCMD := 1 (R297). -/
def execImageRegister (s : State) : Host.Outcome State Fault Refusal := .next (s.startLoader 1)
/-- IMAGE_UNREGISTER: LDRCMD := 2 (R297). -/
def execImageUnregister (s : State) : Host.Outcome State Fault Refusal := .next (s.startLoader 2)

/-- An image leaves: translations that no other registered image's CODE section gives are discarded (R303). -/
def State.dropImage (s : State) (n : Nat) (im : Image) : State :=
  let rest := Tab.erase s.front.images n
  let shared := rest.any fun e => e.2.bytes == im.bytes
  let keys := [0, 1, 2, 3, 4].flatMap fun t => [s.imageKey im t false, s.imageKey im t true]
  let s := s.setFront fun f => { f with images := rest }
  if shared then s else s.discardImages fun x => keys.contains x.key && x.size == im.size

/-- LOADER_DONE (R297): the loader finishes, writes the status and clears BUSY. -/
def execLoaderDone (s : State) : Host.Outcome State Fault Refusal :=
  .next (match s.front.loader with
    | none => s
    | some (cmd, addr, part) =>
      let s := s.setFront fun f => { f with loader := none }
      if cmd = 1 then
        match s.loadImage addr part with
        | .ok im => (s.setFront fun f =>
            { f with images := Tab.set f.images f.nextImg im, nextImg := f.nextImg + 1 }).setReg 0x20010 0
        | .error c => s.setReg 0x20010 (BitVec.ofNat 32 c)
      else match s.front.images.find? fun e => e.2.addr == addr && e.2.part == part with
        | some (n, im) => (s.dropImage n im).setReg 0x20010 0
        | none => s.setReg 0x20010 11)

end Sys2Proof.Machine
end

