-- ==== Sys2Proof/Machine/Shepherd.lean ====
section
/-! DEFINITION. Group 0xC_: the shepherd's instructions, and DPOP (R138 to R143, R148, R149). -/

namespace Sys2Proof.Machine

/-- A shepherd's branch (R139): the new value of D, if it writes one, and whether it goes to the target. -/
def shepBranch (o : Op) (k : Nat) (f : Env → List Word × Bool) (s : State) : Host.Outcome State Fault Refusal :=
  agentOp (fun r s =>
    let s := s.latch r o
    match s.envs r o with
    | e :: _ =>
      let (vals, taken) := f e
      let s := s.commit r o .v k [(e.n, .of vals)]
      if taken then s.updAgent r fun a => { a with pc := e.a.pc + o.imm.signExtend 64 * 16 } else s
    | [] => s.commit r o .v k []) s

/-- SBR. -/
def execSbr (o : Op) (s : State) : Host.Outcome State Fault Refusal := shepBranch o 0 (fun e => ([], e.a32 o != 0)) s
/-- SJMP. -/
def execSjmp (o : Op) (s : State) : Host.Outcome State Fault Refusal := shepBranch o 0 (fun _ => ([], true)) s
/-- SLOOP. -/
def execSloop (o : Op) (s : State) : Host.Outcome State Fault Refusal :=
  shepBranch o 1 (fun e => ([e.a32 o - 1], e.a32 o - 1 != 0)) s

/-- A shepherd's instruction that may trap, wait, or complete. -/
inductive ShepOut where
  | trap (cause : BitVec 8)
  | wait (w : Wait)
  | done (s : State) (vals : List Word)

def shepOp (o : Op) (k : Nat) (f : State → Env → ShepOut) (s : State) : Host.Outcome State Fault Refusal :=
  agentOp (fun r s =>
    let s := s.latch r o
    match s.envs r o with
    | e :: _ => match f s e with
      | .trap c => s.commit r o .v k [(e.n, .fail c)]
      | .wait w => s.waitFor r w
      | .done s vals => s.commit r o .v k [(e.n, .of vals)]
    | [] => s.commit r o .v k []) s

/-! ### SPAWN (R140) -/

/-- The core that source C of SPAWN names, if its fields are those of a core of the chiplet. Nonzero bits 31:16 name none,
which takes cause 0x02 (DEDUCED, log 67: R140 names no cause for them). -/
def spawnCore (c : Nat) (v : Word) : Option Nat :=
  let row := v.toNat / 256
  let col := v.toNat % 256
  if v = 0xFFFFFFFF then some c
  else if v.toNat / 65536 = 0 ∧ holdsCore row col then some (chipOf c * 40 + row * 7 + col)
  else none

/-- Ranges of numbers, each a first and a count, that have a number in common. -/
def rangesMeet (x y : Nat × Nat) : Bool := decide (max x.1 y.1 < min (x.1 + x.2) (y.1 + y.2))

/-- Threads of a range that a quadrant homes. -/
def homedOf (w first count q : Nat) : Nat :=
  ((List.range count).filter fun i => homeQuad w (first + i) == q).length

/-- A core holds a shepherd of the launch: the launch was placed on it, and the shepherd's state has not been released
there (R143). One that has halted is held until then (DEDUCED, log 41). -/
def State.hasShepherd (s : State) (c lid : Nat) : Bool :=
  (s.launchD lid).cores.contains c && (Tab.get? (s.core c).res lid).isSome && !(s.res c lid).gone

/-- SPAWN traps with cause 0x02. -/
def State.spawnBad (s : State) (e : Env) (a b : Nat) (target : Option Nat) : Bool :=
  let l := e.l
  let w := l.width
  let before := l.cores.flatMap fun c => (s.res c e.a.lid).spawned
  decide (l.nthreads < a + b) || a % w != 0 || (b % w != 0 && decide (a + b < l.nthreads)) || decide (4096 < b)
    || (before.any (rangesMeet (a, b)))
    || (match target with
        | some t => !s.hasShepherd t e.a.lid
        | none => true)
    || (List.range 4).any fun q => decide (1024 < homedOf w a b q)

/-- Free pen slots and places on every quadrant for a range (R15, R16). -/
def State.spawnRoom (s : State) (c w a b : Nat) : Bool :=
  let ts := (s.core c).threads.filter fun e => e.2.tid != shepTid
  let homed := fun q => (ts.filter fun e => homeQuad (s.launchD e.2.lid).width e.2.tid == q).length
  decide (ts.length + b ≤ 4096) && (List.range 4).all fun q => decide (homed q + homedOf w a b q ≤ 1024)

/-- One thread is created and filed into the fold of ENTRY; its first block acquires what SPAWN released. Where ENTRY
names no BLK, or its word cannot be fetched, it parks as at block exit (R83). -/
def State.spawnThread (s : State) (c lid tid : Nat) (entry : DWord) : State :=
  let s := s.setThread c (Thread.fresh lid tid entry)
  (s.acquireEpoch c lid tid 2).leaveBlock c lid tid (Lane.of tid (s.tick * 128) [] [] []) entry entry entry .plain

/-- A range of threads is created in one step. -/
def State.spawnRange (s : State) (c t lid a b : Nat) : State :=
  let l := s.launchD lid
  let s := s.released lid
  let s := s.updRes c lid fun r =>
    { r with spawned := if b = 0 then r.spawned else r.spawned ++ [(a, b)], spawnCnt := r.spawnCnt + b }
  (List.range b).foldl (fun s i => s.spawnThread t lid (a + i) l.entry) s

/-- SPAWN: D := the count. -/
def execSpawn (o : Op) (s : State) : Host.Outcome State Fault Refusal :=
  shepOp o 1 (fun s e =>
    let a := (e.a32 o).toNat
    let b := (e.b32 o).toNat
    let target := spawnCore e.r.core (e.c32 o)
    let t := target.getD e.r.core
    if s.spawnBad e a b target then .trap 2
    else if !s.spawnRoom t e.l.width a b then .wait .spawn
    else .done ((s.flushLoads e.r).spawnRange e.r.core t e.a.lid a b) [e.b32 o]) s

/-! ### The decision ring (R141) -/

/-- DPUSH: D := the record's sequence number; it waits while its slot holds a record with readers remaining. -/
def execDpush (o : Op) (s : State) : Host.Outcome State Fault Refusal :=
  shepOp o 1 (fun s e =>
    let n := (s.res e.r.core e.a.lid).ringNext
    let slot := n.toNat % 256
    let readers := (e.b32 o).toNat
    if readers = 0 ∨ 65535 < readers then .trap 2
    else if (Tab.getD (s.res e.r.core e.a.lid).ring slot (0, 0)).2 ≠ 0 then .wait .dpush
    else
      let s := (s.flushLoads e.r).updRes e.r.core e.a.lid fun r =>
        { r with ring := Tab.set r.ring slot (e.a32 o, readers), ringNext := n + 1,
                 ringAt := if r.ringAt.1 = s.cycles then r.ringAt else (s.cycles, n) }
      .done (s.released e.a.lid) [n]) s

/-- A sequence number that DPUSH has not given yet. -/
def ringAhead (res : Res) (n : Word) : Bool := decide ((n - res.ringNext).toNat < 2 ^ 31)

/-- A sequence number whose record was pushed in this cycle: DPOP reads it in the next (R149). -/
def ringFresh (res : Res) (now : Nat) (n : Word) : Bool :=
  res.ringAt.1 == now && res.ringNext != res.ringAt.2 && decide ((n - res.ringAt.2).toNat < (res.ringNext - res.ringAt.2).toNat)

/-- DPOP for one lane: the record, or cause 0x02 where its readers are exhausted or it will never be pushed. -/
def dpopLane (o : Op) (s : State) (e : Env) : State × LaneRes :=
  let c := e.r.core
  let lid := e.a.lid
  let n := e.a32 o
  let res := s.res c lid
  let x := Tab.getD res.ring (n.toNat % 256) (0, 0)
  if ringAhead res n ∨ 256 < (res.ringNext - n).toNat ∨ x.2 = 0 then (s, .fail 2)
  else
    let s := s.updRes c lid fun r => { r with ring := Tab.set r.ring (n.toNat % 256) (x.1, x.2 - 1) }
    (s.acquireEpoch c lid e.tid 2, .word x.1)

/-- DPOP: the drove waits, with no record read, while the shepherd runs and a lane names a record not yet pushed, or one
was pushed in this cycle. -/
def execDpop (o : Op) (s : State) : Host.Outcome State Fault Refusal :=
  agentOp (fun r s =>
    let s := s.latch r o
    let es := s.envs r o
    let res := s.res r.core (s.agentD r).lid
    let runs := !res.halted && !(s.launchD (s.agentD r).lid).cancelled
    if es.any fun e => (runs && ringAhead res (e.a32 o)) || ringFresh res s.cycles (e.a32 o) then
      s.waitFor r (.dpop (es.map fun e => e.a32 o))
    else
      let (s', rs) := foldLanes es (dpopLane o) s
      s'.commit r o .v 1 rs) s

/-! ### SWAIT, SCOND and SHALT (R142, R143) -/

/-- SWAIT: D := the number of threads this shepherd spawned that have retired. -/
def execSwait (o : Op) (s : State) : Host.Outcome State Fault Refusal :=
  shepOp o 1 (fun s e =>
    let res := s.res e.r.core e.a.lid
    let a := (e.a32 o).toNat
    if res.spawnCnt < a then .trap 2
    else if res.retired < a then .wait .swait
    else .done (s.acquireEpoch e.r.core e.a.lid shepTid 2) [BitVec.ofNat 32 res.retired]) s

/-- SCOND: the pair D := the vector of tile TN − 1, and TN rises by one, modulo 2^32 (log 87). -/
def execScond (o : Op) (s : State) : Host.Outcome State Fault Refusal :=
  shepOp o 2 (fun s e =>
    let c := e.r.core
    let lid := e.a.lid
    let res := s.res c lid
    let a := e.a32 o
    let v := Tab.getD res.votes (res.tn - 1).toNat { vec := 0, count := 0 }
    if res.tn = 0 then
      if a ≠ 0 then .trap 2 else .done (s.updRes c lid fun r => { r with tn := 1 }) [0, 0]
    else if a < v.count then .trap 2
    else if v.count < a then .wait (.scond a)
    else
      let s := s.updRes c lid fun r => { r with votes := Tab.erase r.votes (res.tn - 1).toNat, tn := res.tn + 1 }
      .done (s.acquireEpoch c lid shepTid 2) [v.vec.setWidth 32, (v.vec >>> 32).setWidth 32]) s

/-- SHALT: the shepherd ends. -/
def execShalt (o : Op) (s : State) : Host.Outcome State Fault Refusal :=
  agentOp (fun r s =>
    let es := s.envs r o
    let s := s.commit r o .v 0 (es.map fun e => (e.n, .of []))
    if es.isEmpty then s
    else
      let s := s.updAgent r fun a => { a with ended := true }
      (s.updRes r.core (s.agentD r).lid fun x => { x with halted := true }).releaseShep r.core (s.agentD r).lid) s

/-! ### The ends of waits -/

/-- SHEPHERD_WAIT_SATISFIED: a waiting SPAWN, DPUSH, SWAIT or SCOND is issued again, and completes if it can. -/
def execShepherdWaitSatisfied (core ag : Nat) (s : State) : Host.Outcome State Fault Refusal :=
  .next (s.retry { core, id := ag } fun w => match w with
    | .spawn | .dpush | .swait | .scond _ => true
    | _ => false)

/-- A DPOP of a launch need not wait: its records have been pushed, before this cycle, or none will be. -/
def State.dpopReady (s : State) (c lid : Nat) (seqs : List Word) : Bool :=
  let res := s.res c lid
  let runs := !res.halted && !(s.launchD lid).cancelled
  seqs.all fun n => !(runs && ringAhead res n) && !ringFresh res s.cycles n

/-- A waiting DPOP stands behind another whose wait is over (R227). -/
def State.dpopBehind (s : State) (r : AgentRef) (lid : Nat) : Bool :=
  (s.core r.core).agents.any fun e => e.2.lid == lid && match e.2.wait with
    | some (.dpop seqs) =>
      decide (s.issueRank { core := r.core, id := e.1 } < s.issueRank r) && s.dpopReady r.core lid seqs
    | _ => false

/-- DPOP_WAIT_SATISFIED: a waiting DPOP is issued again, and completes if it can; of several that could, the first in the order of
R227. -/
def execDpopWaitSatisfied (core ag : Nat) (s : State) : Host.Outcome State Fault Refusal :=
  let r : AgentRef := { core, id := ag }
  .next (match s.agent? r with
    | some a => match a.wait with
      | some (.dpop _) => if s.dpopBehind r a.lid then s else s.retry r (fun _ => true)
      | _ => s
    | none => s)

end Sys2Proof.Machine
end

