-- ==== Sys2Proof/Machine/Team.lean ====
section
/-! DEFINITION. The team instructions, group 0x6_ (R50, R51, R131 to R137). -/

namespace Sys2Proof.Machine

/-- The team of a lane and its number there (R131). -/
def Env.team (e : Env) : Nat := e.tid / e.l.teamW
def Env.member (e : Env) : Nat := e.tid % e.l.teamW

/-- A team instruction: each active lane's result from the active members of its team. -/
def teamOp (o : Op) (k : Nat) (f : List Env → Env → LaneRes) (s : State) : Host.Outcome State Fault Refusal :=
  match s.cur with
  | none => .fault .noIssuer
  | some r =>
    let s := s.latch r o
    let es := s.envs r o
    .next (s.commit r o .v k (es.map fun e => (e.n, f (es.filter fun x => x.team == e.team) e)))

/-! ### Shuffles (R132) -/

/-- The A value of a member, or the own one. -/
def shflFrom (o : Op) (es : List Env) (e : Env) (src : Option Nat) : LaneRes :=
  match src with
  | some m => match es.find? fun x => x.member == m with
    | some x => .word (x.a32 o)
    | none => .word (e.a32 o)
  | none => .word (e.a32 o)

/-- SHFL. -/
def execShfl (o : Op) (s : State) : Host.Outcome State Fault Refusal :=
  teamOp o 1 (fun es e => shflFrom o es e (some (e.b32 o).toNat)) s
/-- SHFLU. -/
def execShflu (o : Op) (s : State) : Host.Outcome State Fault Refusal :=
  teamOp o 1 (fun es e =>
    shflFrom o es e (if (e.b32 o).toNat ≤ e.member then some (e.member - (e.b32 o).toNat) else none)) s
/-- SHFLD. -/
def execShfld (o : Op) (s : State) : Host.Outcome State Fault Refusal :=
  teamOp o 1 (fun es e => shflFrom o es e (some (e.member + (e.b32 o).toNat))) s
/-- SHFLX. -/
def execShflx (o : Op) (s : State) : Host.Outcome State Fault Refusal :=
  teamOp o 1 (fun es e => shflFrom o es e (some (e.member ^^^ (e.b32 o).toNat))) s

/-! ### Votes and masks (R133) -/

/-- Registers of a member mask. -/
def Launch.maskRegs (l : Launch) : Nat := if l.compat then 1 else l.width / 32

/-- The mask of the members for which `f` holds. -/
def memberMask (l : Launch) (es : List Env) (f : Env → Bool) : List Word :=
  let v := es.foldl (fun (v : Nat) e => if f e then v ||| 2 ^ e.member else v) 0
  listGen (fun i => BitVec.ofNat 32 (v / 2 ^ (32 * i))) l.maskRegs

/-- Registers of the mask of the agent granted issue. -/
def State.curMask (s : State) : Nat :=
  match s.cur with
  | some r => (s.launchD (s.agentD r).lid).maskRegs
  | none => 1

/-- VALL. -/
def execVall (o : Op) (s : State) : Host.Outcome State Fault Refusal :=
  teamOp o 1 (fun es _ => .bool (es.all fun x => x.a32 o != 0)) s
/-- VANY. -/
def execVany (o : Op) (s : State) : Host.Outcome State Fault Refusal :=
  teamOp o 1 (fun es _ => .bool (es.any fun x => x.a32 o != 0)) s
/-- BALLOT. -/
def execBallot (o : Op) (s : State) : Host.Outcome State Fault Refusal :=
  teamOp o s.curMask (fun es e => .of (memberMask e.l es fun x => x.a32 o != 0)) s
/-- MATCH. -/
def execMatchT (o : Op) (s : State) : Host.Outcome State Fault Refusal :=
  teamOp o s.curMask (fun es e => .of (memberMask e.l es fun x => x.a32 o == e.a32 o)) s
/-- ELECT. -/
def execElect (o : Op) (s : State) : Host.Outcome State Fault Refusal :=
  teamOp o 1 (fun es e => .bool (es.all fun x => decide (e.member ≤ x.member))) s

/-! ### Reductions (R50, R51, R134) -/

/-- Op of R50 with its flags. -/
def redOp (op rm : Nat) (x y : Word) : Word × Word :=
  match op with
  | 0 => (x + y, 0)
  | 1 => (if y.toInt < x.toInt then y else x, 0)
  | 2 => (if x.toInt < y.toInt then y else x, 0)
  | 3 => (if y.toNat < x.toNat then y else x, 0)
  | 4 => (if x.toNat < y.toNat then y else x, 0)
  | 5 => (x &&& y, 0)
  | 6 => (x ||| y, 0)
  | 7 => (x ^^^ y, 0)
  | 8 => arith32 rm false (addVal rm (f32 x) (f32 y))
  | 9 => (fpick false x y, 0)
  | _ => (fpick true x y, 0)

/-- Combine of R50: none is EMPTY. -/
def redCombine (op rm : Nat) (x y : Option Word × Word) : Option Word × Word :=
  match x.1, y.1 with
  | none, _ => (y.1, x.2 ||| y.2)
  | _, none => (x.1, x.2 ||| y.2)
  | some a, some b =>
    let (v, fl) := redOp op rm a b
    (some v, x.2 ||| y.2 ||| fl)

/-- One level of the tree of R50. -/
def redLevel (op rm : Nat) : List (Option Word × Word) → List (Option Word × Word)
  | x :: y :: rest => redCombine op rm x y :: redLevel op rm rest
  | xs => xs

/-- The node of height h over 2^h members. -/
def redTree (op rm : Nat) : Nat → List (Option Word × Word) → Option Word × Word
  | 0, xs => xs.headD (none, 0)
  | h + 1, xs => redTree op rm h (redLevel op rm xs)

/-- The members' values by number, EMPTY where inactive. -/
def teamVals (o : Op) (w : Nat) (es : List Env) : List (Option Word × Word) :=
  (List.range w).map fun m => ((es.find? fun x => x.member == m).map (·.a32 o), 0)

/-- The combination of the first n members: the nodes of the powers of two of n, from the largest down (R51). -/
def redPrefix (op rm : Nat) (xs : List (Option Word × Word)) : Nat → Nat → Nat → Option Word × Word → Option Word × Word
  | 0, _, _, acc => acc
  | h + 1, start, n, acc =>
    if 2 ^ h ≤ n then
      redPrefix op rm xs h (start + 2 ^ h) (n - 2 ^ h) (redCombine op rm acc (redTree op rm h (xs.drop start)))
    else redPrefix op rm xs h start n acc

/-- The identity of an operation (R134). -/
def redIdentity (op : Nat) : Word :=
  match op with
  | 1 => 0x7FFFFFFF | 2 => 0x80000000 | 3 => 0xFFFFFFFF | 5 => 0xFFFFFFFF | 8 => 0x80000000 | 9 => 0x7F800000
  | 10 => 0xFF800000 | _ => 0

/-- The combining operation of a word (R77). -/
def redCode (o : Op) : Nat := o.mbits 0 4

/-- TRED (R134). -/
def execTred (o : Op) (s : State) : Host.Outcome State Fault Refusal :=
  teamOp o 1 (fun es e =>
    let (v, fl) := redTree (redCode o) (rmOf o) (Nat.log2 e.l.teamW) (teamVals o e.l.teamW es)
    .flagged (v.getD 0, fl)) s

/-- TSCAN (R134): flags of any member's prefix are every member's. -/
def execTscan (o : Op) (s : State) : Host.Outcome State Fault Refusal :=
  teamOp o 1 (fun es e =>
    let xs := teamVals o e.l.teamW es
    let pre := fun (e : Env) =>
      redPrefix (redCode o) (rmOf o) xs 8 0 (if o.mbit 4 then e.member else e.member + 1) (none, 0)
    let fl := es.foldl (fun w x => w ||| (pre x).2) 0
    .flagged ((pre e).1.getD (redIdentity (redCode o)), fl)) s

/-! ### TVOTE (R136, R137) -/

/-- A waiting SCOND of the core's shepherd has what it waits for: it has consumed its tile (R149). -/
def State.scondTook (s : State) (c lid : Nat) (v : Vote) : Bool :=
  (s.core c).agents.any fun e => e.2.shep && e.2.lid == lid && e.2.wait == some (.scond v.count)

/-- One team's vote: the bit and the count of the captured tile, or a cause for its members. -/
def voteTeam (o : Op) (r : AgentRef) (a : Agent) (s : State) (es : List Env) : State × List (Nat × LaneRes) :=
  let lead := es.foldl (fun (b : Option Env) e => match b with
    | some x => if e.member < x.member then some e else b
    | none => some e) none
  let res := s.res r.core a.lid
  let v := Tab.getD res.votes a.tn.toNat { vec := 0, count := 0 }
  let held := a.tn = res.tn ∨ (res.tn ≠ 0 ∧ a.tn = res.tn - 1 ∧ !s.scondTook r.core a.lid v)
  match lead with
  | none => (s, [])
  | some e =>
    let bit := (e.a32 o).toNat
    if !held ∨ 64 ≤ bit then (s, es.map fun e => (e.n, .fail 2))
    else
      let vote := es.any fun x => x.b32 o != 0
      let v := { vec := if vote then v.vec ||| (1#64 <<< bit) else v.vec, count := v.count + 1 }
      let s := s.updRes r.core a.lid fun x => { x with votes := Tab.set x.votes a.tn.toNat v }
      (es.foldl (fun s _ => s.released a.lid) s, es.map fun e => (e.n, .of []))

/-- TVOTE (R137): outside a team block every thread of the drove parks with cause 0x01. Every active member reads its sources, the
A of which only the lowest member's counts, so that an A of CYCLELO latches the counter for each of them (R21 and R137 leave that
open; DESIGN CHOICE, log 84). -/
def execTvote (o : Op) (s : State) : Host.Outcome State Fault Refusal :=
  agentOp (fun r s =>
    let s := s.latch r o
    let a := s.agentD r
    if !a.team then s.trapWord r 1 0
    else
      let es := s.envs r o
      let s := if es.isEmpty then s else s.flushLoads r
      let teams := (es.map Env.team).eraseDups
      let (s, rs) := teams.foldl (fun (x : State × List (Nat × LaneRes)) t =>
        let (s, rs) := voteTeam o r a x.1 (es.filter fun e => e.team == t)
        (s, x.2 ++ rs)) (s, [])
      s.commit r o .v 0 rs) s

end Sys2Proof.Machine
end

