-- ==== Sys2Proof/Machine/Work.lean ====
section
/-! DEFINITION. Group 0xD_: work instructions (R144 to R148, R271, R286 to R288). -/

namespace Sys2Proof.Machine

/-- An instruction waits while a frame that one of its lanes addresses changes its bias (R326). -/
def State.biasAny (s : State) (o : Op) (es : List Env) : Bool := es.any fun e => s.biasHeld e (e.a64 o)

/-- A read of a lane on path V, for an instruction that is not a load: of a record through its core's L1, of a counter at
sys scope past it. -/
def workAsk (past : Bool) (n : Nat) (o : Op) (s : State) (e : Env) : State × Found :=
  let a := e.a64 o
  if past then match s.xlate (some e.r.core) 0 e.l.part a Acc.read with
    | (s, .ok l) => (s.l1Drop e.r.core fun k => k / 32 == l.key / 32).askLane e a n
    | (s, .error k) => (s, .fault k)
  else s.askLane e a n

/-- The race check of such a read (R237, R252): whether it parks. -/
def State.workRaced (s : State) (e : Env) (a : DWord) (n : Nat) (acq : Bool) : State × Bool :=
  if !(s.launchD e.a.lid).race then (s, false)
  else match s.xlate (some e.r.core) 0 e.l.part a Acc.read with
    | (s, .ok l) => s.raceAt e a l n false false acq 5
    | (s, .error _) => (s, false)

/-- The bytes that such a read brings a lane, or its trap. -/
def State.readV (s : State) (o : Op) (e : Env) (n : Nat) (past : Bool) : State × Except LaneRes (List Byte) :=
  let a := e.a64 o
  let bad := fun (c : BitVec 8) => Except.error { LaneRes.of [] with trap := some (c, a, Acc.read.code) }
  if a.toNat % n ≠ 0 then (s, bad 4)
  else match s.found e (fun s => workAsk past n o s e) with
    | (s, .fault c) => (s, bad c)
    | (s, .away _) => (s, bad 6)
    | (s, .data bs) => (s, .ok bs)

/-! ### ENQ (R145, R271) -/

/-- The status that ENQ gives before it copies: 4, 3, 2 or 1, in this order, or the queue's descriptor. -/
def State.enqStatus (s : State) (l : Launch) (q : Nat) : Except Word (List Word) :=
  match s.qdesc q with
  | none => .error 4
  | some d =>
    let open_ := d.getD 3 0 == 0xFFFFFFFF || d.getD 3 0 == l.recW 11
    if !qDevq d || qPart d != l.part || (qPriv d && !l.priv) || !open_ then .error 3
    else if qStopped d then .error 2
    else if (qWr d - qRd d).toNat = qSize d then .error 1
    else .ok d

/-- ENQ hands a record that is its queue's head to the slot together with the signal (R281). -/
def State.handOver (s : State) (q : Nat) (i : DWord) (ws : List Word) : State :=
  match s.slotOf q with
  | some (n, sl) => s.setSlots (Tab.set s.front.slots n { sl with given := some (i, ws) })
  | none => s

/-- ENQ for one lane: the record goes into the ring and the write index advances, after every access of the core. The
record is read before the queue is looked at, so that a fault of the read comes before the statuses: R145 does not say
(DESIGN CHOICE, log 18). -/
def enqLane (o : Op) (s : State) (e : Env) : State × LaneRes :=
  let q := (e.b32 o).toNat
  match s.readV o e 64 false with
  | (s, .error r) => (s, r)
  | (s, .ok bs) => match s.workRaced e (e.a64 o) 64 false with
  | (s, true) => (s, { LaneRes.of [] with trap := some (0x0F, e.a64 o, Acc.read.code) })
  | (s, false) => match s.enqStatus e.l q with
    | .error st => (s, .word st)
    | .ok d =>
      let s := (s.flushLoads e.r).releaseNow e.r.core e.a.lid 5
      match s.hubWrite (qPart d) (qSlotAddr d (qWr d)) bs with
      | (s, .error _) => (s, .word 5)
      | (s, .ok _) =>
        let s := s.signalStore q d (qWr d + 1)
        (if qRd d = qWr d then s.handOver q (qRd d) (wordsOf 16 bs) else s, .word 0)

/-- An instruction that releases at sys scope waits for the stores of its core before it (R242, R250). -/
def sysHeld (s : State) (e : Env) : Option (List (Nat × Nat)) :=
  allStores (s.storesBefore e.r || (s.core e.r.core).settledAt == some s.cycles)

/-- ENQ: D := the status. -/
def execEnq (o : Op) (s : State) : Host.Outcome State Fault Refusal :=
  heldOp o sysHeld (fetchOp o 0 64 (fun e => (e.a64 o).toNat % 64 == 0) (workAsk false 64 o) fun r s =>
    let es := s.envs r o
    if s.biasAny o es then s.waitFor r .bias
    else
      let (s', rs) := foldLanes es (enqLane o) s
      s'.commit r o .v 1 rs) s

/-! ### REC (R146, R288) -/

/-- What REC does for one lane: the node is missing, it must wait, or its record is in the batch. -/
inductive RecOut where
  | missing (s : State)
  | full (s : State)
  | done (s : State)

/-- A batch is open, or one can open: the buffer of the next batch is free. -/
def Node.takes (n : Node) (nbuf : Nat) : Bool :=
  !n.open_.isEmpty || !(n.busy.any fun b => b % nbuf == n.next % nbuf)

/-- A record joins a node's open batch, which closes when it holds a full team; one whose timer has lapsed has closed (R288,
R292). -/
def State.gatherRec (s : State) (part : Nat) (graph : Word) (n : Nat) (x : Word × Word) : RecOut :=
  match s.nodeEntry part graph n with
  | (s, none) => .missing s
  | (s, some e) =>
    let key := graph.toNat * 65536 + n
    let nd : Node := Tab.getD s.front.nodes key
      { open_ := [], since := 0, next := 0, closed := [], busy := [], part, width := 32, head := none, dropped := [] }
    let nd := if nd.lapsed s.wgTimer.toNat s.nanos then nd.close else nd
    if !nd.takes (nodeNbuf e) then .full s
    else
      let (s, nd) := if nd.open_.isEmpty then match s.nodeWidth part e with
          | (s, width) => (s, { nd with since := s.nanos, width, part })
        else (s, nd)
      let nd := { nd with open_ := nd.open_ ++ [x] }
      let nd := if nd.width ≤ nd.open_.length then nd.close else nd
      .done (s.setFront fun f => { f with nodes := Tab.set f.nodes key nd })

/-- The lanes of a REC in ascending order, from the first that has not delivered: the state, the lanes that trap, those
that have delivered, and whether one must wait. -/
def recLanes (o : Op) : List Env → State → List Nat → List Nat → State × List Nat × List Nat × Bool
  | [], s, bad, ok => (s, bad, ok, false)
  | e :: es, s, bad, ok =>
    match s.gatherRec e.l.part (e.l.recW 9) (e.a32 o).toNat (e.b32 o, e.c32 o) with
    | .missing s => recLanes o es s (bad ++ [e.n]) ok
    | .full s => (s, bad, ok, true)
    | .done s => recLanes o es s bad (ok ++ [e.n])

/-- REC: the lanes' records join the node's batch in ascending order; while no buffer is free the drove waits, and goes
on from the lane that could not deliver. -/
def execRecN (o : Op) (s : State) : Host.Outcome State Fault Refusal :=
  agentOp (fun r s =>
    let s := s.latch r o
    let a := s.agentD r
    let es := s.envs r o
    let (s, bad, ok, full) := recLanes o (es.filter fun e => (Tab.get? a.served e.n).isNone) s [] []
    if full then
      let s := s.updAgent r fun a => { a with served := ok.foldl (fun t n => Tab.set t n 0) a.served }
      (s.waitFor r .node).trapLanes r (bad.map fun n => (n, 2, 0, 0))
    else s.commit r o .v 0 (es.map fun e => (e.n, if bad.contains e.n then .fail 2 else .of []))) s

/-! ### Counters -/

/-- CNTADD: a release at sys scope. -/
def execCntadd (o : Op) (s : State) : Host.Outcome State Fault Refusal :=
  heldOp o (atomHeld 8 5 true fun e => e.a64 o) (memOp o 0 (fun e => some (e.a64 o)) fun s e =>
    s.atomV e (e.a64 o) 8 0 ((e.b32 o).setWidth 64) 0 5 false true false []) s

/-- Where the pair that a lane of CNTWAIT has seen is kept while other lanes wait. -/
def servedPair (t : Tab Word) (n : Nat) : Option DWord :=
  match Tab.get? t n with
  | some lo => some (pairOf lo (Tab.getD t (256 + n) 0))
  | none => none

/-- CNTWAIT for one lane: the pair seen once the counter has reached B, and nothing before. The read that completes is the one
that race detection checks. -/
def cntLane (o : Op) (s : State) (e : Env) : State × LaneRes :=
  match s.readV o e 8 true with
  | (s, .error x) => (s, x)
  | (s, .ok bs) =>
    if e.b64 o ≤ word64 bs then match s.workRaced e (e.a64 o) 8 true with
      | (s, true) => (s, { LaneRes.of [] with trap := some (0x0F, e.a64 o, Acc.read.code) })
      | (s, false) => (s, .pair (word64 bs))
    else (s, .of [])

/-- A lane of CNTWAIT that has not had its result comes after its core's stores to the counter (R245). -/
def cntHeld (o : Op) (s : State) (e : Env) : Option (List (Nat × Nat)) :=
  if (servedPair e.a.served e.n).isSome then none else loadHeld 8 5 (fun e => e.a64 o) s e

/-- CNTWAIT: a lane whose counter has reached B has its result, the value seen; while others wait, so does the drove. Once its
launch has been cancelled the wait is over: the threads are discarded there (R147, R291, R352; DEDUCED, log 81). -/
def execCntwait (o : Op) (s : State) : Host.Outcome State Fault Refusal :=
  heldOp o (cntHeld o) (fetchOp o 0 8 (fun e => (e.a64 o).toNat % 8 == 0 && (servedPair e.a.served e.n).isNone) (workAsk true 8 o) fun r s =>
    let a := s.agentD r
    let es := s.envs r o
    if s.biasAny o es then s.waitFor r .bias
    else
      let (s, rs) := foldLanes (es.filter fun e => (servedPair a.served e.n).isNone) (cntLane o) s
      let old := es.filterMap fun e => (servedPair a.served e.n).map fun v => (e.n, LaneRes.pair v)
      let bad := rs.filter fun x => x.2.trap.isSome
      let now := old ++ rs.filter fun x => x.2.trap.isNone && !x.2.vals.isEmpty
      if rs.all fun x => x.2.trap.isSome || !x.2.vals.isEmpty then
        let s := (es.filter fun e => now.any fun x => x.1 == e.n).foldl (fun s e => s.acquire r.core a.lid e.tid 5) s
        s.commit r o .v 2 (bad ++ now)
      else
        let keep := fun (t : Tab Word) (x : Nat × LaneRes) =>
          Tab.set (Tab.set t x.1 (x.2.vals.getD 0 0)) (256 + x.1) (x.2.vals.getD 1 0)
        let s := s.updAgent r fun a => { a with served := now.foldl keep a.served, got := [] }
        if (s.launchD a.lid).cancelled then s.dropLanes r (a.lanes.map (·.1))
        else (s.waitFor r .cntwait).trapLanes r (bad.filterMap fun x => x.2.trap.map fun t => (x.1, t))) s

/-- CNTWAIT_SATISFIED: a waiting CNTWAIT is issued again, and completes if it can. -/
def execCntwaitSatisfied (core ag : Nat) (s : State) : Host.Outcome State Fault Refusal :=
  .next (s.retry { core, id := ag } (· == .cntwait))

/-! ### CANCEL (R147, R286) -/

/-- A launch is cancelled wherever it stands: one at the head of its queue completes at once with outcome 1, one set
aside does when it reaches the head, a running one is cancelled on its cores. One that was to
fall back then completes with outcome 1 (R292). -/
def State.cancelOne (s : State) (lid : Nat) : State :=
  let l := s.launchD lid
  let aside := s.front.requeue.any fun e => e.2.contains lid
  match l.st with
  | .running =>
    let ovf := l.num.getLsbD 6 || l.cores.any fun c => (s.res c lid).num.getLsbD 6
    let rebinds := (l.recW 0).getLsbD 0 && !l.again && l.node.isNone
    let s := if rebinds then s.updLaunch lid fun l =>
        { l with stop := l.stop.filter fun st => st.cause != 0x0C && !ovf } else s
    s.cancelLaunch lid
  | .finished _ => s
  | _ => if aside then s.updLaunch lid fun l => { l with cancelled := true } else s.completeLaunch lid 1 0 0 0

/-- The record of an index of a queue: as an ENQ handed it to the queue's slot (R281), or the ring's. -/
def State.recordAt (s : State) (q : Nat) (d : List Word) (i : DWord) : State × Option (List Word) :=
  let ring := fun (_ : Unit) => match s.hubRead (qPart d) (qSlotAddr d i) 64 with
    | (s, .ok bs) => (s, some (wordsOf 16 bs))
    | (s, .error _) => (s, none)
  match s.slotOf q with
  | some (_, { given := some (j, ws), .. }) => if j = i then (s, some ws) else ring ()
  | _ => ring ()

/-- The unread records of a queue that carry a LAUNCHID and a JOB, by index, beside those found before. -/
def State.unreadNamed (id job : Word) (x : State × List (Nat × Nat)) (q : Nat) : State × List (Nat × Nat) :=
  match x.1.qdesc q with
  | none => x
  | some d => (List.range (min (qSize d) (qWr d - qRd d).toNat)).foldl (fun (x : State × List (Nat × Nat)) k =>
    let i := qRd d + BitVec.ofNat 64 k
    match x.1.recordAt q d i with
    | (s, some w) => (s, if w.getD 8 0 = id ∧ w.getD 11 0 = job then x.2 ++ [(q, i.toNat)] else x.2)
    | (s, none) => (s, x.2)) x

/-- The closed batches of work graphs that carry a LAUNCHID and a JOB, by node and number (R287, R289). -/
def State.batchesNamed (s : State) (id job : Word) : State × List (Nat × Nat) :=
  s.front.nodes.foldl (fun (y : State × List (Nat × Nat)) x =>
    match y.1.nodeEntry x.2.part (BitVec.ofNat 32 (x.1 / 65536)) (x.1 % 65536), y.1.workObj (x.1 / 65536) with
    | (s, some e), some g =>
      (s, if objOwner g = job then
        y.2 ++ (x.2.closed.filter fun b => e.getD 7 0 + BitVec.ofNat 32 b.1 == id).map fun b => (x.1, b.1)
      else y.2)
    | (s, _), _ => (s, y.2)) (s, [])

/-- CANCEL.launch: launches of the caller's job, running or queued, whose LAUNCHID is the identifier. -/
def State.cancelById (s : State) (id job : Word) : State × Word :=
  let live := (s.launches.filter fun e => e.2.recW 8 == id && e.2.recW 11 == job).map (·.1)
  let (s, unread) := (List.range (s.reg 8).toNat).foldl (State.unreadNamed id job) (s, [])
  let (s, closed) := s.batchesNamed id job
  if live.isEmpty ∧ unread.isEmpty ∧ closed.isEmpty then (s, 1)
  else
    let s := s.setFront fun f =>
      { f with
          cancelled := f.cancelled ++ unread.filter fun x => !f.cancelled.contains x
          nodes := f.nodes.mapVals fun k (n : Node) =>
            ({ n with dropped := n.dropped ++ (closed.filter (·.1 == k)).map (·.2) } : Node) }
    (live.foldl State.cancelOne s, 0)

/-- CANCEL of a graph, a phase or a job: CANCELLED is set, every running launch of the object is cancelled, and a
graph's open batches are discarded. Where the entry cannot be written, D := 1 and nothing is cancelled (R388). -/
def State.cancelObject (s : State) (level : Nat) (id job : Word) : State × Word :=
  match s.objOk level id job with
  | none => (s, 1)
  | some w => match s.privWrite ((s.reg64 0x10).toNat + 32 * id.toNat) (bytes32 (w.getD 0 0 ||| 0x100#32)) with
  | none => (s, 1)
  | some s =>
    let of := (s.launches.filter fun e => e.2.recW (8 + level) == id && match e.2.st with
      | .finished _ => false
      | _ => true).map (·.1)
    let s := of.foldl State.cancelOne s
    let s := if level = 1 then
        s.setFront fun f => { f with nodes := f.nodes.mapVals fun k n => if k / 65536 = id.toNat then { n with open_ := [] } else n }
      else s
    (s, 0)

/-- CANCEL: D := 0, or 1 where no such object of the caller's job exists. -/
def execCancel (o : Op) (s : State) : Host.Outcome State Fault Refusal :=
  seqOp o 1 (fun s e =>
    let level := o.mbits 0 2
    let (s, v) := if level = 0 then s.cancelById (e.a32 o) (e.l.recW 11) else s.cancelObject level (e.a32 o) (e.l.recW 11)
    (s, .word v)) s

end Sys2Proof.Machine
end

