-- ==== Sys2Proof/Machine/Dispatch.lean ====
section
/-! DEFINITION. One arm for each constructor of `Instr`: the meaning it calls. -/

namespace Sys2Proof.Machine

/-- What an instruction or step does. -/
def exec (i : Instr) (s : State) : Host.Outcome State Fault Refusal :=
  match i with
  | .nop o => Sys2Proof.Machine.execNop o s
  | .blk x1 x2 x3 x4 => Sys2Proof.Machine.execBlk x1 x2 x3 x4 s
  | .br o => Sys2Proof.Machine.execBr o s
  | .cbr o => Sys2Proof.Machine.execCbr o s
  | .ibr o => Sys2Proof.Machine.execIbr o s
  | .call o => Sys2Proof.Machine.execCall o s
  | .icall o => Sys2Proof.Machine.execIcall o s
  | .ret o => Sys2Proof.Machine.execRet o s
  | .exit o => Sys2Proof.Machine.execExit o s
  | .join o => Sys2Proof.Machine.execJoin o s
  | .yield o => Sys2Proof.Machine.execYield o s
  | .sleep o => Sys2Proof.Machine.execSleep o s
  | .bkpt o => Sys2Proof.Machine.execBkpt o s
  | .probe o => Sys2Proof.Machine.execProbe o s
  | .iadd o => Sys2Proof.Machine.execIadd o s
  | .isub o => Sys2Proof.Machine.execIsub o s
  | .imul o => Sys2Proof.Machine.execImul o s
  | .imulh o => Sys2Proof.Machine.execImulh o s
  | .imad o => Sys2Proof.Machine.execImad o s
  | .imadw o => Sys2Proof.Machine.execImadw o s
  | .imin o => Sys2Proof.Machine.execImin o s
  | .imax o => Sys2Proof.Machine.execImax o s
  | .iabs o => Sys2Proof.Machine.execIabs o s
  | .iaddc o => Sys2Proof.Machine.execIaddc o s
  | .isubb o => Sys2Proof.Machine.execIsubb o s
  | .idiv o => Sys2Proof.Machine.execIdiv o s
  | .irem o => Sys2Proof.Machine.execIrem o s
  | .isad o => Sys2Proof.Machine.execIsad o s
  | .iclamp o => Sys2Proof.Machine.execIclamp o s
  | .lea o => Sys2Proof.Machine.execLea o s
  | .and o => Sys2Proof.Machine.execAnd o s
  | .or o => Sys2Proof.Machine.execOr o s
  | .xor o => Sys2Proof.Machine.execXor o s
  | .andn o => Sys2Proof.Machine.execAndn o s
  | .shl o => Sys2Proof.Machine.execShl o s
  | .shr o => Sys2Proof.Machine.execShr o s
  | .shra o => Sys2Proof.Machine.execShra o s
  | .rotl o => Sys2Proof.Machine.execRotl o s
  | .bfx o => Sys2Proof.Machine.execBfx o s
  | .bfi o => Sys2Proof.Machine.execBfi o s
  | .popc o => Sys2Proof.Machine.execPopc o s
  | .clz o => Sys2Proof.Machine.execClz o s
  | .brev o => Sys2Proof.Machine.execBrev o s
  | .lut3 o => Sys2Proof.Machine.execLut3 o s
  | .bperm o => Sys2Proof.Machine.execBperm o s
  | .fns o => Sys2Proof.Machine.execFns o s
  | .icmp o => Sys2Proof.Machine.execIcmp o s
  | .fcmp o => Sys2Proof.Machine.execFcmp o s
  | .sel o => Sys2Proof.Machine.execSel o s
  | .mov o => Sys2Proof.Machine.execMov o s
  | .movi o => Sys2Proof.Machine.execMovi o s
  | .mov64 o => Sys2Proof.Machine.execMov64 o s
  | .pset o => Sys2Proof.Machine.execPset o s
  | .pmov o => Sys2Proof.Machine.execPmov o s
  | .sread o => Sys2Proof.Machine.execSread o s
  | .add64 o => Sys2Proof.Machine.execAdd64 o s
  | .sub64 o => Sys2Proof.Machine.execSub64 o s
  | .shl64 o => Sys2Proof.Machine.execShl64 o s
  | .cmp64 o => Sys2Proof.Machine.execCmp64 o s
  | .fadd o => Sys2Proof.Machine.execFadd o s
  | .fsub o => Sys2Proof.Machine.execFsub o s
  | .fmul o => Sys2Proof.Machine.execFmul o s
  | .ffma o => Sys2Proof.Machine.execFfma o s
  | .fmin o => Sys2Proof.Machine.execFmin o s
  | .fmax o => Sys2Proof.Machine.execFmax o s
  | .frcp o => Sys2Proof.Machine.execFrcp o s
  | .frsq o => Sys2Proof.Machine.execFrsq o s
  | .fsqrt o => Sys2Proof.Machine.execFsqrt o s
  | .fex2 o => Sys2Proof.Machine.execFex2 o s
  | .flg2 o => Sys2Proof.Machine.execFlg2 o s
  | .fsin o => Sys2Proof.Machine.execFsin o s
  | .fcos o => Sys2Proof.Machine.execFcos o s
  | .frnd o => Sys2Proof.Machine.execFrnd o s
  | .fclass o => Sys2Proof.Machine.execFclass o s
  | .fscale o => Sys2Proof.Machine.execFscale o s
  | .cvt o => Sys2Proof.Machine.execCvt o s
  | .cvtb o => Sys2Proof.Machine.execCvtb o s
  | .cvtd o => Sys2Proof.Machine.execCvtd o s
  | .pkadd o => Sys2Proof.Machine.execPkadd o s
  | .pkmul o => Sys2Proof.Machine.execPkmul o s
  | .pkfma o => Sys2Proof.Machine.execPkfma o s
  | .pkmin o => Sys2Proof.Machine.execPkmin o s
  | .pkmax o => Sys2Proof.Machine.execPkmax o s
  | .dot4 o => Sys2Proof.Machine.execDot4 o s
  | .dot8 o => Sys2Proof.Machine.execDot8 o s
  | .lnsm o => Sys2Proof.Machine.execLnsm o s
  | .lnsa o => Sys2Proof.Machine.execLnsa o s
  | .tdot o => Sys2Proof.Machine.execTdot o s
  | .rngk o => Sys2Proof.Machine.execRngk o s
  | .fdiv o => Sys2Proof.Machine.execFdiv o s
  | .shfl o => Sys2Proof.Machine.execShfl o s
  | .shflu o => Sys2Proof.Machine.execShflu o s
  | .shfld o => Sys2Proof.Machine.execShfld o s
  | .shflx o => Sys2Proof.Machine.execShflx o s
  | .vall o => Sys2Proof.Machine.execVall o s
  | .vany o => Sys2Proof.Machine.execVany o s
  | .ballot o => Sys2Proof.Machine.execBallot o s
  | .tred o => Sys2Proof.Machine.execTred o s
  | .tscan o => Sys2Proof.Machine.execTscan o s
  | .matchT o => Sys2Proof.Machine.execMatchT o s
  | .elect o => Sys2Proof.Machine.execElect o s
  | .tvote o => Sys2Proof.Machine.execTvote o s
  | .ld o => Sys2Proof.Machine.execLd o s
  | .st o => Sys2Proof.Machine.execSt o s
  | .lds o => Sys2Proof.Machine.execLds o s
  | .sts o => Sys2Proof.Machine.execSts o s
  | .ldsx o => Sys2Proof.Machine.execLdsx o s
  | .stsx o => Sys2Proof.Machine.execStsx o s
  | .ldk o => Sys2Proof.Machine.execLdk o s
  | .pref o => Sys2Proof.Machine.execPref o s
  | .spop o => Sys2Proof.Machine.execSpop o s
  | .ldgs o => Sys2Proof.Machine.execLdgs o s
  | .atom o => Sys2Proof.Machine.execAtom o s
  | .atomc o => Sys2Proof.Machine.execAtomc o s
  | .red o => Sys2Proof.Machine.execRed o s
  | .atoms o => Sys2Proof.Machine.execAtoms o s
  | .atomsc o => Sys2Proof.Machine.execAtomsc o s
  | .reds o => Sys2Proof.Machine.execReds o s
  | .coll o => Sys2Proof.Machine.execColl o s
  | .fence o => Sys2Proof.Machine.execFence o s
  | .xfence o => Sys2Proof.Machine.execXfence o s
  | .binit o => Sys2Proof.Machine.execBinit o s
  | .barv o => Sys2Proof.Machine.execBarv o s
  | .bwait o => Sys2Proof.Machine.execBwait o s
  | .btest o => Sys2Proof.Machine.execBtest o s
  | .bexp o => Sys2Proof.Machine.execBexp o s
  | .chinit o => Sys2Proof.Machine.execChinit o s
  | .chpush o => Sys2Proof.Machine.execChpush o s
  | .chpop o => Sys2Proof.Machine.execChpop o s
  | .chtry o => Sys2Proof.Machine.execChtry o s
  | .chclose o => Sys2Proof.Machine.execChclose o s
  | .cpy o => Sys2Proof.Machine.execCpy o s
  | .cpyt o => Sys2Proof.Machine.execCpyt o s
  | .cpysc o => Sys2Proof.Machine.execCpysc o s
  | .cpymx o => Sys2Proof.Machine.execCpymx o s
  | .strm o => Sys2Proof.Machine.execStrm o s
  | .strmx o => Sys2Proof.Machine.execStrmx o s
  | .cpyr o => Sys2Proof.Machine.execCpyr o s
  | .mcfg o => Sys2Proof.Machine.execMcfg o s
  | .mma o => Sys2Proof.Machine.execMma o s
  | .mmag o => Sys2Proof.Machine.execMmag o s
  | .mmas o => Sys2Proof.Machine.execMmas o s
  | .mzero o => Sys2Proof.Machine.execMzero o s
  | .mload o => Sys2Proof.Machine.execMload o s
  | .mloadSc o => Sys2Proof.Machine.execMloadSc o s
  | .mstore o => Sys2Proof.Machine.execMstore o s
  | .mstat o => Sys2Proof.Machine.execMstat o s
  | .mstatSet o => Sys2Proof.Machine.execMstatSet o s
  | .mstatSync o => Sys2Proof.Machine.execMstatSync o s
  | .mstatList o => Sys2Proof.Machine.execMstatList o s
  | .modrain o => Sys2Proof.Machine.execModrain o s
  | .sbr o => Sys2Proof.Machine.execSbr o s
  | .sjmp o => Sys2Proof.Machine.execSjmp o s
  | .sloop o => Sys2Proof.Machine.execSloop o s
  | .spawn o => Sys2Proof.Machine.execSpawn o s
  | .dpush o => Sys2Proof.Machine.execDpush o s
  | .dpop o => Sys2Proof.Machine.execDpop o s
  | .swait o => Sys2Proof.Machine.execSwait o s
  | .scond o => Sys2Proof.Machine.execScond o s
  | .shalt o => Sys2Proof.Machine.execShalt o s
  | .enq o => Sys2Proof.Machine.execEnq o s
  | .recN o => Sys2Proof.Machine.execRecN o s
  | .cntadd o => Sys2Proof.Machine.execCntadd o s
  | .cntwait o => Sys2Proof.Machine.execCntwait o s
  | .cancel o => Sys2Proof.Machine.execCancel o s
  | .trap o => Sys2Proof.Machine.execTrap o s
  | .tret o => Sys2Proof.Machine.execTret o s
  | .srd o => Sys2Proof.Machine.execSrd o s
  | .swr o => Sys2Proof.Machine.execSwr o s
  | .cctlWb o => Sys2Proof.Machine.execCctlWb o s
  | .cctlInv o => Sys2Proof.Machine.execCctlInv o s
  | .cctlFarinv o => Sys2Proof.Machine.execCctlFarinv o s
  | .cctlIcinv o => Sys2Proof.Machine.execCctlIcinv o s
  | .tlbi o => Sys2Proof.Machine.execTlbi o s
  | .halt x1 => Sys2Proof.Machine.execHalt x1 s
  | .resultLanding x1 x2 => Sys2Proof.Machine.execResultLanding x1 x2 s
  | .droveFormation x1 x2 => Sys2Proof.Machine.execDroveFormation x1 x2 s
  | .foldAgeExpiry x1 x2 x3 => Sys2Proof.Machine.execFoldAgeExpiry x1 x2 x3 s
  | .droveIssue x1 x2 x3 => Sys2Proof.Machine.execDroveIssue x1 x2 x3 s
  | .blockExitFiling x1 x2 => Sys2Proof.Machine.execBlockExitFiling x1 x2 s
  | .liveInFetch x1 x2 => Sys2Proof.Machine.execLiveInFetch x1 x2 s
  | .strayRefile x1 x2 => Sys2Proof.Machine.execStrayRefile x1 x2 s
  | .spill x1 x2 => Sys2Proof.Machine.execSpill x1 x2 s
  | .threadPark x1 x2 x3 => Sys2Proof.Machine.execThreadPark x1 x2 x3 s
  | .faultResolutionResume x1 x2 x3 => Sys2Proof.Machine.execFaultResolutionResume x1 x2 x3 s
  | .sleepWake x1 x2 => Sys2Proof.Machine.execSleepWake x1 x2 s
  | .yieldExpiry x1 x2 => Sys2Proof.Machine.execYieldExpiry x1 x2 s
  | .trackerEntryDrained x1 x2 => Sys2Proof.Machine.execTrackerEntryDrained x1 x2 s
  | .copyLanded x1 x2 => Sys2Proof.Machine.execCopyLanded x1 x2 s
  | .copyFault x1 x2 x3 x4 => Sys2Proof.Machine.execCopyFault x1 x2 x3 x4 s
  | .streamFetch x1 x2 x3 => Sys2Proof.Machine.execStreamFetch x1 x2 x3 s
  | .cpymxWordEntry x1 x2 => Sys2Proof.Machine.execCpymxWordEntry x1 x2 s
  | .matrixExecute x1 => Sys2Proof.Machine.execMatrixExecute x1 s
  | .matrixComplete x1 => Sys2Proof.Machine.execMatrixComplete x1 s
  | .gatherRead x1 => Sys2Proof.Machine.execGatherRead x1 s
  | .chuteWaitSatisfied x1 x2 => Sys2Proof.Machine.execChuteWaitSatisfied x1 x2 s
  | .shepherdWaitSatisfied x1 x2 => Sys2Proof.Machine.execShepherdWaitSatisfied x1 x2 s
  | .dpopWaitSatisfied x1 x2 => Sys2Proof.Machine.execDpopWaitSatisfied x1 x2 s
  | .cntwaitSatisfied x1 x2 => Sys2Proof.Machine.execCntwaitSatisfied x1 x2 s
  | .flagMergeToHub x1 x2 => Sys2Proof.Machine.execFlagMergeToHub x1 x2 s
  | .enablePropagation x1 x2 => Sys2Proof.Machine.execEnablePropagation x1 x2 s
  | .hostRegisterWrite x1 x2 => Sys2Proof.Machine.execHostRegisterWrite x1 x2 s
  | .doorbellSignal x1 x2 => Sys2Proof.Machine.execDoorbellSignal x1 x2 s
  | .doorbellLowHalf x1 x2 => Sys2Proof.Machine.execDoorbellLowHalf x1 x2 s
  | .doorbellLatchExpiry x1 => Sys2Proof.Machine.execDoorbellLatchExpiry x1 s
  | .queueIdleUnmap x1 => Sys2Proof.Machine.execQueueIdleUnmap x1 s
  | .launchRecordRead x1 => Sys2Proof.Machine.execLaunchRecordRead x1 s
  | .dependenceRead x1 => Sys2Proof.Machine.execDependenceRead x1 s
  | .arbiterDecision x1 => Sys2Proof.Machine.execArbiterDecision x1 s
  | .binding x1 => Sys2Proof.Machine.execBinding x1 s
  | .placement x1 => Sys2Proof.Machine.execPlacement x1 s
  | .launchCompletion x1 => Sys2Proof.Machine.execLaunchCompletion x1 s
  | .batchTimerExpiry x1 x2 => Sys2Proof.Machine.execBatchTimerExpiry x1 x2 s
  | .batchLaunch x1 x2 => Sys2Proof.Machine.execBatchLaunch x1 x2 s
  | .imageRegister => Sys2Proof.Machine.execImageRegister s
  | .imageUnregister => Sys2Proof.Machine.execImageUnregister s
  | .loaderDone => Sys2Proof.Machine.execLoaderDone s
  | .homeRequest x1 => Sys2Proof.Machine.execHomeRequest x1 s
  | .homeReply x1 x2 => Sys2Proof.Machine.execHomeReply x1 x2 s
  | .notHereReply x1 x2 => Sys2Proof.Machine.execNotHereReply x1 x2 s
  | .requestRetryTimeout x1 => Sys2Proof.Machine.execRequestRetryTimeout x1 s
  | .congestionMarkEcho x1 => Sys2Proof.Machine.execCongestionMarkEcho x1 s
  | .rateRecoveryTick x1 => Sys2Proof.Machine.execRateRecoveryTick x1 s
  | .migration x1 x2 x3 x4 => Sys2Proof.Machine.execMigration x1 x2 x3 x4 s
  | .migrationAbandon x1 x2 => Sys2Proof.Machine.execMigrationAbandon x1 x2 s
  | .fqack x1 => Sys2Proof.Machine.execFqack x1 s
  | .faultTimeout x1 x2 => Sys2Proof.Machine.execFaultTimeout x1 x2 s
  | .biascmdToDevice => Sys2Proof.Machine.execBiascmdToDevice s
  | .biascmdToHost => Sys2Proof.Machine.execBiascmdToHost s
  | .biasChangeDone => Sys2Proof.Machine.execBiasChangeDone s
  | .tlbicmd x1 => Sys2Proof.Machine.execTlbicmd x1 s
  | .tlbiDone => Sys2Proof.Machine.execTlbiDone s
  | .inboundAccess x1 x2 x3 => Sys2Proof.Machine.execInboundAccess x1 x2 x3 s
  | .hostMemoryAccess x1 x2 x3 => Sys2Proof.Machine.execHostMemoryAccess x1 x2 x3 s
  | .collectiveDone x1 x2 x3 => Sys2Proof.Machine.execCollectiveDone x1 x2 x3 s
  | .laneSwap x1 => Sys2Proof.Machine.execLaneSwap x1 s
  | .laneSample x1 x2 x3 => Sys2Proof.Machine.execLaneSample x1 x2 x3 s
  | .portDegrade x1 => Sys2Proof.Machine.execPortDegrade x1 s
  | .pcmdHalt x1 => Sys2Proof.Machine.execPcmdHalt x1 s
  | .pcmdSave x1 => Sys2Proof.Machine.execPcmdSave x1 s
  | .pcmdRestore x1 => Sys2Proof.Machine.execPcmdRestore x1 s
  | .pcmdResume x1 => Sys2Proof.Machine.execPcmdResume x1 s
  | .pcmdDiscard x1 => Sys2Proof.Machine.execPcmdDiscard x1 s
  | .haltDone x1 => Sys2Proof.Machine.execHaltDone x1 s
  | .saveDone x1 => Sys2Proof.Machine.execSaveDone x1 s
  | .restoreDone x1 x2 => Sys2Proof.Machine.execRestoreDone x1 x2 s
  | .copyHaltTimeout x1 x2 => Sys2Proof.Machine.execCopyHaltTimeout x1 x2 s
  | .pmapWrite x1 x2 => Sys2Proof.Machine.execPmapWrite x1 x2 s
  | .errackWrite x1 => Sys2Proof.Machine.execErrackWrite x1 s
  | .ceWindowBoundary => Sys2Proof.Machine.execCeWindowBoundary s
  | .correctedError x1 x2 => Sys2Proof.Machine.execCorrectedError x1 x2 s
  | .uncorrectableConsumed x1 => Sys2Proof.Machine.execUncorrectableConsumed x1 s
  | .scrub x1 x2 => Sys2Proof.Machine.execScrub x1 x2 s
  | .hbmRefresh x1 => Sys2Proof.Machine.execHbmRefresh x1 s
  | .coreLogicError x1 => Sys2Proof.Machine.execCoreLogicError x1 s
  | .leaseRenewal x1 x2 => Sys2Proof.Machine.execLeaseRenewal x1 x2 s
  | .leaseClaim x1 => Sys2Proof.Machine.execLeaseClaim x1 s
  | .leaseLapse => Sys2Proof.Machine.execLeaseLapse s
  | .sidebandMessage x1 x2 x3 => Sys2Proof.Machine.execSidebandMessage x1 x2 x3 s
  | .identity x1 => Sys2Proof.Machine.execIdentity x1 s
  | .attest x1 => Sys2Proof.Machine.execAttest x1 s
  | .fwstage x1 => Sys2Proof.Machine.execFwstage x1 s
  | .fwactivate x1 => Sys2Proof.Machine.execFwactivate x1 s
  | .fwabort x1 => Sys2Proof.Machine.execFwabort x1 s
  | .updateLockTimeout => Sys2Proof.Machine.execUpdateLockTimeout s
  | .powercap x1 => Sys2Proof.Machine.execPowercap x1 s
  | .telemetry x1 => Sys2Proof.Machine.execTelemetry x1 s
  | .reset x1 => Sys2Proof.Machine.execReset x1 s
  | .swconfig x1 => Sys2Proof.Machine.execSwconfig x1 s
  | .throttleTick x1 x2 => Sys2Proof.Machine.execThrottleTick x1 x2 s
  | .thermalTrip => Sys2Proof.Machine.execThermalTrip s
  | .brownOut x1 => Sys2Proof.Machine.execBrownOut x1 s
  | .perstDeassert => Sys2Proof.Machine.execPerstDeassert s
  | .bringupStageDone => Sys2Proof.Machine.execBringupStageDone s
  | .penDemandRead x1 x2 x3 => Sys2Proof.Machine.execPenDemandRead x1 x2 x3 s
  | .accessPerformed x1 x2 => Sys2Proof.Machine.execAccessPerformed x1 x2 s
  | .cxlCacheSnoop x1 => Sys2Proof.Machine.execCxlCacheSnoop x1 s
  | .configurationRequest => Sys2Proof.Machine.execConfigurationRequest s
  | .contendedMarkExpiry x1 => Sys2Proof.Machine.execContendedMarkExpiry x1 s

end Sys2Proof.Machine
end

