-- ==== Sys2Proof/Machine/Turns.lean ====
section
/-! DEFINITION. The places, in the order of service within one cycle, of the events that no meaning of their own takes in
turn (R250, R292, R309, R334, R376, R387). -/

namespace Sys2Proof.Machine

/-- The first and the last place at which such an event may come. A launch completes, a batch's timer lapses and a change of
bias or an invalidation ends before a placement; a BIASCMD, a placement and the beginning of a move come before the
instructions of the cycle; the bytes of a dependence counter are read before they are written; the requests of a cycle's
doorbells are taken in the order of their queues, and a queue is unmapped after every signal; reads from outside reach the
coherence point before stores; a lease lapses before the claims, which come in the order of the firmware cores; the host's
command comes before the side-band port's. -/
def eventTurn (i : Instr) : Option (Nat × Nat) :=
  let before := fun kind => some (0, turnRank kind 0 0 0)
  let outside := fun (write : Bool) =>
    if write then some (turnRank 6 0 0 0, turnRank 7 0 0 0) else some (turnRank 5 0 0 0, turnRank 6 0 0 0)
  match i with
  | .dependenceRead _ | .launchRecordRead _ => before 1
  | .launchCompletion _ => some (turnRank 1 0 0 0, turnRank 2 0 0 0)
  | .copyLanded _ _ | .matrixComplete _ | .copyFault _ _ _ _ | .batchTimerExpiry _ _ | .biasChangeDone | .tlbiDone => before 2
  | .doorbellSignal q _ => some (turnRank 1 0 1 q, turnRank 1 0 1 q)
  | .arbiterDecision _ | .binding _ | .placement _ => some (turnRank 2 0 0 1, turnRank 3 0 0 0)
  | .biascmdToDevice | .biascmdToHost | .migration _ _ _ _ => before 3
  | .homeRequest r => outside (r.write.isSome || r.atomic.isSome)
  | .hostMemoryAccess _ _ w => outside w.isSome
  | .inboundAccess _ _ w => outside w.isSome
  | .leaseLapse => before 7
  | .leaseClaim who => some (turnRank 7 (min who 15) 0 0, turnRank 7 (min who 15) 0 0)
  | .hostRegisterWrite _ _ | .identity _ | .attest _ | .fwstage _ | .fwactivate _ | .fwabort _ | .powercap _ | .telemetry _
  | .reset _ | .swconfig _ => before 8
  | .queueIdleUnmap _ | .sidebandMessage _ _ _ => some (turnRank 8 0 0 1, turnRank 8 0 0 1)
  | _ => none

/-- What goes on while the part is tripped (R385): the lease, the two masters and their commands, the measuring of power and
temperature. -/
def standby (i : Instr) : Bool :=
  match i with
  | .leaseRenewal _ _ | .leaseClaim _ | .leaseLapse | .sidebandMessage _ _ _ | .updateLockTimeout | .throttleTick _ _
  | .identity _ | .attest _ | .fwstage _ | .fwactivate _ | .fwabort _ | .powercap _ | .telemetry _ | .reset _ | .swconfig _ => true
  | .hostRegisterWrite off _ => decide (0x50000 ≤ off)
  | _ => false

/-- An event finds the clocks stopped (R385). -/
def State.stopped (s : State) (i : Instr) : Bool := s.fw.trip && !standby i

/-- An event takes its place in the order of service of this cycle, or it has come too late for it. -/
def State.inTurn (s : State) (i : Instr) : Option State :=
  match eventTurn i with
  | none => some s
  | some (first, last) => if last < s.phase then none else some { s with phase := max s.phase first }

end Sys2Proof.Machine
end

