-- ==== Sys2Proof/Machine/Step.lean ====
section
/-! DEFINITION. One step of the part. While a drove or shepherd has been granted its issue, the step fetches, decodes
and runs its instruction; otherwise it takes the next event: the head of the agenda, or what the free schedule of
Config brings (log 1). -/

namespace Sys2Proof.Machine

/-- No access of this step has met a frame that is changing its bias (R326). -/
def State.unblock (s : State) : State := { s with fabric := { s.fabric with blocked := false } }

/-- An instruction that has met such a frame has had no effect, and its agent waits for the change to end. -/
def State.putOff (s : State) (r : AgentRef) (i : Instr) : State :=
  let s := match i.op? with
    | some o => s.latch r o
    | none => s
  { s.waitFor r .bias with cur := none }

/-- What has executed an instruction leaves the agent, or has met such a frame. -/
def State.afterIssue (before : State) (r : AgentRef) (i : Instr) (s : State) : State :=
  if s.fabric.blocked then before.putOff r i else { s with cur := none }

/-- The issue of the granted agent: nothing else happens, and no time passes, between the grant and the issue (R64). Lanes that
read uncorrectable registers take no part (R363). -/
def stepIssue (r : AgentRef) (s : State) : Host.Outcome State Fault Refusal :=
  match s.fetchDecode r with
  | (s, .instr i) => match s.meetBad r i with
    | (s, false) => .next { s with cur := none }
    | (t, true) => match exec i t with
      | .next u => .next (s.afterIssue r i u)
      | .fault f => .fault f
      | .refused f => .refused f
  | (s, .reject why w) => .next { s.badWord r why w with cur := none }
  | (s, .fault cause) => .next { s.trapWord r cause (s.agentD r).pc with cur := none }

/-- A constructor that is an instruction: it acts only where an agent issues it. -/
def isInstruction (i : Instr) : Bool :=
  match i with
  | .blk _ _ _ _ => true
  | i => i.op?.isSome

/-- The part takes one event, unless its clocks have stopped (R385). -/
def stepEvent (e : Sched) (s : State) : Host.Outcome State Fault Refusal :=
  match e with
  | .event i => if isInstruction i || s.stopped i then .next s else exec i s
  | .shepherd core lid => .next (s.grantShepherd core lid)

/-- What the schedule brings; an event that comes too late for its place in this cycle is not taken. -/
def stepSched (e : Sched) (s : State) : Host.Outcome State Fault Refusal :=
  match e with
  | .event i => match s.inTurn i with
    | some s => stepEvent e s
    | none => .next s
  | .shepherd _ _ => stepEvent e s

/-- Time passes before an event (R4, R362): how much is free, and the clock counts none of it once it has stopped (R385). In a new
cycle the order of service begins again. -/
def State.advance (s : State) : State :=
  { s with tick := s.tick + 1, cycles := s.cycles + (if s.fw.trip then 0 else Config.cyclesPassed s.tick),
           phase := if Config.cyclesPassed s.tick = 0 then s.phase else 0,
           nanos := s.nanos + Config.nanosPassed s.tick }

/-- An event of the agenda begins a new cycle (log 1). -/
def State.newCycle (s : State) : State := { s.advance with cycles := s.advance.cycles + 1, phase := 0 }

/-- An event has met a frame that is changing its bias, and has to come later (R326). -/
def metBias (o : Host.Outcome State Fault Refusal) : Bool :=
  match o with
  | .next t => t.fabric.blocked
  | _ => false

/-- What the free schedule brings happens, if no frame that is changing its bias stands against it. -/
def stepFree (s : State) : Host.Outcome State Fault Refusal :=
  let o := stepSched (Config.schedule s.tick) s.advance
  if metBias o then .next s.advance else o

/-- The next event: of the agenda, or what the schedule brings. -/
def stepNext (s : State) : Host.Outcome State Fault Refusal :=
  match s.agenda with
  | e :: rest =>
    let o := stepEvent e { s.newCycle with agenda := rest }
    if metBias o then stepFree s else o
  | [] => stepFree s

/-- One step. -/
def step (s : State) : Host.Outcome State Fault Refusal :=
  match s.cur with
  | some r => stepIssue r s.unblock
  | none => stepNext s.unblock

/-- The launch, the core and the agent that `withFetchWord` sets up: a launch of one thread in its block, or a
shepherd for an opcode that only the shepherd has. -/
def fetchLaunch : Launch :=
  { (default : Launch) with
      rec_ := [0, 0, 1, 0x10000, 0, 0, 0, 0, 0, 0, 0, 0, 0, 0, 0, 0]
      hdr := [3, 0, 0, 0, 0, 0, 0, 0, 0, 0, 0, 0, 0, 0, 0, 0]
      st := .running, cores := [0], codeBase := 0, codeSize := 1048576, lep := 1 }

def fetchAgent (shep : Bool) : Agent :=
  { (default : Agent) with
      shep, lid := 0, slots := 1, size := 1, pc := 64
      lanes := [(0, { tid := 0, zeroed := shep, seed := 0, w := [], p := [], cw := [], bad := [], parking := none, exit := none })]
      fetched := List.range 64 }

/-- A state in which the very next step fetches and runs a word (log 7): the word stands in the instruction cache of
core 0, a launch is resident there with one drove of one thread (or its shepherd, for a word that only a shepherd
takes), and that agent has been granted its issue at the word. -/
def State.withFetchWord (s : State) (nbits w : Nat) : State :=
  let word := wordOfBytes (bytesLE 16 (w % 2 ^ nbits))
  let shep := match decodeWord Ctx.drove word with
    | .ok _ => false
    | .error _ => true
  let th := Thread.fresh 0 (if shep then shepTid else 0) 0
  let k := s.core 0
  { s.setCore 0 { k with
      icache := Tab.set k.icache (icKey 0 64) word
      agents := Tab.set k.agents 0 (fetchAgent shep)
      nextAg := k.nextAg + 1
      threads := Tab.set k.threads (threadKey 0 th.tid) { th with place := .drove 0 }
      res := Tab.set k.res 0 Res.empty } with
    cur := some { core := 0, id := 0 }
    launches := Tab.set s.launches 0 fetchLaunch
    nextLid := s.nextLid + 1 }

end Sys2Proof.Machine
end

