-- ==== Sys2Proof/Safety.lean ====
section
/-! DEFINITION. What a safe run is: no step stops the machine. -/

namespace Sys2Proof.Safety

/-- A step stays in the machine. -/
def StepsOn (s : Machine.State) : Prop := ∃ t, Machine.step s = .next t

/-- `n` steps stay in the machine. -/
def RunsOn : Nat → Machine.State → Prop
  | 0, _ => True
  | n + 1, s => ∃ t, Machine.step s = .next t ∧ RunsOn n t

end Sys2Proof.Safety
end

