-- ==== Sys2Proof/Certificates/Slice0/Obligations.lean ====
section
/-! DEFINITION. The statements for the provers. A statement says of the state after an instruction or a step what the
rules say of it; the definitions of the namespace `Claims` only shorten the statements. -/

namespace Sys2Proof.Claims

open Sys2Proof.Machine

/-- The state after an instruction whose lanes all complete: `f` gives each active lane's result. The flags join the
core's status word; the agent has issued, its results outstanding until their latency is over. -/
def completed (s : State) (r : AgentRef) (o : Op) (lat : Latency) (k : Nat) (f : Env → LaneRes) : State :=
  let t := s.latch r o
  let es := t.envs r o
  (t.raise r.core (s.agentD r).lid (es.foldl (fun w e => w ||| (f e).flags) 0)).updAgent r fun a =>
    a.issued s.cycles o.ctl lat
      (if es.isEmpty then [] else destRegs o.d k ++ es.flatMap fun e => (f e).extra.map (·.1))
      (es.flatMap fun e =>
        destWrites e.n o.d (f e).vals ++ (f e).extra.map fun x => { lane := e.n, reg := x.1, val := x.2 }) []

/-- An instruction completes in every state that grants its issue, each active lane with the result that `f` gives. -/
def Yields (i : Op → Instr) (ok : Op → Bool) (lat : Latency) (k : Nat) (f : Op → Env → LaneRes) : Prop :=
  ∀ (o : Op) (s : State) (r : AgentRef), ok o = true → s.cur = some r →
    exec (i o) s = .next (completed s r o lat k (f o))

/-- As `Yields`, where the launch has enabled no numeric trap. -/
def YieldsUntrapped (i : Op → Instr) (ok : Op → Bool) (lat : Latency) (k : Nat) (f : Op → Env → LaneRes) : Prop :=
  ∀ (o : Op) (s : State) (r : AgentRef), ok o = true → s.cur = some r →
    s.enables r.core (s.agentD r).lid = 0 → exec (i o) s = .next (completed s r o lat k (f o))

/-- Every form. -/
def anyForm (_ : Op) : Bool := true

/-- The forms that wrap, and those that saturate (R92). -/
def wraps (o : Op) : Bool := !o.sat
def saturates (o : Op) : Bool := o.sat

/-- A 64-bit product of words, read as signed or unsigned. -/
def wide (u : Bool) (w : Word) : DWord := if u then w.setWidth 64 else w.signExtend 64

/-- x ≤ y of words, read as signed or unsigned. -/
def leWord (u : Bool) (x y : Word) : Bool := if u then x.ule y else x.sle y

/-- A number clamped between two bounds, with OF where it was clamped (R90). -/
def clamped (v lo hi : Int) : LaneRes :=
  if v < lo then { LaneRes.word (BitVec.ofInt 32 lo) with flags := fOF }
  else if hi < v then { LaneRes.word (BitVec.ofInt 32 hi) with flags := fOF }
  else .word (BitVec.ofInt 32 v)

/-- The saturated result of R92 of an exact value. -/
def satOf (o : Op) (v : Int) : LaneRes :=
  if o.mods.getLsbD 0 then clamped v 0 (2 ^ 32 - 1) else clamped v (-2 ^ 31) (2 ^ 31 - 1)

/-- A source as a number, under bit 32. -/
def num (o : Op) (w : Word) : Int := if o.mods.getLsbD 0 then (w.toNat : Int) else w.toInt

/-- The predicate register that a source names. -/
def predOf (x : Opnd) : Reg :=
  match x with
  | .p n | .sp n => .p n.toNat
  | _ => .p 0

/-- A predicate source. -/
def namesPred (x : Opnd) : Bool :=
  match x with
  | .p _ | .sp _ => true
  | _ => false

/-- A result word, with a bit for the predicate that source C names. -/
def carryOut (o : Op) (d : Word) (c : Bool) : LaneRes :=
  { LaneRes.word d with extra := [(predOf o.c, if c then 1 else 0)] }

/-- A vector from its bits. -/
def fromBits (f : Nat → Bool) : (n : Nat) → BitVec n
  | 0 => 0#0
  | n + 1 => BitVec.cons (f n) (fromBits f n)

/-- The shift count of R96. -/
def shiftBy (o : Op) (b : Word) : Nat := if o.mods.getLsbD 0 then b.toNat % 32 else b.toNat

/-- BFX of R97: the field at position B<7:0> of length B<15:8>, sign-extended where B<16> is 1. -/
def fieldOf (a b : Word) : Word :=
  let pos := (b.extractLsb' 0 8).toNat
  let len := min (b.extractLsb' 8 8).toNat (32 - pos)
  if 32 ≤ pos ∨ len = 0 then 0
  else if b.getLsbD 16 then ((a >>> pos) <<< (32 - len)).sshiftRight (32 - len)
  else ((a >>> pos) <<< (32 - len)) >>> (32 - len)

/-- BFI of R97: C with the field replaced by the low bits of A. -/
def fieldInto (a b c : Word) : Word :=
  let pos := (b.extractLsb' 0 8).toNat
  let len := min (b.extractLsb' 8 8).toNat (32 - pos)
  let mask : Word := (BitVec.allOnes 32 >>> (32 - len)) <<< pos
  if 32 ≤ pos ∨ len = 0 then c else (c &&& ~~~mask) ||| ((a <<< pos) &&& mask)

/-- Byte j of BPERM (R98). -/
def permByte (ctl a b : Word) (j : Nat) : BitVec 8 :=
  let x : BitVec 8 := ((b ++ a : DWord) >>> (8 * (ctl.extractLsb' (3 * j) 3).toNat)).setWidth 8
  if ctl.getLsbD (12 + j) then 0 else if ctl.getLsbD (16 + j) then (if x.msb then 0xFF else 0) else x

/-- A condition of R77, from whether A < B and whether A = B. -/
def holdsOf (c : Nat) (lt eq : Bool) : Bool :=
  match c with
  | 0 => eq
  | 1 => !eq
  | 2 => lt
  | 3 => lt || eq
  | 4 => !(lt || eq)
  | _ => !lt

/-- The combination of a condition with source C (R99). -/
def combined (o : Op) (x : Bool) (c : Word) : Bool :=
  match (o.mods.extractLsb' 5 2).toNat with
  | 0 => x
  | 1 => x && c != 0
  | 2 => x || c != 0
  | _ => x != (c != 0)

/-- A floating-point source with the absolute value and then the negation of R103. -/
def signed (o : Op) (i : Nat) (w : Word) : Word :=
  let v := if o.mods.getLsbD (3 + i) then w &&& 0x7FFFFFFF#32 else w
  if o.mods.getLsbD i then v ^^^ 0x80000000#32 else v
def srcA (o : Op) (e : Env) : Word := signed o 0 (e.a32 o)
def srcB (o : Op) (e : Env) : Word := signed o 1 (e.b32 o)
def srcC (o : Op) (e : Env) : Word := signed o 2 (e.c32 o)

/-- A result rounded to FP32 in the mode of the word. -/
def rounded (o : Op) (sat : Bool) (v : Val × Word) : LaneRes := .flagged (arith32 o.rm.toNat sat v)

/-- The elements of a packed instruction, each by itself (R110). -/
def elementwise (o : Op) (f : Val → Val → Val → Nat → Nat → Nat × Word) (e : Env) : LaneRes :=
  let t := o.fmt.toNat
  let xs := (List.range (perReg t)).map fun i =>
    f (decodeElem t (elemOf t (e.a32 o) i)).1 (decodeElem t (elemOf t (e.b32 o) i)).1
      (decodeElem t (elemOf t (e.c32 o) i)).1 (elemOf t (e.a32 o) i) (elemOf t (e.b32 o) i)
  .flagged (packElems t (xs.map (·.1)), xs.foldl (fun w x => w ||| x.2) 0)

/-- The pairs of values of a dot product of n elements, from element j of A on (R111, R113). -/
def pairsOf (fa fb n j : Nat) (e : Env) (o : Op) : List (Val × Val) :=
  (List.range n).map fun k => ((decodeElem fa (elemOf fa (e.a32 o) (j + k))).1, (decodeElem fb (elemOf fb (e.b32 o) k)).1)

/-- C plus the products of integer elements, modulo 2^32. -/
def intDot (fa fb n j : Nat) (e : Env) (o : Op) : Word :=
  e.c32 o + BitVec.ofInt 32 ((pairsOf fa fb n j e o).map fun p => intVal p.1 * intVal p.2).sum

/-- As `completed`, for a team instruction: `f` has the active lanes of a lane's team. -/
def teamCompleted (s : State) (r : AgentRef) (o : Op) (k : Nat) (f : List Env → Env → LaneRes) : State :=
  completed s r o .v k fun e => f (((s.latch r o).envs r o).filter fun x => x.team == e.team) e
def TeamYields (i : Op → Instr) (k : State → Nat) (f : Op → List Env → Env → LaneRes) : Prop :=
  ∀ (o : Op) (s : State) (r : AgentRef), s.cur = some r → exec (i o) s = .next (teamCompleted s r o (k s) (f o))
def TeamYieldsUntrapped (i : Op → Instr) (f : Op → List Env → Env → LaneRes) : Prop :=
  ∀ (o : Op) (s : State) (r : AgentRef), s.cur = some r → s.enables r.core (s.agentD r).lid = 0 →
    exec (i o) s = .next (teamCompleted s r o 1 (f o))

/-- The value of A of a team's active member of a number, or the lane's own (R132). -/
def fromMember (o : Op) (es : List Env) (e : Env) (m : Nat) : LaneRes :=
  .word (((es.find? fun x => x.member == m).getD e).a32 o)

/-- The registers of a mask of members: bit m tells of the active member m (R133). -/
def maskWords (e : Env) (es : List Env) (f : Env → Bool) : LaneRes :=
  .of ((List.range e.l.maskRegs).map fun i => fromBits (fun j => es.any fun x => x.member == 32 * i + j && f x) 32)

/-- The instructions of groups 0x1_ to 0x5_ but CVTB, which keeps outlier lists. -/
def isVectorArithmetic (i : Instr) : Bool :=
  match i.spec with
  | some p => decide (0x10 ≤ p.opc.toNat) && decide (p.opc.toNat ≤ 0x5E) && p.opc != 0x51
  | none => false

/-- `e` is the one active lane of the instruction that agent r issues. -/
abbrev Lone (s : State) (r : AgentRef) (o : Op) (e : Env) : Prop := s.cur = some r ∧ (s.latch r o).envs r o = [e]

/-- What an instruction of agent r leaves alone: the registers and the pc of every other agent; every core's part of the
numeric status word; the c registers, the depth and the trap registers of every thread; the hub's part of each launch's
status word, HINTMISS and the k registers; firmware and the saved partitions. -/
def Keeps (s t : State) (r : AgentRef) : Prop :=
  (∀ q a, q ≠ r → s.agent? q = some a → ∃ b, t.agent? q = some b ∧ b.lanes = a.lanes ∧ b.pc = a.pc)
  ∧ (∀ c lid, (t.res c lid).num = (s.res c lid).num)
  ∧ (∀ c key x, Tab.get? (s.core c).threads key = some x → ∃ y, Tab.get? (t.core c).threads key = some y ∧ y.c = x.c
    ∧ y.depth = x.depth ∧ y.inHandler = x.inHandler ∧ y.probe = x.probe ∧ y.tcause = x.tcause ∧ y.taddr = x.taddr
    ∧ y.tpc = x.tpc)
  ∧ (∀ lid l, s.launch? lid = some l → ∃ m, t.launch? lid = some m ∧ m.num = l.num ∧ m.hintmiss = l.hintmiss ∧ m.k = l.k)
  ∧ t.fw = s.fw ∧ t.parts = s.parts

/-- An instruction of class V with one active lane ends with a result of k words outstanding, in a state of which `P`
holds, with no other register or flag changed. -/
def Ends (i : Instr) (o : Op) (s : State) (r : AgentRef) (e : Env) (k : Nat) (vals : List Word) (P : State → Prop) : Prop :=
  ∃ t, exec i s = .next t ∧ Keeps s t r
    ∧ t.agentD r = (s.agentD r).issued s.cycles o.ctl .v (destRegs o.d k) (destWrites e.n o.d vals) [] ∧ P t

/-- A lane's aligned access on path V leads to a place in device memory, with race detection off, no change of bias
under way and no uncorrectable sector there. -/
abbrev Reaches (e : Env) (a : DWord) (n : Nat) (acc : Acc) (pa : Nat) : Prop :=
  a.toNat % n = 0 ∧ (e.s.xlate (some e.r.core) 0 e.l.part a acc).2 = .ok (.dev pa) ∧ e.l.race = false
    ∧ e.s.fabric.biasJob = none ∧ e.s.badRange pa n = false

/-- No store of its core holds a load back: a load wider than its core comes after the core's stores to its bytes (R245). -/
abbrev LoadGoes (s : State) (r : AgentRef) (o : Op) : Prop :=
  holdOf (s.envs r o) (loadHeld o.bytes o.scope.toNat (fun e => e.gaddr o) s) = none

/-- What a core's load of bytes of device memory may see (R236, R238): its own stores that are not yet performed, else, where
it looks past the L1, memory, and else the L1's copy or memory. -/
def Sees (s : State) (c pa n : Nat) (past : Bool) (bs : List Byte) : Prop :=
  bs.length = n ∧ ∀ i, i < n → match Tab.get? (s.core c).l1 (pa + i) with
    | some x => if x.dirty then bs.getD i 0 = x.val
      else bs.getD i 0 = memGet s.mem (pa + i) ∨ (past = false ∧ bs.getD i 0 = x.val)
    | none => bs.getD i 0 = memGet s.mem (pa + i)

/-- A write of these bytes of device memory reaches no completion block, done bitmap or race log of a running launch
(R257, R284), and no image of a saved partition (R339). -/
def Ordinary (s : State) (pa n : Nat) : Prop :=
  (∀ x ∈ s.launches, x.2.st = .running →
    (x.2.rec64 6 ≠ 0 → s.touches x.2.part (x.2.rec64 6) (64 + x.2.doneBytes) pa n = false)
    ∧ (x.2.race = true → ∀ f, s.framePa x.2.part x.2.logBase = some f → ¬(pa / 65536 * 65536 ≤ f ∧ f < pa + n)))
  ∧ ∀ p ∈ s.parts, ∀ x ∈ p.2.saved, x.slot = 3 → x.cores ≠ [] → s.inArea x.area pa n = false

/-- A load of one lane has issued and is to take its value later (R241). -/
def LoadsLater (i : Instr) (o : Op) (s : State) (r : AgentRef) (e : Env) (k : Nat) (x : Late) : Prop :=
  ∃ t, exec i s = .next t ∧ Keeps s t r ∧ t.mem = s.mem ∧ (t.core r.core).outst = (s.core r.core).outst
    ∧ (t.core r.core).late = (s.core r.core).late ++ [x]
    ∧ t.agentD r = (s.agentD r).issued s.cycles o.ctl .v (destRegs o.d k) [] [loadKey (s.core r.core).nextOut]
    ∧ x.id = (s.core r.core).nextOut ∧ x.ag = r.id ∧ x.lane = e.n ∧ x.dst = destRegs o.d k

/-- The page tables of a partition lead from an address to a place in device memory, by a leaf for which `ok` holds. -/
def LocalAt (s : State) (part : Nat) (va : DWord) (ok : DWord → Bool) (pa : Nat) : Prop :=
  canonical va = true ∧ ∃ e lv at_, s.walkLeaf part va = some (e, lv, at_) ∧ pteKind e = 1 ∧ ok e = true
    ∧ pa = pteAddr e + va57 va % 2 ^ levelShift lv

/-- A core that holds no word and no translation finds this word at an address of a launch's image. -/
def WordThere (s : State) (c : Nat) (l : Launch) (va : DWord) (w : IWord) : Prop :=
  l.inCode va = true ∧ (s.core c).icache = [] ∧ (s.core c).tlb = [] ∧ s.fabric.walks = [] ∧ ∃ pa, LocalAt s l.part va pteX pa
    ∧ s.badRange pa 16 = false ∧ s.hostBiased pa = false ∧ w = l.patch (chipOf c) va (wordOfBytes (memRead s.mem pa 16))

/-- As `WordThere`, a BLK with these bits. -/
def BlkThere (s : State) (c : Nat) (l : Launch) (va : DWord) (team landing : Bool) : Prop :=
  ∃ w ctl live, WordThere s c l va w ∧ decodeWord (l.ctx false) w = .ok (.blk ctl live team landing)

/-- The addresses of the table entries that a walk reads. -/
def walkPath (m : List Host.Cell) : Nat → Nat → Nat → List Nat
  | 0, _, _ => []
  | level + 1, tbl, va =>
    let at_ := tbl + 8 * ((va / 2 ^ levelShift (level + 1)) % 2 ^ levelBits (level + 1))
    let e := word64 (memRead m at_ 8)
    at_ :: (if !leafOk (level + 1) e && tableOk (level + 1) e then walkPath m level (pteTable e) va else [])

/-- The hub, which holds no translation and no entry of a table, reaches these bytes of device memory, which are not in host bias,
at an address of a partition; its page tables lie apart from them. -/
def HubAt (s : State) (part : Nat) (va : DWord) (n pa : Nat) : Prop :=
  s.fabric.tlb = [] ∧ s.fabric.walks = [] ∧ s.errs.bad = [] ∧ ∃ e lv at_, pteKind e = 1 ∧ pteR e = true ∧ pteW e = true
    ∧ ∀ i, i < n →
      let v := va + BitVec.ofNat 64 i
      canonical v = true ∧ pteAddr e + va57 v % 2 ^ levelShift lv = pa + i ∧ s.hostBiased (pa + i) = false
      ∧ walk s.mem 5 (s.root part) (va57 v) = some (e, lv, at_)
      ∧ ∀ a ∈ walkPath s.mem 5 (s.root part) (va57 v), a + 8 ≤ pa ∨ pa + n ≤ a

/-- There is an error log, in device memory, with room for a record, and the window of errors has not ended (R361, R362). -/
def LogReady (s : State) : Prop :=
  let base := (s.reg64 0x800).toNat
  base ≠ 0 ∧ base % 32 = 0 ∧ base + 16384 ≤ memSize ∧ s.root 16 = 0 ∧ s.errs.lost = none
    ∧ s.fabric.tlb = [] ∧ s.nanos < s.errs.start + s.errs.win * 1000000000 ∧ (s.reg 0x808 - s.reg 0x80C).toNat < 511 ∧ Memory.wf s.mem = true ∧ Tab.wf s.front.regs = true

/-- The step has written a record into the error log. -/
def Logged (s t : State) (ws : List Word) : Prop :=
  memRead t.mem ((s.reg64 0x800).toNat + 32 * ((s.reg 0x808).toNat % 512)) 32 = bytesOfWords ws
    ∧ t.reg 0x808 = s.reg 0x808 + 1

/-- The canonical form of memory, and the ranges of the package registers of R209. -/
def PackageInv (s : State) : Prop :=
  Memory.wf s.mem = true ∧ 1 ≤ s.migThresh.toNat ∧ s.migThresh.toNat ≤ 65535 ∧ 1 ≤ s.qIdle.toNat
    ∧ s.qIdle.toNat ≤ 10000 ∧ 100 ≤ s.wgTimer.toNat ∧ s.wgTimer.toNat ≤ 1000000

end Sys2Proof.Claims

open Sys2Proof Sys2Proof.Machine Sys2Proof.Claims

/-! ### Words -/

/-- R63, R70 to R79, R119: the word of an instruction that passes the checks of R79 in a context decodes in that
context to that instruction, with every field at every value. -/
def Obligations.DecodeOfEncode : Prop :=
  ∀ (x : Ctx) (i : Instr), i.wf x = true → ∃ w, encode i = some w ∧ decodeWord x w = .ok i

/-- R70, R79: a word that decodes is the one word of its instruction, and the instruction passes the checks. -/
def Obligations.EncodeOfDecode : Prop :=
  ∀ (x : Ctx) (w : IWord) (i : Instr), decodeWord x w = .ok i → encode i = some w ∧ i.wf x = true

/-- Words written out from the tables of R63, R70 to R72, R77 and R78 decode to the instructions they stand for:
`IADD w1, w2, w3` with GAP 4; `LD.b32.thr w4, [w2 + 16]`; `ICMP.lt p1, w0, 0x7`; `BR` back by one word;
`SPAWN s3, s0, s1, 0xFFFF_FFFF` in the shepherd, which a drove does not have. -/
def Obligations.SpecWordsDecode : Prop :=
  (decodeWord Ctx.drove 0x00020000_10010203_F0000000_00000000#128).toOption =
      some (.iadd { (default : Op) with ctl := { (default : Ctl) with gap := 4 }, d := .w 1, a := .w 2, b := .w 3, c := .zero })
  ∧ (decodeWord Ctx.drove 0x00000000_700402F0_F0000002_00000010#128).toOption =
      some (.ld { (default : Op) with d := .w 4, a := .w 2, b := .zero, c := .zero, mods := 2, imm := 16 })
  ∧ (decodeWord Ctx.drove 0x00000000_30C100F1_F0000002_00000007#128).toOption =
      some (.icmp { (default : Op) with d := .p 1, a := .w 0, b := .imm, c := .zero, mods := 2, imm := 7 })
  ∧ (decodeWord Ctx.drove 0x00000000_03F0F0F0_F0000000_FFFFFFFF#128).toOption =
      some (.br { (default : Op) with d := .zero, a := .zero, b := .zero, c := .zero, imm := 0xFFFFFFFF })
  ∧ (decodeWord Ctx.shepherd 0x00000000_C3030001_F1000000_FFFFFFFF#128).toOption =
      some (.spawn { (default : Op) with d := .s 3, a := .s 0, b := .s 1, c := .imm, imm := 0xFFFFFFFF })
  ∧ decodeWord Ctx.drove 0x00000000_C3030001_F1000000_FFFFFFFF#128 = .error .wrongAgent

/-- R79, R80, R306: the order of the checks. The all-zero word and opcode 0xFF fail first; then an opcode that no
instruction has, or that a level 2 launch lacks; then one that is not valid in the agent; every later check leaves those
outcomes alone. The second and the third speak of opcodes other than 0x02, which every level has and which is BLK's in a drove and
in the shepherd alike. Of checks 1 to 5, check 5 gives cause 0x02 and the others cause 0x01. -/
def Obligations.ChecksInOrder : Prop :=
  (∀ (x : Ctx) (w : IWord), w = 0 ∨ bits w 88 8 = 0xFF → decodeWord x w = .error .zeroOrFF)
  ∧ (∀ (x : Ctx) (w : IWord), w ≠ 0 → bits w 88 8 ≠ 0xFF → bits w 88 8 ≠ 0x02 →
      ofOpcode (bits w 88 8).toNat (decodeOp x.shep w) = none ∨ (x.level2 = true ∧ level3Only (bits w 88 8) = true) →
      decodeWord x w = .error .reservedOpcode)
  ∧ (∀ (x : Ctx) (w : IWord) (i : Instr) (p : Spec), w ≠ 0 → bits w 88 8 ≠ 0xFF → bits w 88 8 ≠ 0x02 →
      ofOpcode (bits w 88 8).toNat (decodeOp x.shep w) = some i → ¬(x.level2 = true ∧ level3Only (bits w 88 8) = true) →
      i.spec = some p → (if x.shep then p.shep else p.drove) = false → decodeWord x w = .error .wrongAgent)
  ∧ (∀ e : Reject, rejectCause e = if e = .badOperand then 0x02 else 0x01)

/-! ### Reset -/

/-- R7, R21, R209, R298, R313, R361, R383: the values that the manual gives for reset. No core holds anything, no launch
stands, READY is 0, every counter of cycles is 0, and the registers that have a reset value other than 0 hold it. Device
memory has its canonical form, the package registers are within their ranges; that an unlisted byte reads 0 is the model's
choice (log 2). -/
def Obligations.ResetState : Prop :=
  (State.reset.cycles = 0
  ∧ (∀ c, State.reset.core c = Core.empty) ∧ (∀ lid, State.reset.launch? lid = none)
  ∧ State.reset.isReady = false
  ∧ State.reset.reg 0x20018 = 7 ∧ State.reset.reg 0x2001C = 0 ∧ State.reset.reg 0x3010C = 100
  ∧ State.reset.reg 0x810 = 60 ∧ State.reset.reg 0x814 = 3 ∧ State.reset.reg 0x818 = 0x3FF
  ∧ State.reset.reg 0x81C = 0x4444 ∧ State.reset.reg 0x808 = 0 ∧ State.reset.reg 0x80C = 0
  ∧ (∀ n, n < 16 → State.reset.reg (0x400 + 32 * n) = 0 ∧ State.reset.reg (0x408 + 32 * n) = 0)
  ∧ State.reset.migThresh = 256 ∧ State.reset.qIdle = 50 ∧ State.reset.wgTimer = 2000)
  ∧ (Memory.wf State.reset.mem = true ∧ ∀ a, memGet State.reset.mem a = 0)
  ∧ (PackageInv State.reset)

/-! ### Memory -/

/-- Bytes written at an address are the bytes read there, every byte outside them reads as before, and the canonical form
is kept; two memories of canonical form that read alike at every address are the same list. -/
def Obligations.MemoryOperations : Prop :=
  (∀ (m : List Host.Cell) (a : Nat) (bs : List Byte), Memory.wf m = true →
    memRead (memWrite m a bs) a bs.length = bs
    ∧ (∀ x, x < a ∨ a + bs.length ≤ x → memGet (memWrite m a bs) x = memGet m x)
    ∧ Memory.wf (memWrite m a bs) = true)
  ∧ (∀ m n : List Host.Cell, Memory.wf m = true → Memory.wf n = true → (∀ a, memGet m a = memGet n a) → m = n)

/-- R5: a value of n bytes written at an address has its byte i, counted from the least significant, at the address plus i,
and reads back as the number it was; an instruction word holds its bits 32 k + 31 to 32 k in the four bytes from 4 k on. -/
def Obligations.ValuesAreLittleEndian : Prop :=
  (∀ (n v a : Nat) (m : List Host.Cell), Memory.wf m = true →
    (∀ i, i < n → memGet (memWrite m a (bytesLE n v)) (a + i) = BitVec.ofNat 8 (v / 256 ^ i))
    ∧ ofBytesLE (memRead (memWrite m a (bytesLE n v)) a n) = v % 256 ^ n)
  ∧ ∀ (k a : Nat) (m : List Host.Cell), k < 4 →
    (wordOfBytes (memRead m a 16)).extractLsb' (32 * k) 32 = word32 (memRead m (a + 4 * k) 4)

/-- Every step keeps the canonical form of device memory, and keeps the three package registers of R209 within their
ranges. -/
def Obligations.StepKeepsMemoryAndPackageRegisters : Prop :=
  ∀ s t : State, PackageInv s → step s = .next t → PackageInv t

/-! ### Steps -/

/-- No step stops the machine: in every state there is a next one. When no agent has been granted issue, the step is the event
at the head of the agenda, in a new cycle, after the time that passes, unless it meets a frame that is changing its bias (R326); where
the part is tripped, only the lease, the two masters and their commands and the measuring go on (R385). The agenda, and the cycle that
its events begin, are the model's choice (log 1). -/
def Obligations.StepsGoOn : Prop :=
  (∀ s : State, Safety.StepsOn s)
  ∧ (∀ (s : State) (i : Instr) (rest : List Sched), s.cur = none → s.agenda = .event i :: rest → isInstruction i = false →
    let u := { s.unblock.newCycle with agenda := rest }
    (s.fw.trip = false ∨ standby i = true → metBias (exec i u) = false → step s = exec i u)
    ∧ (s.fw.trip = true → standby i = false → step s = .next u))

/-- R64, R79, R122, R326, R363: where an agent has been granted issue, the word at its pc can be fetched and decodes to an
instruction, and no lane would read an uncorrectable register, the step is that instruction's, and the grant is used up; where one of
its accesses meets a frame that is changing its bias, it has no effect and its agent waits. Each lane of a drove that would read an
uncorrectable register is marked to park at this word with cause 0x10 and address zero, and the instruction runs for the others. -/
def Obligations.StepRunsTheDecodedInstruction : Prop :=
  ∀ (s s' : State) (r : AgentRef) (w : IWord) (i : Instr), s.cur = some r →
    s.unblock.fetchWord r.core (s.launchD (s.agentD r).lid) (s.agentD r).pc = (s', .ok w) →
    decodeWord ((s.launchD (s.agentD r).lid).ctx (s.agentD r).shep) w = .ok i →
    (s'.badLanes r i = [] →
      step s = match exec i s' with
        | .next t => .next (if t.fabric.blocked then s'.putOff r i else { t with cur := none })
        | .fault f => .fault f
        | .refused x => .refused x)
    ∧ ∀ a, s'.agent? r = some a → a.shep = false → s'.badLanes r i ≠ [] →
      (∀ x ∈ s'.badLanes r i, ∃ ln p, Tab.get? ((s'.meetBad r i).1.agentD r).lanes x.1 = some ln ∧ ln.parking = some p
        ∧ p.cause = 0x10 ∧ p.word = a.pc ∧ p.addr = 0)
      ∧ ((s'.meetBad r i).1.agentD r).pc = a.pc
      ∧ step s = match exec i (s'.meetBad r i).1 with
        | .next t => .next (if t.fabric.blocked then s'.putOff r i else { t with cur := none })
        | .fault f => .fault f
        | .refused x => .refused x

/-- R79, R80, R122, R210: a word that no cache holds is the sixteen bytes at its address in the image.
Where the word at the pc is no instruction, every lane of the agent that no park awaits traps with the cause of the check that failed, 0x02 for
check 5 and else 0x01; where it cannot be fetched, with the cause of the fetch and the word's address. In probe mode a reserved
opcode is a NOP with GAP 0: the step leaves the drove at the next word, and sets the probe flag of the threads whose guard holds; that
it looks at the shepherd's guard too is the model's choice (log 79). -/
def Obligations.FetchAndEncodingFaults : Prop :=
  ((∀ (s s' : State) (r : AgentRef) (w : IWord) (e : Reject), s.cur = some r →
    s.unblock.fetchWord r.core (s.launchD (s.agentD r).lid) (s.agentD r).pc = (s', .ok w) →
    decodeWord ((s.launchD (s.agentD r).lid).ctx (s.agentD r).shep) w = .error e →
    ¬(e = .reservedOpcode ∧ (s'.launchD (s'.agentD r).lid).probe = true) →
    step s = .next { s'.trapLanes r ((s'.agentD r).live.map fun l =>
      (l.1, if e = .badOperand then 0x02 else 0x01, 0, 0)) with cur := none })
  ∧ (∀ (s s' : State) (r : AgentRef) (cause : BitVec 8), s.cur = some r →
    s.unblock.fetchWord r.core (s.launchD (s.agentD r).lid) (s.agentD r).pc = (s', .error cause) →
    step s = .next { s'.trapLanes r ((s'.agentD r).live.map fun l => (l.1, cause, (s'.agentD r).pc, 4)) with
      cur := none }))
  ∧ (∀ (s s' : State) (r : AgentRef) (a : Agent) (w : IWord), s.cur = some r →
    s.unblock.fetchWord r.core (s.launchD (s.agentD r).lid) (s.agentD r).pc = (s', .ok w) →
    decodeWord ((s.launchD (s.agentD r).lid).ctx (s.agentD r).shep) w = .error .reservedOpcode →
    s'.agent? r = some a → (s'.launchD a.lid).probe = true →
    ∃ t, step s = .next t ∧ (t.agentD r).pc = a.pc + 16 ∧ (t.agentD r).lanes = a.lanes ∧ t.mem = s'.mem
    ∧ ∀ e ∈ a.lanes, e.2.parking = none → e.2.guard (decodeOp a.shep w).guard = true →
        (t.thread r.core a.lid (if a.shep then shepTid else e.2.tid)).probe = true)
  ∧ (∀ (s : State) (c : Nat) (l : Launch) (va e : DWord) (lv at_ : Nat), l.inCode va = true → canonical va = true →
    Tab.get? (s.core c).icache (icKey l.part va) = none → s.tlbHit? (some c) 5 l.part va (some (e, lv)) = none → s.fabric.walks = [] →
    s.walkLeaf l.part va = some (e, lv, at_) → pteKind e = 1 → pteX e = true →
    s.badRange (pteAddr e + va57 va % 2 ^ levelShift lv) 16 = false →
    s.hostBiased (pteAddr e + va57 va % 2 ^ levelShift lv) = false →
    (s.fetchWord c l va).2 =
      .ok (l.patch (chipOf c) va (wordOfBytes (memRead s.mem (pteAddr e + va57 va % 2 ^ levelShift lv) 16))))

/-! ### Results -/

/-- R64, R65, R68, R71, R75: the result of a class F4 instruction reaches its register four cycles after issue, in the lanes
whose guard held, and no other register of any lane changes; until then every register reads as before. The agent is at the
next word, its GAP obeyed; a result bound for 0xF0 is discarded, and no scoreboard counts it. -/
def Obligations.ResultsLand : Prop :=
  (∀ (s : State) (r : AgentRef) (a : Agent) (o : Op) (d : BitVec 6) (f : Env → Word), s.agent? r = some a →
    a.pending = [] → a.opnds = none → a.lanes.wf = true → o.d = .w d →
    let t := completed s r o .f4 1 fun e => .word (f e)
    (∀ now, now < s.cycles + 4 → ((t.agentD r).landDue now).lanes = a.lanes)
    ∧ ∀ (n : Nat) (ln : Lane), Tab.get? a.lanes n = some ln →
        ∃ ln', Tab.get? ((t.agentD r).landDue (s.cycles + 4)).lanes n = some ln'
          ∧ (∀ j, j ≠ d.toNat → Tab.get? ln'.w j = Tab.get? ln.w j) ∧ ln'.p = ln.p ∧ ln'.cw = ln.cw
          ∧ (ln.parking = none → ln.guard o.guard = true → ∃ e ∈ (s.latch r o).envs r o,
              e.n = n ∧ e.lane = ln ∧ Tab.get? ln'.w d.toNat = some (f e))
          ∧ (¬(ln.parking = none ∧ ln.guard o.guard = true) → Tab.get? ln'.w d.toNat = Tab.get? ln.w d.toNat))
  ∧ (∀ (s : State) (r : AgentRef) (a : Agent) (o : Op) (lat : Latency) (k : Nat) (f : Env → List Word), s.agent? r = some a →
    let b := (completed s r o lat k fun e => .of (f e)).agentD r
    b.pc = a.pc + 16 ∧ s.cycles + max o.ctl.gap.toNat 1 ≤ b.next ∧ b.lanes = a.lanes ∧ b.lid = a.lid
      ∧ b.blk = a.blk ∧ (o.d = .zero → b.pending = a.pending ∧ ∀ n, b.sb n = a.sb n))

/-- R89: what an instruction of groups 0x1_ to 0x5_ other than CVTB leaves alone where the launch has enabled no numeric
trap: memory, the host's registers, every launch, everything of the fabric and of the other cores, and on its own core
everything but its agent's bookkeeping, the holding register of a thread that reads CYCLELO, and the flags of the numeric
status word, to which flags are only added. No register of any lane changes before the result lands. -/
def Obligations.VectorArithmeticFrame : Prop :=
  ∀ (i : Instr) (s t : State) (r : AgentRef), isVectorArithmetic i = true → s.cur = some r →
    s.enables r.core (s.agentD r).lid = 0 → exec i s = .next t →
    t.mem = s.mem ∧ t.front = s.front ∧ t.launches = s.launches ∧ t.fabric = s.fabric ∧ t.errs = s.errs
    ∧ t.fw = s.fw ∧ t.parts = s.parts ∧ t.shadow = s.shadow ∧ t.shadowWas = s.shadowWas ∧ t.cycles = s.cycles
    ∧ (∀ c, c ≠ r.core → t.core c = s.core c)
    ∧ (∀ q, q ≠ r → t.agent? q = s.agent? q) ∧ (t.agentD r).lanes = (s.agentD r).lanes
    ∧ (t.core r.core).quads = (s.core r.core).quads ∧ (t.core r.core).queue = (s.core r.core).queue
    ∧ (t.core r.core).copies = (s.core r.core).copies ∧ (t.core r.core).l1 = (s.core r.core).l1
    ∧ (t.core r.core).outst = (s.core r.core).outst
    ∧ (∀ lid, { t.res r.core lid with num := 0, raised := (0, 0) } = { s.res r.core lid with num := 0, raised := (0, 0) })
    ∧ (∀ lid, (s.res r.core lid).num &&& (t.res r.core lid).num = (s.res r.core lid).num)
    ∧ (∀ c key th, Tab.get? (s.core c).threads key = some th →
      ∃ h, Tab.get? (t.core c).threads key = some { th with hold := h })

/-- R90 to R93: the results of the integer instructions of group 0x1_. Those without `.sat` give the low 32 bits of the exact
result and raise no flag; IADD, ISUB, IMUL and IMAD with `.sat` clamp the exact result, and a clamped one raises OF. IADDC
puts bit 32 of A + B + pN into pN, and ISUBB the borrow of A − B − pN; a thread whose guard fails writes neither. -/
def Obligations.IntegerResults : Prop :=
  (Yields .iadd wraps .f4 1 (fun o e => .word (e.a32 o + e.b32 o))
  ∧ Yields .isub wraps .f4 1 (fun o e => .word (e.a32 o - e.b32 o))
  ∧ Yields .imul wraps .f4 1 (fun o e => .word (e.a32 o * e.b32 o))
  ∧ Yields .imad wraps .f4 1 (fun o e => .word (e.a32 o * e.b32 o + e.c32 o))
  ∧ Yields .imulh anyForm .f4 1 (fun o e =>
      .word (((wide (o.mods.getLsbD 0) (e.a32 o) * wide (o.mods.getLsbD 0) (e.b32 o)) >>> 32).setWidth 32))
  ∧ Yields .imadw anyForm .f4 2 (fun o e =>
      .pair (wide (o.mods.getLsbD 0) (e.a32 o) * wide (o.mods.getLsbD 0) (e.b32 o) + e.c64 o))
  ∧ Yields .imin anyForm .f4 1 (fun o e =>
      .word (if leWord (o.mods.getLsbD 0) (e.a32 o) (e.b32 o) then e.a32 o else e.b32 o))
  ∧ Yields .imax anyForm .f4 1 (fun o e =>
      .word (if leWord (o.mods.getLsbD 0) (e.a32 o) (e.b32 o) then e.b32 o else e.a32 o))
  ∧ Yields .iabs anyForm .f4 1 (fun o e => .word (if (e.a32 o).msb then -(e.a32 o) else e.a32 o))
  ∧ Yields .isad anyForm .f4 1 (fun o e =>
      .word ((if leWord (o.mods.getLsbD 0) (e.a32 o) (e.b32 o) then e.b32 o - e.a32 o else e.a32 o - e.b32 o) + e.c32 o))
  ∧ Yields .iclamp anyForm .f4 1 (fun o e =>
      let m := if leWord (o.mods.getLsbD 0) (e.a32 o) (e.b32 o) then e.b32 o else e.a32 o
      .word (if leWord (o.mods.getLsbD 0) m (e.c32 o) then m else e.c32 o))
  ∧ Yields .lea anyForm .f4 2 (fun o e =>
      .pair (e.a64 o + (e.b32 o).signExtend 64 <<< (o.mods.extractLsb' 1 2).toNat)))
  ∧ (YieldsUntrapped .iadd saturates .f4 1 (fun o e => satOf o (num o (e.a32 o) + num o (e.b32 o)))
  ∧ YieldsUntrapped .isub saturates .f4 1 (fun o e => satOf o (num o (e.a32 o) - num o (e.b32 o)))
  ∧ YieldsUntrapped .imul saturates .f4 1 (fun o e => satOf o (num o (e.a32 o) * num o (e.b32 o)))
  ∧ YieldsUntrapped .imad saturates .f4 1 (fun o e =>
      satOf o (num o (e.a32 o) * num o (e.b32 o) + num o (e.c32 o))))
  ∧ (Yields .iaddc (fun o => namesPred o.c) .f4 1 (fun o e =>
    let v : BitVec 33 := (e.a32 o).setWidth 33 + (e.b32 o).setWidth 33 + (e.c32 o).setWidth 33
    carryOut o (v.setWidth 32) v.msb)
  ∧ Yields .isubb (fun o => namesPred o.c) .f4 1 (fun o e =>
    carryOut o (e.a32 o - e.b32 o - e.c32 o) (decide ((e.a32 o).toNat < (e.b32 o).toNat + (e.c32 o).toNat))))

/-- R49, R94: IDIV gives the quotient truncated towards zero and IREM gives A − B × quotient; on a zero divisor IDZ is set and,
with no trap enabled, IDIV writes 0xFFFF_FFFF and IREM writes A. With IDZE set, an active lane whose divisor is 0 traps with
cause 0x0E before it writes, and IDZ is set all the same; stated of a lone lane in a drove. -/
def Obligations.DivideAndRemainder : Prop :=
  (YieldsUntrapped .idiv anyForm .v 1 (fun o e =>
    if e.b32 o = 0 then { LaneRes.word 0xFFFFFFFF with flags := fIDZ }
    else .word (if o.mods.getLsbD 0 then (e.a32 o) / (e.b32 o) else (e.a32 o).sdiv (e.b32 o)))
  ∧ YieldsUntrapped .irem anyForm .v 1 (fun o e =>
    if e.b32 o = 0 then { LaneRes.word (e.a32 o) with flags := fIDZ }
    else .word (e.a32 o - e.b32 o *
      (if o.mods.getLsbD 0 then (e.a32 o) / (e.b32 o) else (e.a32 o).sdiv (e.b32 o)))))
  ∧ (∀ (i : Op → Instr) (o : Op) (s : State) (r : AgentRef) (e : Env), i = .idiv ∨ i = .irem → s.cur = some r →
    (s.latch r o).envs r o = [e] → e.b32 o = 0 → (s.enables r.core (s.agentD r).lid).getLsbD 21 = true →
    (s.agentD r).shep = false →
    exec (i o) s = .next ((((s.latch r o).raise r.core (s.agentD r).lid fIDZ).updAgent r
      fun a => a.issued s.cycles o.ctl .v (destRegs o.d 1) [] []).trapLanesAt r (s.agentD r).pc [(e.n, 0x0E, 0, 0)]))

/-- R95 to R98: the bit instructions; that BPERM follows the formula of R98, where its last example differs, is deduced (log
36). R77, R99: ICMP, CMP64 and FCMP write the condition, combined with source C. FCMP compares values, so that +0 equals −0,
and a NaN makes the conditions 0 to 6 false and 7 to 13 true. R100, R101, R102: moves, selections, predicate moves and the
arithmetic on pairs. -/
def Obligations.BitCompareAndMoveResults : Prop :=
  (Yields .and anyForm .f4 1 (fun o e => .word (e.a32 o &&& e.b32 o))
  ∧ Yields .or anyForm .f4 1 (fun o e => .word (e.a32 o ||| e.b32 o))
  ∧ Yields .xor anyForm .f4 1 (fun o e => .word (e.a32 o ^^^ e.b32 o))
  ∧ Yields .andn anyForm .f4 1 (fun o e => .word (e.a32 o &&& ~~~(e.b32 o)))
  ∧ Yields .shl anyForm .f4 1 (fun o e => .word (e.a32 o <<< shiftBy o (e.b32 o)))
  ∧ Yields .shr anyForm .f4 1 (fun o e => .word (e.a32 o >>> shiftBy o (e.b32 o)))
  ∧ Yields .shra anyForm .f4 1 (fun o e => .word ((e.a32 o).sshiftRight (shiftBy o (e.b32 o))))
  ∧ Yields .rotl anyForm .f4 1 (fun o e => .word ((e.a32 o).rotateLeft ((e.b32 o).toNat % 32)))
  ∧ Yields .bfx anyForm .f4 1 (fun o e => .word (fieldOf (e.a32 o) (e.b32 o)))
  ∧ Yields .bfi anyForm .f4 1 (fun o e => .word (fieldInto (e.a32 o) (e.b32 o) (e.c32 o)))
  ∧ Yields .popc anyForm .f4 1 (fun o e =>
      .word (BitVec.ofNat 32 ((List.range 32).countP fun i => (e.a32 o).getLsbD i)))
  ∧ Yields .clz anyForm .f4 1 (fun o e => .word (e.a32 o).clz)
  ∧ Yields .brev anyForm .f4 1 (fun o e => .word (e.a32 o).reverse)
  ∧ Yields .lut3 anyForm .f4 1 (fun o e => .word (fromBits (fun i =>
      o.imm.getLsbD ((if (e.a32 o).getLsbD i then 1 else 0) + (if (e.b32 o).getLsbD i then 2 else 0)
        + (if (e.c32 o).getLsbD i then 4 else 0))) 32))
  ∧ Yields .bperm anyForm .f4 1 (fun o e =>
      .word (permByte o.imm (e.a32 o) (e.b32 o) 3 ++ permByte o.imm (e.a32 o) (e.b32 o) 2
        ++ permByte o.imm (e.a32 o) (e.b32 o) 1 ++ permByte o.imm (e.a32 o) (e.b32 o) 0))
  ∧ Yields .fns anyForm .f4 1 (fun o e =>
      .word ((((List.range 32).filter fun i => (e.a32 o).getLsbD i)[(e.b32 o).toNat]?).elim 0xFFFFFFFF (BitVec.ofNat 32))))
  ∧ (Yields .icmp (fun o => o.mbits 0 4 ≤ 5) .f4 1 (fun o e =>
    .bool (combined o (if o.mods.getLsbD 4 then holdsOf (o.mbits 0 4) ((e.a32 o).ult (e.b32 o)) (e.a32 o == e.b32 o)
      else holdsOf (o.mbits 0 4) ((e.a32 o).slt (e.b32 o)) (e.a32 o == e.b32 o)) (e.c32 o)))
  ∧ Yields .cmp64 (fun o => o.mbits 0 4 ≤ 5) .f4 1 (fun o e =>
    .bool (combined o (if o.mods.getLsbD 4 then holdsOf (o.mbits 0 4) ((e.a64 o).ult (e.b64 o)) (e.a64 o == e.b64 o)
      else holdsOf (o.mbits 0 4) ((e.a64 o).slt (e.b64 o)) (e.a64 o == e.b64 o)) (e.c32 o)))
  ∧ Yields .fcmp (fun o => o.mbits 0 4 ≤ 13) .f4 1 (fun o e =>
    let x := f32 (e.a32 o)
    let y := f32 (e.b32 o)
    .bool (combined o (if x = .nan ∨ y = .nan then decide (7 ≤ o.mbits 0 4)
      else if o.mbits 0 4 = 6 then true else if o.mbits 0 4 = 7 then false
      else holdsOf (o.mbits 0 4 % 8) (x.lt y) (!x.lt y && !y.lt x)) (e.c32 o))))
  ∧ (Yields .sel anyForm .f4 1 (fun o e => .word (if e.c32 o = 0 then e.b32 o else e.a32 o))
  ∧ Yields .mov anyForm .f4 1 (fun o e => .word (e.a32 o))
  ∧ Yields .movi anyForm .f4 1 (fun o e => .word (e.a32 o))
  ∧ Yields .mov64 anyForm .f4 2 (fun o e => .pair (e.a64 o))
  ∧ Yields .sread anyForm .v 1 (fun o e => .word (e.a32 o))
  ∧ Yields .add64 anyForm .f4 2 (fun o e => .pair (e.a64 o + e.b64 o))
  ∧ Yields .sub64 anyForm .f4 2 (fun o e => .pair (e.a64 o - e.b64 o))
  ∧ Yields .shl64 anyForm .f4 2 (fun o e => .pair (e.a64 o <<< (e.b32 o).toNat))
  ∧ Yields .pset anyForm .f4 1 (fun o e =>
      .bool (o.imm.getLsbD ((if e.a32 o = 0 then 0 else 1) + (if e.b32 o = 0 then 0 else 2)
        + (if e.c32 o = 0 then 0 else 4))))
  ∧ Yields .pmov (fun o => namesPred o.d) .f4 1 (fun o e => .bool (decide (e.a32 o &&& e.b32 o ≠ 0)))
  ∧ Yields .pmov (fun o => !namesPred o.d) .f4 1 (fun o e =>
      .word ((fromBits e.lane.pD 8).setWidth 32 &&& e.a32 o)))

/-- R103, R104, R106, R117: FADD, FSUB, FMUL, FFMA, FSCALE and FDIV round the exact result once to FP32 in the mode of the
word, saturating where the word says so, with the flags of that rounding and NV for an invalid operation, where the launch
has enabled no numeric trap. R46: a number n ÷ d rounded to an integer is exact where d divides n; else it is the integer
below or the one above, by the rounding mode: the nearer one, the even one of two as near (mode 0) or the one away from zero
(mode 4); the one towards zero (mode 1), downwards (mode 2), upwards (mode 3). -/
def Obligations.FloatArithmeticResults : Prop :=
  (YieldsUntrapped .fadd anyForm .f4 1 (fun o e =>
    rounded o o.sat ((f32 (srcA o e)).add (o.rm == 2) (f32 (srcB o e))))
  ∧ YieldsUntrapped .fsub anyForm .f4 1 (fun o e =>
    rounded o o.sat ((f32 (srcA o e)).add (o.rm == 2) (f32 (srcB o e)).negate))
  ∧ YieldsUntrapped .fmul anyForm .f4 1 (fun o e => rounded o o.sat ((f32 (srcA o e)).mul (f32 (srcB o e))))
  ∧ YieldsUntrapped .ffma anyForm .f4 1 (fun o e =>
    let x := f32 (srcA o e)
    let y := f32 (srcB o e)
    let z := f32 (srcC o e)
    rounded o o.sat (if x = .nan ∨ y = .nan ∨ z = .nan then (.nan, 0)
      else if (x.mul y).2 ≠ 0 then (.nan, (x.mul y).2) else (x.mul y).1.add (o.rm == 2) z))
  ∧ YieldsUntrapped .fscale (fun _ => true) .f4 1 (fun o e =>
    rounded o o.sat ((f32 (srcA o e)).scale (max (-400) (min 400 (srcB o e).toInt)), 0))
  ∧ YieldsUntrapped .fdiv anyForm .v 1 (fun o e => rounded o false ((f32 (e.a32 o)).div (f32 (e.b32 o)))))
  ∧ (∀ (rm : Nat) (neg : Bool) (n d : Nat), 0 < d → rm ≤ 4 →
    let q := n / d
    let r := n % d
    (r = 0 → roundInt rm neg n d = (q, false))
    ∧ (r ≠ 0 → roundInt rm neg n d =
        (if rm = 0 then (if 2 * r < d ∨ (2 * r = d ∧ q % 2 = 0) then q else q + 1)
         else if rm = 1 then q
         else if rm = 2 then (if neg then q + 1 else q)
         else if rm = 3 then (if neg then q else q + 1)
         else if 2 * r < d then q else q + 1, true)))

/-- R105, R107: FMIN and FMAX give one of their operands unchanged, the number where the other is NaN and the canonical NaN
where both are, −0 counting below +0; FCLASS sets the bit of its operand's class; FRND leaves NaN canonical, an infinity and
an integral value as it is. None raises a flag, whatever the launch has enabled. FRCP, FRSQ, FSQRT, FEX2, FLG2, FSIN and
FCOS (R106) complete with the value of R106, where no numeric trap is enabled. -/
def Obligations.FloatSelectionAndFunctionResults : Prop :=
  Yields .fmin anyForm .f4 1 (fun o e => .word (fpick false (srcA o e) (srcB o e)))
  ∧ Yields .fmax anyForm .f4 1 (fun o e => .word (fpick true (srcA o e) (srcB o e)))
  ∧ (∀ a b : Word, f32 a ≠ .nan → f32 b ≠ .nan →
      (fpick false a b = a ∨ fpick false a b = b) ∧ (f32 b).lt (f32 (fpick false a b)) = false
      ∧ (f32 a).lt (f32 (fpick false a b)) = false
      ∧ (fpick true a b = a ∨ fpick true a b = b) ∧ (f32 (fpick true a b)).lt (f32 b) = false
      ∧ (f32 (fpick true a b)).lt (f32 a) = false)
  ∧ (∀ (m : Bool) (a b : Word), f32 a = .nan → fpick m a b = if f32 b = .nan then 0x7FC00000 else b)
  ∧ (∀ (m : Bool) (a b : Word), f32 b = .nan → fpick m a b = if f32 a = .nan then 0x7FC00000 else a)
  ∧ (fpick false 0 0x80000000 = 0x80000000 ∧ fpick false 0x80000000 0 = 0x80000000 ∧ fpick true 0 0x80000000 = 0
      ∧ fpick true 0x80000000 0 = 0)
  ∧ Yields .fclass anyForm .f4 1 (fun o e => .word (fclass (srcA o e)))
  ∧ Yields .frnd anyForm .f4 1 (fun o e => .word (frnd o.rm.toNat (srcA o e)))
  ∧ (∀ a : Word,
      let zero := a.extractLsb' 0 23 = 0
      fclass a = 1#32 <<< (if a.extractLsb' 23 8 = 255 then (if zero then (if a.msb then 0 else 7) else 8)
        else if a.extractLsb' 23 8 = 0 then (if zero then (if a.msb then 3 else 4) else if a.msb then 2 else 5)
        else if a.msb then 1 else 6))
  ∧ (∀ (rm : Nat) (a : Word), f32 a = .nan → frnd rm a = 0x7FC00000)
  ∧ (∀ (rm : Nat) (a : Word) (neg : Bool), f32 a = .inf neg → frnd rm a = a)
  ∧ (∀ (rm : Nat) (a : Word) (neg : Bool) (n d : Nat), f32 a = .fin neg n d → n % d = 0 → frnd rm a = a)
  ∧ YieldsUntrapped .frcp anyForm .v 1 (fun o e => .flagged (frcp o.rm.toNat (srcA o e)))
  ∧ YieldsUntrapped .frsq anyForm .v 1 (fun o e => .flagged (frsq o.rm.toNat (srcA o e)))
  ∧ YieldsUntrapped .fsqrt anyForm .v 1 (fun o e => .flagged (fsqrt o.rm.toNat (srcA o e)))
  ∧ YieldsUntrapped .fex2 anyForm .v 1 (fun o e => .flagged (fex2 o.rm.toNat (srcA o e)))
  ∧ YieldsUntrapped .flg2 anyForm .v 1 (fun o e => .flagged (flg2 o.rm.toNat (srcA o e)))
  ∧ YieldsUntrapped .fsin anyForm .v 1 (fun o e => .flagged (fsin o.rm.toNat (srcA o e)))
  ∧ YieldsUntrapped .fcos anyForm .v 1 (fun o e => .flagged (fcos o.rm.toNat (srcA o e)))

/-- R109 to R113, R116, R118: the conversions, packed operations, dot products, logarithmic operations and dequantising of
group 0x5_ act on the elements of their registers, each rounded once, where the launch has enabled no numeric trap. -/
def Obligations.NarrowResults : Prop :=
  YieldsUntrapped .cvt anyForm .f6 1 (fun o e =>
    cvtWord o.fmt2 o.fmt.toNat o.rm.toNat o.sat (e.a32 o) (e.b32 o) (e.c32 o))
  ∧ YieldsUntrapped .pkadd anyForm .f6 1 (fun o e =>
    elementwise o (fun x y _ _ _ => arith o.fmt.toNat o.rm.toNat o.sat (x.add (o.rm == 2) y)) e)
  ∧ YieldsUntrapped .pkmul anyForm .f6 1 (fun o e =>
    elementwise o (fun x y _ _ _ => arith o.fmt.toNat o.rm.toNat o.sat (x.mul y)) e)
  ∧ YieldsUntrapped .pkfma anyForm .f6 1 (fun o e =>
    elementwise o (fun x y z _ _ => arith o.fmt.toNat o.rm.toNat o.sat
      (if x = .nan ∨ y = .nan ∨ z = .nan then (.nan, 0)
       else if (x.mul y).2 ≠ 0 then (.nan, (x.mul y).2) else (x.mul y).1.add (o.rm == 2) z)) e)
  ∧ YieldsUntrapped .pkmin anyForm .f6 1 (fun o e =>
    elementwise o (fun x y _ a b => (pickCode false ((nanCode o.fmt.toNat).getD 0) x y a b, 0)) e)
  ∧ YieldsUntrapped .pkmax anyForm .f6 1 (fun o e =>
    elementwise o (fun x y _ a b => (pickCode true ((nanCode o.fmt.toNat).getD 0) x y a b, 0)) e)
  ∧ YieldsUntrapped .dot4 (fun o => (ifmt o.fmt.toNat).isSome && (ifmt o.fmt2).isSome) .f6 1 (fun o e =>
    .word (intDot o.fmt.toNat o.fmt2 4 0 e o))
  ∧ YieldsUntrapped .dot8 (fun o => (ifmt o.fmt.toNat).isSome && (ifmt o.fmt2).isSome) .f6 1 (fun o e =>
    .word (intDot o.fmt.toNat o.fmt2 8 0 e o))
  ∧ YieldsUntrapped .dot4 (fun o => !((ifmt o.fmt.toNat).isSome && (ifmt o.fmt2).isSome)) .f6 1 (fun o e =>
    .flagged (arith32 0 false (sumOfProducts [f32 (e.c32 o)] (pairsOf o.fmt.toNat o.fmt2 4 0 e o))))
  ∧ YieldsUntrapped .dot8 (fun o => !((ifmt o.fmt.toNat).isSome && (ifmt o.fmt2).isSome)) .f6 1 (fun o e =>
    .flagged (arith32 0 false (sumOfProducts [f32 (e.c32 o)] (pairsOf o.fmt.toNat o.fmt2 8 0 e o))))
  ∧ YieldsUntrapped .tdot anyForm .f6 1 (fun o e =>
    { LaneRes.word (intDot 15 o.fmt2 (perReg o.fmt2) (o.group * perReg o.fmt2) e o) with
      flags := if (List.range (perReg o.fmt2)).any fun k =>
          (decodeElem 15 (elemOf 15 (e.a32 o) (o.group * perReg o.fmt2 + k))).2
            || (decodeElem o.fmt2 (elemOf o.fmt2 (e.b32 o) k)).2 then fINVCODE else 0 })
  ∧ YieldsUntrapped .lnsm anyForm .f6 1 (fun o e =>
    elementwise o (fun _ _ _ a b => roundVal o.fmt.toNat 0 true (lnsProduct o.fmt.toNat o.fmt.toNat a b)) e)
  ∧ YieldsUntrapped .lnsa anyForm .f6 1 (fun o e =>
    elementwise o (fun x y _ _ _ => roundVal o.fmt.toNat o.rm.toNat true (x.add (o.rm == 2) y).1) e)
  ∧ Yields .rngk anyForm .f6 1 (fun o e =>
    let x := (e.a32 o ^^^ e.b32 o) * 0x9E3779B1#32
    let y := (x ^^^ (x >>> 15)) * 0x85EBCA77#32
    .word (y ^^^ (y >>> 13)))
  ∧ YieldsUntrapped .cvtd anyForm .v 1 (fun o e =>
    .flagged (cvtd o.fmt.toNat o.rm.toNat (e.a32 o) (e.b32 o) (e.c32 o)))

/-- R26: the elements of a register are those it was packed from, each in its own field. R114, R115: a CVTB in a team block
whose blocks hold no outlier, or that asks for the scales, writes each active member's word, appends to no outlier list and
touches no memory. -/
def Obligations.PackedElementsAndQuantising : Prop :=
  (∀ (f : Nat) (codes : List Nat) (i : Nat), f < 32 → elemFmt f ≠ 16 → codes.length = perReg f → i < codes.length →
    elemOf f (packElems f codes) i = codes.getD i 0 % 2 ^ elemBits f)
  ∧ (∀ (o : Op) (s : State) (r : AgentRef), s.cur = some r → (s.agentD r).team = true →
    (∃ b ∈ cvtBlocks o ((s.latch r o).envs r o), b.mem ≠ []) →
    (o.group = 1 ∨ ∀ b ∈ cvtBlocks o ((s.latch r o).envs r o), b.res.outs = []) →
    ∃ t, exec (.cvtb o) s = .next t
      ∧ t.agentD r = (s.agentD r).issued s.cycles o.ctl .v (destRegs o.d 1)
          ((cvtBlocks o ((s.latch r o).envs r o)).flatMap fun b =>
            b.mem.flatMap fun m => destWrites m.2.n o.d [cvtResult o b b.res.codes m.1]) []
      ∧ t.mem = s.mem ∧ t.launches = s.launches
      ∧ ∀ lid, (t.res r.core lid).outlier = (s.res r.core lid).outlier)

/-! ### Teams -/

/-- R131, R132: the shuffles read A of the active member that they name, and of the own lane where it is not active. R133:
the votes and masks over the active members of the lane's own team. R50, R51, R134: TRED and TSCAN combine the active
members' values in the fixed tree, where no numeric trap is enabled; an inactive member counts as EMPTY, and the two
combinations of EMPTY with a value give the value. -/
def Obligations.TeamResults : Prop :=
  (TeamYields .shfl (fun _ => 1) (fun o es e => fromMember o es e (e.b32 o).toNat)
  ∧ TeamYields .shflu (fun _ => 1) (fun o es e =>
      if e.member < (e.b32 o).toNat then .word (e.a32 o) else fromMember o es e (e.member - (e.b32 o).toNat))
  ∧ TeamYields .shfld (fun _ => 1) (fun o es e => fromMember o es e (e.member + (e.b32 o).toNat))
  ∧ TeamYields .shflx (fun _ => 1) (fun o es e => fromMember o es e (e.member ^^^ (e.b32 o).toNat)))
  ∧ (TeamYields .vall (fun _ => 1) (fun o es _ => .bool (es.all fun x => x.a32 o != 0))
  ∧ TeamYields .vany (fun _ => 1) (fun o es _ => .bool (es.any fun x => x.a32 o != 0))
  ∧ TeamYields .ballot State.curMask (fun o es e => maskWords e es fun x => x.a32 o != 0)
  ∧ TeamYields .matchT State.curMask (fun o es e => maskWords e es fun x => x.a32 o == e.a32 o)
  ∧ TeamYields .elect (fun _ => 1) (fun _ es e => .bool (!es.any fun x => decide (x.member < e.member))))
  ∧ (TeamYieldsUntrapped .tred (fun o es e =>
    let x := redTree (o.mbits 0 4) o.rm.toNat (Nat.log2 e.l.teamW) (teamVals o e.l.teamW es)
    .flagged (x.1.getD 0, x.2))
  ∧ TeamYieldsUntrapped .tscan (fun o es e =>
    let pre := fun (m : Nat) => redPrefix (o.mbits 0 4) o.rm.toNat (teamVals o e.l.teamW es) 8 0 m (none, 0)
    let upTo := fun (x : Env) => if o.mods.getLsbD 4 then x.member else x.member + 1
    .flagged ((pre (upTo e)).1.getD (redIdentity (o.mbits 0 4)), es.foldl (fun w x => w ||| (pre (upTo x)).2) 0))
  ∧ (∀ (op rm : Nat) (v : Option Word) (f g : Word),
      redCombine op rm (none, f) (v, g) = (v, f ||| g) ∧ redCombine op rm (v, f) (none, g) = (v, f ||| g))
  ∧ (∀ (rm : Nat) (x y : Word) (f g : Word), redCombine 0 rm (some x, f) (some y, g) = (some (x + y), f ||| g)))

/-- R136, R137: TVOTE in a team block, with one active lane, whose tile's vector is held, no SCOND waiting for the older of
the two, and no load still to be checked by race detection: the vote's bit is or-ed into the vector of the captured tile,
whose count of votes rises by one; the lane completes. R137: TVOTE outside a team block traps every lane of the drove that no
park awaits with cause 0x01. -/
def Obligations.TeamVote : Prop :=
  (∀ (o : Op) (s : State) (r : AgentRef) (e : Env), s.cur = some r → (s.latch r o).envs r o = [e] →
    (s.agentD r).team = true → (e.a32 o).toNat < 64 → (∀ x ∈ (s.core r.core).late, x.log = false) →
    ((s.agentD r).tn = (s.res r.core (s.agentD r).lid).tn
      ∨ ((s.res r.core (s.agentD r).lid).tn ≠ 0 ∧ (s.agentD r).tn = (s.res r.core (s.agentD r).lid).tn - 1
        ∧ ∀ q ∈ (s.core r.core).agents, ∀ c, q.2.wait ≠ some (.scond c))) →
    let n := (s.agentD r).tn.toNat
    let v := Tab.getD (s.res r.core (s.agentD r).lid).votes n { vec := 0, count := 0 }
    ∃ t, exec (.tvote o) s = .next t ∧ t.mem = s.mem
      ∧ Tab.getD (t.res r.core (s.agentD r).lid).votes n { vec := 0, count := 0 } =
          { vec := if e.b32 o = 0 then v.vec else v.vec ||| (1#64 <<< (e.a32 o).toNat), count := v.count + 1 }
      ∧ (∀ m, m ≠ n → Tab.get? (t.res r.core (s.agentD r).lid).votes m = Tab.get? (s.res r.core (s.agentD r).lid).votes m)
      ∧ (t.agentD r).pc = (s.agentD r).pc + 16)
  ∧ (∀ (o : Op) (s : State) (r : AgentRef), s.cur = some r → (s.agentD r).team = false →
    exec (.tvote o) s = .next ((s.latch r o).trapLanes r ((s.agentD r).live.map fun l => (l.1, 0x01, 0, 4))))

/-! ### Memory -/

/-- R154, R155, R157, R158, R236, R238, R241: a load by one active lane from device memory that no store of its core holds back
(R245). A relaxed one issues, and takes its
value when it performs, which that and what `LoadsLater` and `Core.late` hold of it read from R241 (log 74); one that acquires takes
it as it issues. What it sees are its core's own stores that are not yet
performed, else the L1's copy or memory, and at chip scope or wider, or under policy 3, memory. LDK loads from the argument
buffer at the launch record's ARGS plus the scratchpad form of its address. Memory and the core's outstanding stores stay
as they are. PREF changes no value and parks no thread. -/
def Obligations.LoadsFromDeviceMemory : Prop :=
  (∀ (o : Op) (s : State) (r : AgentRef) (e : Env) (pa : Nat), Lone s r o e → o.size ≤ 4 → o.mbit 6 = false →
    Reaches e (e.gaddr o) o.bytes Acc.read pa → LoadGoes s r o →
    ∃ x, LoadsLater (.ld o) o s r e ((o.bytes + 3) / 4) x ∧ x.loc = .dev pa ∧ x.n = o.bytes ∧ x.sext = o.mbit 3
      ∧ x.scope = o.scope.toNat ∧ x.keep = (o.mbits 4 2 != 3) ∧ x.arg = false)
  ∧ (∀ (o : Op) (s : State) (r : AgentRef) (e : Env) (pa : Nat), Lone s r o e → o.size ≤ 4 → o.mbit 6 = true →
    Reaches e (e.gaddr o) o.bytes Acc.read pa → pa % 32 + o.bytes ≤ 32 → Tab.wf (s.core r.core).l1 = true →
    (s.core r.core).late = [] → s.hostBiased pa = false → LoadGoes s r o →
    ∃ bs, Sees s r.core pa o.bytes (decide (3 ≤ o.scope.toNat) || o.mbits 4 2 == 3) bs
      ∧ Ends (.ld o) o s r e ((o.bytes + 3) / 4) (loadWords o.bytes (o.mbit 3) bs) fun t =>
        t.mem = s.mem ∧ (t.core r.core).outst = (s.core r.core).outst)
  ∧ (∀ (o : Op) (s : State) (r : AgentRef) (e : Env) (pa : Nat), Lone s r o e → 2 ≤ o.size → o.size ≤ 4 →
    (e.saddr o).toNat % o.bytes = 0 → (e.saddr o).toNat < 65536 →
    Reaches e (e.l.rec64 4 + (e.saddr o).setWidth 64) o.bytes Acc.read pa →
    (∀ x ∈ (s.core r.core).late, x.id < (s.core r.core).nextOut) →
    ∃ x, LoadsLater (.ldk o) o s r e (o.bytes / 4) x ∧ x.loc = .dev pa ∧ x.n = o.bytes ∧ x.sext = false ∧ x.scope = 0
      ∧ x.keep = true ∧ x.arg = true)
  ∧ (∀ (core pa : Nat) (s : State) (x : Late) (a : Agent) (p : Pend), (s.core core).late = [x] → x.loc = .dev pa →
    pa % 32 + x.n ≤ 32 → (∀ y ∈ (s.core core).outst, y.id ≠ x.id) → s.phase ≤ turnRank 5 0 0 0 →
    Tab.wf (s.core core).l1 = true → (x.arg = true → (s.launchD x.lid).argNew = false) → x.log = false → s.hostBiased pa = false →
    s.agent? ⟨core, x.ag⟩ = some a → a.pending = [p] → p.await = [loadKey x.id] →
    ∃ t bs, exec (.accessPerformed core x.id) s = .next t ∧ Sees s core pa x.n (!x.keep || decide (3 ≤ x.scope)) bs
      ∧ t.mem = s.mem ∧ (t.core core).late = [] ∧ (t.core core).outst = (s.core core).outst
      ∧ t.agent? ⟨core, x.ag⟩ = some { a with pending := [{ p with
          await := [], writes := p.writes ++ x.dst.zipWith (fun g v => { lane := x.lane, reg := g, val := v })
            (loadWords x.n x.sext bs) }] })
  ∧ ∀ (o : Op) (s : State) (r : AgentRef) (a : Agent), s.cur = some r → s.agent? r = some a → o.d = .zero →
    ∃ t, exec (.pref o) s = .next t ∧ Keeps s t r
    ∧ t.agentD r = (s.agentD r).issued s.cycles o.ctl .f4 [] [] [] ∧ t.mem = s.mem
    ∧ (t.core r.core).outst = (s.core r.core).outst
    ∧ ∀ k x, Tab.get? (s.core r.core).l1 k = some x → x.dirty = true → Tab.get? (t.core r.core).l1 k = some x

/-- R150, R154, R155, R238: a store by one active lane to device memory, where its core has no load to come. It is visible on
its own core at once, at the bytes it stores and nowhere else; it is one more outstanding store of that core, to be
performed later; memory, every other core and every other outstanding store stay as they are. -/
def Obligations.StoresToDeviceMemory : Prop :=
  ∀ (o : Op) (s : State) (r : AgentRef) (e : Env) (pa : Nat), Lone s r o e → o.size ≤ 4 → o.d = .zero →
    (s.core r.core).late = [] → Reaches e (e.gaddr o) o.bytes Acc.write pa →
    holdOf (s.envs r o) (storeHeld (o.mbit 6) (fun e => e.gaddr o) s) = none →
    Ends (.st o) o s r e 0 [] fun t =>
      (∀ x, Tab.get? (t.core r.core).l1 x = if pa ≤ x ∧ x < pa + o.bytes
        then some { val := (e.rdBytes o o.b o.bytes).getD (x - pa) 0, dirty := true } else Tab.get? (s.core r.core).l1 x)
      ∧ t.mem = s.mem ∧ (∀ c, c ≠ r.core → t.core c = s.core c)
      ∧ (t.core r.core).outst = (s.core r.core).outst ++ [{
          id := (s.core r.core).nextOut, lid := (s.agentD r).lid, tid := if (s.agentD r).shep then none else some e.lane.tid
          loc := .dev pa, bytes := e.rdBytes o o.b o.bytes, scope := o.scope.toNat
          rel := o.mbit 6 && decide (3 ≤ o.scope.toNat), rec_ := none }]

/-- R154, R163: a load, a store or an atomic at an address that is not a multiple of its size traps its lane with cause
0x04 and the address, before any translation, and touches nothing. -/
def Obligations.AlignmentIsChecked : Prop :=
  ∀ (o : Op) (s : State) (r : AgentRef) (e : Env) (i : Op → Instr) (n k : Nat) (acc : Acc)
    (held : (Env → DWord) → State → Env → Option (List (Nat × Nat))), Lone s r o e →
    s.fabric.biasJob = none → (s.agentD r).shep = false →
    (i = .ld ∧ n = o.bytes ∧ k = (n + 3) / 4 ∧ acc = Acc.read ∧ held = loadHeld n o.scope.toNat
      ∨ i = .st ∧ n = o.bytes ∧ k = 0 ∧ acc = Acc.write ∧ o.size ≤ 4 ∧ held = storeHeld (o.mbit 6)
      ∨ (i = .atom ∨ i = .atomc) ∧ n = (if o.mbit 4 then 8 else 4) ∧ k = n / 4 ∧ acc = Acc.rmw
        ∧ held = atomHeld n o.scope.toNat (atomRel o)
      ∨ i = .red ∧ n = (if o.mbit 4 then 8 else 4) ∧ k = 0 ∧ acc = Acc.rmw ∧ held = atomHeld n o.scope.toNat (atomRel o)) →
    holdOf (s.envs r o) (held (fun e => e.gaddr o) s) = none →
    (e.gaddr o).toNat % n ≠ 0 →
    exec (i o) s = .next (((s.latch r o).updAgent r fun a => a.issued s.cycles o.ctl .v (destRegs o.d k) [] []).trapLanesAt r
      (s.agentD r).pc [(e.n, 0x04, e.gaddr o, acc.code)])

/-- R163, R164: an atomic by one active lane on device memory not in host bias, outside every completion block and race log, of a core
that has no load or store outstanding, settled none in this cycle where the atomic releases, and holds no flags that its release would merge, reads the old
value of the location and writes the new one in one step: the bytes of the location hold `atomNew` of the old value, every
other byte of memory is unchanged, and ATOM and ATOMC return the old value. ATOMC exchanges where B equals it. The last
clause says what each code writes for the old value x and the source b of w bits. -/
def Obligations.AtomicsOnDeviceMemory : Prop :=
  (∀ (o : Op) (s : State) (r : AgentRef) (e : Env) (i : Op → Instr) (op pa : Nat) (ret : Bool), Lone s r o e →
    (i = .atom ∧ op = o.mbits 0 4 ∧ ret = true ∨ i = .atomc ∧ op = 14 ∧ ret = true
      ∨ i = .red ∧ op = o.mbits 0 4 ∧ ret = false ∧ o.d = .zero) →
    (s.core r.core).outst = [] → (s.core r.core).late = [] → Memory.wf s.mem = true → s.errs.bad = [] →
    (atomRel o = true → 3 ≤ o.scope.toNat → s.mergeFlags r.core (s.agentD r).lid = s) → s.hostBiased pa = false →
    let n := if o.mbit 4 then 8 else 4
    let val := fun (x : Opnd) => if o.mbit 4 then (e.rd64 o x).toNat else (e.rd o x).toNat
    holdOf (s.envs r o) (atomHeld n o.scope.toNat (atomRel o) (fun e => e.gaddr o) s) = none →
    let old := ofBytesLE (memRead s.mem pa n)
    let after := memWrite s.mem pa (bytesLE n (atomNew op (8 * n) old (val o.b) (val o.c)))
    Reaches e (e.gaddr o) n Acc.rmw pa → Ordinary { s with mem := after } pa n →
    Ends (i o) o s r e (if ret then n / 4 else 0) (if ret then wordsOf (n / 4) (memRead s.mem pa n) else []) fun t =>
      memRead t.mem pa n = bytesLE n (atomNew op (8 * n) old (val o.b) (val o.c))
      ∧ (∀ x, x < pa ∨ pa + n ≤ x → memGet t.mem x = memGet s.mem x) ∧ (t.core r.core).outst = [])
  ∧ ∀ w x b c : Nat, x < 2 ^ w → b < 2 ^ w →
    atomNew 0 w x b c = (x + b) % 2 ^ w ∧ atomNew 1 w x b c = min x b ∧ atomNew 2 w x b c = max x b
    ∧ (0 < w → (BitVec.ofNat w (atomNew 3 w x b c)).toInt = min (BitVec.ofNat w x).toInt (BitVec.ofNat w b).toInt)
    ∧ (0 < w → (BitVec.ofNat w (atomNew 4 w x b c)).toInt = max (BitVec.ofNat w x).toInt (BitVec.ofNat w b).toInt)
    ∧ atomNew 5 w x b c = x &&& b ∧ atomNew 6 w x b c = x ||| b ∧ atomNew 7 w x b c = x ^^^ b ∧ atomNew 8 w x b c = b
    ∧ atomNew 12 w x b c = (if b ≤ x then 0 else x + 1)
    ∧ atomNew 13 w x b c = (if x = 0 ∨ b < x then b else x - 1)
    ∧ atomNew 14 w x b c = if x = b then c else x

/-- R151, R152, R154, R156, R166: an access by one active lane to the scratchpad that passes the checks of R152 and finds no
uncorrectable word there, on a core with no load to come and no release fence outstanding, reads or writes the bytes at its core and offset; LDSX and STSX, whose base is a tile page, exchange a word of the tile. A store
changes its own bytes alone; a load changes none. An atomic that releases beyond its core comes after the core's stores, in a later
cycle than the last of them (R242, R250). -/
def Obligations.ScratchpadAccesses : Prop :=
  ∀ (o : Op) (s : State) (r : AgentRef) (e : Env) (core off : Nat), Lone s r o e →
    let lid := (s.agentD r).lid
    (s.core r.core).late = [] → (∀ x ∈ (s.core r.core).outst, x.bytes ≠ []) → (s.res core lid).bad = [] →
    let quiet := atomRel o = true → 3 ≤ o.scope.toNat → s.storesBefore r = false ∧ (s.core r.core).settledAt ≠ some s.cycles
      ∧ s.mergeFlags r.core lid = s
    let same := fun (t : State) (n : Nat) (bs : List Byte) => t.mem = s.mem ∧ ∀ c' x, t.scratchByte c' lid x =
      if c' = core ∧ off ≤ x ∧ x < off + n then bs.getD (x - off) 0 else s.scratchByte c' lid x
    let tile := e.l.tilePage (e.saddr o).toNat = true
    let word := fun (w : Word) => e.saddr o + BitVec.ofNat 32 (4 * (if o.mbit 6
      then w.toNat / 256 % 32 * 32 + w.toNat % 32 else w.toNat % 32 * 32 + w.toNat / 256 % 32))
    let n := if o.mbit 4 then 8 else 4
    let val := fun (x : Opnd) => if o.mbit 4 then (e.rd64 o x).toNat else (e.rd o x).toNat
    let new := fun (op : Nat) => bytesLE n (atomNew op (8 * n) (ofBytesLE (s.scratchRead core lid off n)) (val o.b) (val o.c))
    ((e.s.scrCheck r.core lid true (e.saddr o) o.bytes = .ok (core, off) → o.size ≤ 4 →
        Ends (.lds o) o s r e ((o.bytes + 3) / 4) (loadWords o.bytes (o.mbit 3) (s.scratchRead core lid off o.bytes))
          fun t => same t 0 [])
    ∧ (e.s.scrCheck r.core lid true (e.saddr o) o.bytes = .ok (core, off) → o.size ≤ 4 → o.d = .zero →
        Ends (.sts o) o s r e 0 [] fun t => same t o.bytes (e.rdBytes o o.b o.bytes))
    ∧ (tile → e.s.scrCheck r.core lid false (word (e.b32 o)) 4 = .ok (core, off) →
        Ends (.ldsx o) o s r e 1 (wordsOf 1 (s.scratchRead core lid off 4)) fun t => same t 0 [])
    ∧ (tile → e.s.scrCheck r.core lid false (word (e.c32 o)) 4 = .ok (core, off) → o.d = .zero →
        Ends (.stsx o) o s r e 0 [] fun t => same t 4 (bytes32 (e.b32 o)))
    ∧ (e.s.scrCheck r.core lid false (e.saddr o) n = .ok (core, off) → quiet →
        Ends (.atoms o) o s r e (n / 4) (wordsOf (n / 4) (s.scratchRead core lid off n)) fun t => same t n (new (o.mbits 0 4)))
    ∧ (e.s.scrCheck r.core lid false (e.saddr o) n = .ok (core, off) → quiet →
        Ends (.atomsc o) o s r e (n / 4) (wordsOf (n / 4) (s.scratchRead core lid off n)) fun t => same t n (new 14))
    ∧ (e.s.scrCheck r.core lid false (e.saddr o) n = .ok (core, off) → quiet → o.d = .zero →
        Ends (.reds o) o s r e 0 [] fun t => same t n (new (o.mbits 0 4))))

/-! ### Copies and streams -/

/-- R162, R179, R180, R182: a copy that passes the checks at issue, by one active lane of a core with a free slot, takes a
slot and is in flight, with its operands as the instruction gave them, no flag in its status word, and what the thread's own
stores have left behind on the paths that no XFENCE has joined (R182). Its destination quad is its promise, not before 32
cycles from now, its ticket and 0; LDGS writes no register. Nothing moves yet: memory and what the launch holds on the
core stay as they are. -/
def Obligations.CopiesBegin : Prop :=
  ∀ (o : Op) (s : State) (r : AgentRef) (e : Env), Lone s r o e →
    ((s.core r.core).copies.filter fun x => x.2.live).length < 512 →
    let begun := fun (i : Instr) (ret : Bool) (kind : BitVec 8) (src : DWord) (dst arg : Word) (desc : List Word)
        (bell : Option Nat) =>
      ∃ slot gen p : Nat, s.count r.core + 32 ≤ p ∧
        Ends i o s r e (if ret then 4 else 0)
          (if ret then [BitVec.ofNat 32 p, BitVec.ofNat 32 (p / 2 ^ 32), BitVec.ofNat 32 (slot + 512 * (gen % 2 ^ 23)), 0]
           else []) fun t =>
          t.mem = s.mem ∧ (∀ lid, t.res r.core lid = s.res r.core lid)
          ∧ Tab.get? (t.core r.core).copies slot = some {
              live := true, lid := (s.agentD r).lid, gen, kind, src, dst, arg, desc, bell, issued := s.cycles
              pc := (s.agentD r).pc, tid := if (s.agentD r).shep then none else some e.lane.tid, landed := false
              failed := false, cause := 0, held := false, kept := false, status := 0, stale := s.leftC r.core (s.agentD r).lid e.owner }
    let a := e.a64 o
    let lid := (s.agentD r).lid
    let left := s.leftM r.core lid e.owner
    let bellFine := s.bellBad r.core lid (copyBell o) = false
    let read := fun (va : DWord) (bs : List Byte) => let es := s.leftC r.core lid e.owner
      (s.agentD r).got = [] ∧ (e.s.askC r.core e.l.part es va 32).2 = .data bs
      ∧ ((e.s.askC r.core e.l.part es va 32).1.askC r.core e.l.part es va 32).2 = .data bs
    (a.toNat % 16 = 0 → (e.b32 o).toNat % 16 = 0 → (e.c32 o).toNat % 16 = 0 → (e.c32 o).toNat ≤ 2 ^ 20 → e.c32 o ≠ 0 →
        (e.b32 o).toNat < 2 ^ 20 → (e.b32 o).toNat + (e.c32 o).toNat ≤ e.l.scratch → bellFine →
        begun (.cpy o) true 0xA0 a (e.b32 o) (e.c32 o) [] (copyBell o))
    ∧ (∀ (i : Op → Instr) (kind : BitVec 8) (bs : List Byte),
        i = .cpyt ∧ kind = 0xA1 ∨ i = .cpysc ∧ kind = 0xA2 ∨ i = .cpyr ∧ kind = 0xA6 → a.toNat % 32 = 0 → read a bs →
        layoutCheck kind e.l (Layout.of (wordsOf 8 bs)) (e.b32 o) (e.c32 o) = none → bellFine →
        begun (i o) true kind a (e.b32 o) (e.c32 o) (wordsOf 8 bs) (copyBell o))
    ∧ (∀ bs wd : List Byte, a.toNat % 32 = 0 → (e.s.readM r.core e.l.part left a 32).2 = .ok bs →
        ((e.s.readM r.core e.l.part left a 32).1.readM r.core e.l.part left (a + 32) 16).2 = .ok wd →
        mxWordCause e.l (wordOfBytes wd) = none → layoutCheck 0xA3 e.l (Layout.of (wordsOf 8 bs)) (e.b32 o) (e.c32 o) = none →
        bellFine → begun (.cpymx o) true 0xA3 a (e.b32 o) (e.c32 o) (wordsOf 8 bs ++ wordsOf 4 wd) (copyBell o))
    ∧ (∀ (l : Loc) (off : Nat), (e.gaddr o).toNat % o.bytes = 0 →
        (e.s.xlate (some r.core) 1 e.l.part (e.gaddr o) Acc.read).2 = .ok l →
        (e.s.xlate (some r.core) 1 e.l.part (e.gaddr o) Acc.read).1.scrCheck r.core lid false (e.b32 o) o.bytes = .ok (r.core, off) →
        s.bellBad r.core lid (some ((e.c32 o).toNat % 64)) = false →
        begun (.ldgs o) false 0x79 (e.gaddr o) (e.b32 o) (BitVec.ofNat 32 o.bytes) [] (some ((e.c32 o).toNat % 64)))

/-- R178, R182, R184: a plain copy from within one page of device memory, of a thread that had fenced its stores, lands where no
word is uncorrectable: the scratchpad holds the bytes of memory, in
their order, and no other byte of it changes; memory is unchanged; the copy is over and has not failed. A bell that it names
has one completion less to expect. A copy whose page lies in another package fails where its home reports so: it is over and
has failed with that cause. That all its bytes move in the one step is the model's choice (log 10). -/
def Obligations.CopiesEnd : Prop :=
  (∀ (core slot pa : Nat) (s : State) (x : Copy), Tab.get? (s.core core).copies slot = some x →
    x.live = true → x.landed = false → x.held = false → x.kept = false → s.fabric.biasJob = none →
    x.kind = 0xA0 ∨ x.kind = 0x79 → x.arg ≠ 0 → x.src.toNat % 65536 + x.arg.toNat ≤ 65536 →
    x.stale = [] → s.hostBiased pa = false → (s.res core x.lid).bad = [] →
    (s.xlate (some core) 1 (s.launchD x.lid).part x.src Acc.read).2 = .ok (.dev pa) → s.badRange pa x.arg.toNat = false →
    ∃ t, exec (.copyLanded core slot) s = .next t ∧ t.mem = s.mem
      ∧ (∀ c lid off, t.scratchByte c lid off =
          if c = core ∧ lid = x.lid ∧ scrOffset x.dst ≤ off ∧ off < scrOffset x.dst + x.arg.toNat
          then memGet s.mem (pa + (off - scrOffset x.dst)) else s.scratchByte c lid off)
      ∧ Tab.get? (t.core core).copies slot = some { x with live := false, landed := true, failed := false, cause := 0 }
      ∧ ∀ b, x.bell = some b → (s.bell core x.lid b).pend ≠ 1 →
          t.bell core x.lid b = { s.bell core x.lid b with pend := (s.bell core x.lid b).pend - 1 })
  ∧ (∀ (core slot pkg space mode : Nat) (leaf64 : Bool) (va addr : DWord) (cause : BitVec 8) (s : State) (x : Copy),
    Tab.get? (s.core core).copies slot = some x → x.live = true → x.landed = false → x.kept = false →
    x.kind = 0xA0 ∨ x.kind = 0x79 → (addr - x.src).toNat < x.arg.toNat →
    cause = 0x06 ∨ cause = 0x07 ∨ cause = 0x10 →
    (s.xlate (some core) 1 (s.launchD x.lid).part addr Acc.read).2 = .ok (.remote pkg space va leaf64 mode) →
    ∃ t, exec (.copyFault core slot cause addr) s = .next t
      ∧ Tab.get? (t.core core).copies slot =
          some { x with live := false, landed := true, failed := true, cause := cause, held := false })

/-- R159 to R161: STRM and STRMX open a stream on a well-formed descriptor; the copy engine fetches the next element of a
strided stream from memory into its place in the ring, ahead of SPOP by at most the ring; SPOP by one active lane takes the
oldest element that has landed, where software has not written the ring, and the stream closes with its last. -/
def Obligations.Streams : Prop :=
  (∀ (o : Op) (s : State) (r : AgentRef) (e : Env) (i : Op → Instr) (idx : Bool) (bs : List Byte), Lone s r o e →
    i = .strm ∧ idx = false ∨ i = .strmx ∧ idx = true → (e.a64 o).toNat % 32 = 0 → (e.b32 o).toNat < 8 →
    (s.agentD r).got = [] →
    let left := s.leftC r.core (s.agentD r).lid e.owner
    (e.s.askC r.core e.l.part left (e.a64 o) 32).2 = .data bs →
    ((e.s.askC r.core e.l.part left (e.a64 o) 32).1.askC r.core e.l.part left (e.a64 o) 32).2 = .data bs → (s.stream r.core (s.agentD r).lid (e.b32 o).toNat).live = false →
    streamOk e.l idx (wordsOf 8 bs) = true →
    Ends (i o) o s r e 1 [0] fun t => t.mem = s.mem
      ∧ t.stream r.core (s.agentD r).lid (e.b32 o).toNat =
          { live := true, words := wordsOf 8 bs, idx, pos := 0, next := 0, elems := [], owed := [], spoilt := false, stale := left })
  ∧ (∀ (core lid n pa : Nat) (s : State) (x : Stream), s.stream core lid n = x → x.live = true → x.idx = false →
    x.stale = [] → s.hostBiased pa = false → x.next < x.count → x.next - x.pos < x.ring / x.esize → (s.core core).frozen = false →
    let a := x.w64 0 + BitVec.ofNat 64 (x.next % x.count0) * (x.words.getD 4 0).signExtend 64
      + BitVec.ofNat 64 (x.next / x.count0) * (x.words.getD 6 0).signExtend 64
    a.toNat % x.esize = 0 → (s.xlate (some core) 1 (s.launchD lid).part a Acc.read).2 = .ok (.dev pa) →
    s.badRange pa x.esize = false →
    ∃ t, exec (.streamFetch core lid n) s = .next t ∧ t.mem = s.mem
      ∧ t.stream core lid n =
          { x with next := x.next + 1, elems := Tab.set x.elems x.next (.data (memRead s.mem pa x.esize)) }
      ∧ ∀ off, t.scratchByte core lid off = if x.place x.next ≤ off ∧ off < x.place x.next + x.esize
          then memGet s.mem (pa + (off - x.place x.next)) else s.scratchByte core lid off)
  ∧ (∀ (o : Op) (s : State) (r : AgentRef) (e : Env) (x : Stream) (bs : List Byte), Lone s r o e →
    2 ≤ o.size → o.size ≤ 4 → (e.saddr o).toNat < 8 → (s.agentD r).served = [] →
    s.stream r.core (s.agentD r).lid (e.saddr o).toNat = x → x.live = true → x.esize = o.bytes → x.owed = [] →
    x.spoilt = false → (s.res r.core (s.agentD r).lid).bad = [] →
    Tab.get? x.elems x.pos = some (.data bs) →
    Ends (.spop o) o s r e (o.bytes / 4) (wordsOf (o.bytes / 4) bs) fun t => t.mem = s.mem
      ∧ t.stream r.core (s.agentD r).lid (e.saddr o).toNat =
          { x with pos := x.pos + 1, elems := Tab.erase x.elems x.pos, live := decide (x.pos + 1 < x.count) })

/-! ### Synchronisation -/

/-- R45, R169, R170, R238, R242, R246, R250: FENCE and XFENCE, of a core with no load to come. FENCE completes and writes no
register and no memory; a release fence wider than the core joins the outstanding accesses where its core has some, one for
each active thread; an acquire from chip scope on, as an XFENCE, leaves no clean line in the core's L1. An XFENCE waits while
a store of its core from before it is not performed, and one that names M while a matrix instruction of its launch is queued.
ACCESS_PERFORMED carries the oldest store of a core to device memory, in its turn of the cycle: its bytes are there, and no
other byte of memory changes. How a wait looks in the state, and what a fence that stands among the accesses is, is the model's
choice (logs 9 and 25). -/
def Obligations.Fences : Prop :=
  (∀ (o : Op) (s : State) (r : AgentRef) (a : Agent), s.cur = some r → s.agent? r = some a → o.d = .zero →
    (s.core r.core).late = [] →
    let rel := 2 ≤ o.mods.toNat
    let wide := 3 ≤ o.scope.toNat
    let k := s.core r.core
    ∃ t, exec (.fence o) s = .next t ∧ t.agentD r = a.issued s.cycles o.ctl .f4 [] [] [] ∧ t.mem = s.mem
      ∧ (t.core r.core).outst = k.outst ++ (if rel ∧ wide ∧ k.outst ≠ []
          then (s.envs r o).mapIdx fun i e => {
            id := k.nextOut + i, lid := a.lid, tid := if a.shep then none else some e.lane.tid, loc := .dev 0, bytes := []
            scope := o.scope.toNat, rel := true, rec_ := none }
          else [])
      ∧ (o.mods.toNat % 2 = 1 → wide → s.envs r o ≠ [] → ∀ x ∈ (t.core r.core).l1, x.2.dirty = true))
  ∧ (∀ (o : Op) (s : State) (r : AgentRef) (a : Agent), s.cur = some r → s.agent? r = some a → o.d = .zero →
    s.envs r o ≠ [] → (s.core r.core).late = [] → let k := s.core r.core
    let before := fun (x : Outst) => x.id < a.mark.getD k.nextOut
    ((∀ x ∈ k.outst, ¬before x) → k.queue = [] →
      ∃ t, exec (.xfence o) s = .next t ∧ t.agentD r = a.issued s.cycles o.ctl .f4 [] [] [] ∧ t.mem = s.mem
        ∧ ∀ x ∈ (t.core r.core).l1, x.2.dirty = true)
    ∧ ((∃ x ∈ k.outst, before x) → ∃ t, exec (.xfence o) s = .next t ∧ t.mem = s.mem
        ∧ (t.agentD r).wait = some (.fence []) ∧ (t.agentD r).pc = a.pc)
    ∧ ((∀ x ∈ k.outst, ¬before x) → o.mbits 0 3 = 2 ∨ o.mbits 3 3 = 2 → a.served = [] →
      (∃ y ∈ k.queue, y.lid = a.lid ∧ y.id < k.nextMat ∧ k.nextMat < y.id + 2 ^ 31) →
      ∃ t, exec (.xfence o) s = .next t ∧ t.mem = s.mem ∧ (t.agentD r).wait = some .sync ∧ (t.agentD r).pc = a.pc))
  ∧ (∀ (core idx pa : Nat) (s : State) (x : Outst), (s.core core).outst.find? (fun y => y.id == idx) = some x →
    (∀ y ∈ (s.core core).outst, x.id ≤ y.id) → (s.core core).late = [] → x.loc = .dev pa → x.bytes ≠ [] →
    s.phase ≤ turnRank 6 core 0 0 → ¬(x.rel = true ∧ x.scope = 5 ∧ (s.core core).settledAt = some s.cycles) →
    s.errs.bad = [] → Memory.wf s.mem = true →
    Ordinary { s with mem := memWrite s.mem pa x.bytes } pa x.bytes.length →
    ∃ t, exec (.accessPerformed core idx) s = .next t ∧ memRead t.mem pa x.bytes.length = x.bytes
      ∧ (∀ a, a < pa ∨ pa + x.bytes.length ≤ a → memGet t.mem a = memGet s.mem a)
      ∧ (t.core core).outst = (s.core core).outst.filter fun y => y.id != x.id)

/-- R167, R168, R333: a COLL by one active lane, whose descriptor is read without asking another package, on
a core with no load to come, returns status 1
where this package is no member of the group, and 2 where the descriptor breaks the table; an accepted one is in progress
with the data of its source, its status outstanding. When the collective ends the status lands, 3 for a mismatch and else 0. That the status of an accepted
one lands at the end is deduced (log 30). -/
def Obligations.Collectives : Prop :=
  (∀ (o : Op) (s : State) (r : AgentRef) (e : Env) (ds : List Byte), Lone s r o e → (e.gaddr o).toNat % 64 = 0 →
    (s.agentD r).got = [] → (s.core r.core).late = [] →
    let read := fun (x : State) => x.askV r.core (s.agentD r).lid e.owner e.l.part (e.gaddr o) 64
    (read e.s).2 = .data ds → (read (read e.s).1).2 = .data ds →
    let x := (read (read e.s).1).1
    let w := wordsOf 16 ds
    let group := (w.getD 5 0).toNat / 65536
    let src := pairOf (w.getD 0 0) (w.getD 1 0)
    let n := (w.getD 4 0).toNat
    let ok := fun (bits : List Byte) => x.collOk e.l.part (o.mbits 4 3) (o.mbits 0 4) (membersOf bits) w
    (x.group group = none → Ends (.coll o) o s r e 1 [1] fun t => t.mem = s.mem ∧ t.fabric.colls = s.fabric.colls)
    ∧ ∀ (bits bs : List Byte), x.group group = some bits → memberOf bits Config.pkgId.toNat = true →
      (ok bits = false → Ends (.coll o) o s r e 1 [2] fun t => t.mem = s.mem ∧ t.fabric.colls = s.fabric.colls)
      ∧ (ok bits = true → (readSpan (fun s va n => s.readF e.l.part va n) (spanPages src (4 * n)) x src (4 * n)).2 = .ok bs →
      ∃ t x, exec (.coll o) s = .next t ∧ t.mem = s.mem
        ∧ t.agentD r = (s.agentD r).issued s.cycles o.ctl .v (destRegs o.d 1) [] [2 ^ 65 + s.fabric.nextColl]
        ∧ Tab.get? t.fabric.colls s.fabric.nextColl = some x ∧ x.kind = o.mbits 4 3 ∧ x.op = o.mbits 0 4
        ∧ x.data = wordsOf n bs ∧ x.dst = pairOf (w.getD 2 0) (w.getD 3 0) ∧ x.bad = false ∧ x.count = n))
  ∧ (∀ (idx : Nat) (others : List (Nat × List Word)) (mismatch : Bool) (s : State) (x : Coll) (a : Agent),
    Tab.get? s.fabric.colls idx = some x → s.agent? x.who = some a →
    let lands := fun (p : Pend) => if p.await.contains (2 ^ 65 + idx) then
        { p with
            await := p.await.filter (· != 2 ^ 65 + idx)
            writes := p.writes ++ x.regs.map fun g => { lane := x.lane, reg := g, val := if mismatch then 3 else 0 } }
      else p
    ∃ t, exec (.collectiveDone idx others mismatch) s = .next t ∧ t.fabric.colls = Tab.erase s.fabric.colls idx
      ∧ t.agent? x.who = some { a with pending := a.pending.map lands })

/-- R171 to R174: the bells, by one active lane that names a live bell of its launch (for BINIT, one that is not live).
BINIT makes it live for a count; BARV counts an arrival and returns the parity before it; the arrival that completes the
phase, with nothing expected, flips the parity and starts a new phase; BTEST and BWAIT compare the parity, and a BWAIT whose
phase has not completed waits; BEXP adds to the completions expected, and may complete a phase that all have arrived at. A BARV at a
full phase that a BEXP of the same cycle may still complete is decided in the next (R174, R185). No other bell changes, and no memory. How a wait looks
in the state is the model's choice (log 9). The core has no load to come. -/
def Obligations.Bells : Prop :=
  ∀ (o : Op) (s : State) (r : AgentRef) (e : Env), Lone s r o e → (s.core r.core).late = [] →
    let lid := (s.agentD r).lid
    let b := (e.a32 o).toNat
    let n := (e.b32 o).toNat
    let x := s.bell r.core lid b
    let only := fun (t : State) (y : Bell) => t.mem = s.mem ∧ ∀ c l m, t.bell c l m =
      if c = r.core ∧ l = lid ∧ m = b then y else s.bell c l m
    let live := s.bellOk r.core lid (e.a32 o) = true
    let parity : Word := if x.phase then 1 else 0
    let fresh := (s.agentD r).mark = none
    (b < e.l.nbells → n ≠ 0 → n ≤ 65535 → x.live = false → Ends (.binit o) o s r e 0 [] fun t => only t
        { live := true, count := n, arr := 0, pend := 0, phase := false, errCur := 0, errLast := 0, done := none })
    ∧ (live → n = x.count → x.arr ≠ x.count → x.arr + 1 ≠ x.count ∨ x.pend ≠ 0 →
        fresh ∨ (s.agentD r).mark = x.done ∧ (s.agentD r).served = [] →
        Ends (.barv o) o s r e 1 [parity] fun t => only t { x with arr := x.arr + 1 })
    ∧ (live → n = x.count → x.arr + 1 = x.count → x.pend = 0 → fresh → Ends (.barv o) o s r e 1 [parity] fun t => only t
        { x with phase := !x.phase, arr := 0, errLast := x.errCur, errCur := 0, done := some s.cycles })
    ∧ (live → n = x.count → x.arr = x.count → x.pend < 0 → fresh → ∃ t, exec (.barv o) s = .next t ∧ only t x
        ∧ (t.agentD r).wait = some (.yield (s.cycles + 1)) ∧ (t.agentD r).mark = some s.cycles ∧ (t.agentD r).pc = (s.agentD r).pc)
    ∧ (live → n ≠ 0 → n ≤ 32767 → x.arr = x.count → x.pend + n = 0 → Ends (.bexp o) o s r e 0 [] fun t => only t
        { x with phase := !x.phase, arr := 0, pend := 0, errLast := x.errCur, errCur := 0, done := some s.cycles })
    ∧ (live → Ends (.btest o) o s r e 1 [if x.phase = (e.b32 o).getLsbD 0 then 0 else 1] fun t => only t x)
    ∧ (live → x.phase ≠ (e.b32 o).getLsbD 0 → (s.agentD r).served = [] →
        Ends (.bwait o) o s r e 1 [x.errLast.setWidth 32] fun t => only t x)
    ∧ (live → x.phase = (e.b32 o).getLsbD 0 → (s.agentD r).served = [] →
        ∃ t, exec (.bwait o) s = .next t ∧ only t x
          ∧ t.agentD r = { s.agentD r with
              wait := some (.bell [(e.n, b, x.phase)])
              opnds := some ((s.agentD r).opnds.getD (s.count r.core, (s.agentD r).lanes)) })
    ∧ (live → n ≠ 0 → n ≤ 32767 → x.pend + n ≤ 32767 → x.pend + n ≠ 0 →
        Ends (.bexp o) o s r e 0 [] fun t => only t { x with pend := x.pend + n })

/-- R175 to R177, R185: the chutes, by one active lane that names a live chute of its launch (for CHINIT, one that is not live,
or is closed and empty), on a core with no load to come and no uncorrectable word there. CHINIT makes it live, empty and open; CHPUSH appends a word where
there is room; CHPOP and CHTRY take the oldest, CHPOP none that was pushed in its own
cycle while the chute is open; on an empty chute CHTRY returns
0xFFFF_FFFE, and on an empty one that was closed before its own cycle both return 0xFFFF_FFFF;
CHCLOSE closes. A CHPUSH to a full chute waits, and so does a
CHPOP from an empty open one, until CHUTE_WAIT_SATISFIED has it issue again, the first of those that can go on. No other chute changes, but that an entry of a
ring that a push overwrites is no longer the chute's own; no byte of the scratchpad but the entry that is pushed, and no
memory. An entry that is not the chute's own reads as a free value. What pops, pushes and a close of one cycle see
of each other is deduced (log 75); how a wait looks in the state is the model's choice (log 9). -/
def Obligations.Chutes : Prop :=
  (∀ (o : Op) (s : State) (r : AgentRef) (e : Env), Lone s r o e → (s.core r.core).late = [] →
    (s.res r.core (s.agentD r).lid).bad = [] →
    let lid := (s.agentD r).lid
    let n := (e.a32 o).toNat
    let x := s.chute r.core lid n
    let at_ := x.off + 4 * (x.wr % x.cap)
    let same := fun (t : State) (y : Chute) => t.mem = s.mem
      ∧ (∀ c l m, t.chute c l m = if c = r.core ∧ l = lid ∧ m = n then y else s.chute c l m)
      ∧ ∀ c l i, t.scratchByte c l i = s.scratchByte c l i
    let waits := fun (i : Instr) (push : Bool) => ∃ t, exec i s = .next t ∧ same t x ∧ t.agentD r = { s.agentD r with
      wait := some (.chute push [(n, 1)]), opnds := some ((s.agentD r).opnds.getD (s.count r.core, (s.agentD r).lanes)) }
    let live := s.chuteOk r.core lid (e.a32 o) = true
    let i := x.rd % x.cap
    let oldest := if x.own.contains i then word32 (s.scratchRead r.core lid (x.off + 4 * i) 4) else Config.undefHandle s.tick x.rd
    let taken := { x with rd := x.rd + 1, allow := x.allow + 1 }
    let off := (e.b32 o).toNat
    let cap := (e.c32 o).toNat
    let fine := live ∧ x.shut s.cycles = false ∧ (e.b32 o).toNat ≤ 0xFFFFFFFD ∧ 1 ≤ x.cap
    (n < e.l.nchutes → x.live = false ∨ x.closed = true ∧ x.allow = x.cap → cap ≠ 0 → cap ≤ 1024 → off % 4 = 0 →
        off + 4 * cap ≤ e.l.scratch → Ends (.chinit o) o s r e 0 [] fun t => same t
          { live := true, closed := false, cap, off, rd := 0, wr := 0, allow := cap, own := [], closing := none, pushes := (0, 0) })
    ∧ (fine → 1 ≤ x.allow → Ends (.chpush o) o s r e 0 [] fun t => t.mem = s.mem
        ∧ (∀ c l m, t.chute c l m = if c = r.core ∧ l = lid then
            if m = n then { x with
              wr := x.wr + 1, allow := x.allow - 1, own := (x.wr % x.cap) :: x.own.filter (· != x.wr % x.cap)
              pushes := (s.cycles, (if x.pushes.1 = s.cycles then x.pushes.2 else 0) + 1) }
            else { s.chute c l m with own := (s.chute c l m).own.filter fun j => !meets ((s.chute c l m).off + 4 * j) 4 at_ 4 }
          else s.chute c l m)
        ∧ ∀ c l j, t.scratchByte c l j = if c = r.core ∧ l = lid ∧ at_ ≤ j ∧ j < at_ + 4
            then (bytes32 (e.b32 o)).getD (j - at_) 0 else s.scratchByte c l j)
    ∧ (fine → x.allow = 0 → waits (.chpush o) true)
    ∧ (live → x.allow < x.cap → x.shut s.cycles = true ∨ 1 ≤ x.ready s.cycles →
        Ends (.chpop o) o s r e 1 [oldest] fun t => same t taken)
    ∧ (live → 1 ≤ x.cap → x.ready s.cycles = 0 → x.shut s.cycles = false → waits (.chpop o) false)
    ∧ (live → 1 ≤ x.cap → x.cap ≤ x.allow → x.shut s.cycles = true → Ends (.chpop o) o s r e 1 [0xFFFFFFFF] fun t => same t x)
    ∧ (live → x.allow < x.cap → Ends (.chtry o) o s r e 1 [oldest] fun t => same t taken)
    ∧ (live → x.cap ≤ x.allow → Ends (.chtry o) o s r e 1 [if x.shut s.cycles then 0xFFFFFFFF else 0xFFFFFFFE] fun t => same t x)
    ∧ (live → Ends (.chclose o) o s r e 0 [] fun t => same t
        { x with closed := true, closing := if x.closed then x.closing else some s.cycles }))
  ∧ ∀ (core ag : Nat) (s : State) (a : Agent) (push : Bool) (needs : List (Nat × Nat)), s.agent? ⟨core, ag⟩ = some a →
    a.wait = some (.chute push needs) → s.chuteBehind ⟨core, ag⟩ a.lid push needs = false →
    (s.core core).frozen = false → s.phase ≤ s.issueRank ⟨core, ag⟩ →
    ∃ t, exec (.chuteWaitSatisfied core ag) s = .next t ∧ t.cur = some ⟨core, ag⟩
      ∧ t.agent? ⟨core, ag⟩ = some { a with wait := none }

/-! ### The matrix engine -/

/-- R45, R183, R186, R187, R189, R199, R200: a matrix instruction that passes the checks of R189, in a core whose queue has room
and where no carried word waits, enters the queue with the sources of its lowest active lane, and nothing else of the launch
changes; the results of MSTAT.set and MODRAIN await its completion. A word that a landed CPYMX carried enters it the same
way. MSTAT reads the status word at once: the hub's flags and enables or-ed with the core's, and the two counts of
overflows added up to 255. MSTAT.sync and MSTAT.list complete at once where nothing is queued, with the count of completed
matrix instructions where no error is recorded, and with the length of the outlier list. -/
def Obligations.MatrixInstructionsAreQueued : Prop :=
  (∀ (o : Op) (s : State) (r : AgentRef) (e : Env) (es : List Env) (i : Op → Instr) (opc : BitVec 8) (k : Nat),
    i = .mcfg ∧ opc = 0xB0 ∧ k = 0 ∨ i = .mma ∧ opc = 0xB1 ∧ k = 0 ∨ i = .mmag ∧ opc = 0xB2 ∧ k = 0
      ∨ i = .mmas ∧ opc = 0xB3 ∧ k = 0 ∨ i = .mzero ∧ opc = 0xB4 ∧ k = 0
      ∨ (i = .mload ∨ i = .mloadSc) ∧ opc = 0xB5 ∧ k = 0 ∨ i = .mstore ∧ opc = 0xB6 ∧ k = 0
      ∨ i = .mstatSet ∧ opc = 0xB7 ∧ k = 1 ∨ i = .modrain ∧ opc = 0xB8 ∧ k = 1 →
    s.cur = some r → (s.latchFor o ((s.envs r o).take 1)).envs r o = e :: es → (s.core r.core).queueFull = false →
    let src : MatSrc := { opc, op := o, a := e.a32 o, b := e.b32 o, c := e.c64 o }
    src.check e.l (s.tailCfg r.core (s.agentD r).lid) = none →
    ∃ t, exec (i o) s = .next t ∧ Keeps s t r ∧ t.mem = s.mem ∧ (∀ lid, t.res r.core lid = s.res r.core lid)
      ∧ (t.core r.core).queue = (s.core r.core).queue ++ [{
          id := (s.core r.core).nextMat, lid := (s.agentD r).lid, who := some r, lanes := (e :: es).map Env.n, bell := none
          op := o, opc, a := e.a32 o, b := e.b32 o, c := e.c64 o, run := false, flags := 0, err := none, res := none }]
      ∧ t.agentD r = (s.agentD r).issued s.cycles o.ctl .v (destRegs o.d k) []
          (if k = 0 then [] else [2 ^ 64 + (s.core r.core).nextMat]))
  ∧ Yields .mstat anyForm .v 1 (fun _ e => .word (e.s.numStat e.r.core e.a.lid))
  ∧ (∀ (s : State) (c lid : Nat),
      (s.numStat c lid).setWidth 8 = ((s.launchD lid).num ||| (s.res c lid).num).setWidth 8
      ∧ (s.numStat c lid).extractLsb' 16 7 = ((s.launchD lid).num ||| (s.res c lid).num).extractLsb' 16 7
      ∧ (s.numStat c lid).toNat / 2 ^ 24 =
          min 255 ((s.launchD lid).num.toNat / 2 ^ 24 + (s.res c lid).num.toNat / 2 ^ 24))
  ∧ (∀ (o : Op) (s : State) (r : AgentRef) (e : Env), Lone s r o e → (s.core r.core).queue = [] →
    ((s.res r.core (s.agentD r).lid).engErr = none →
        ∃ t, exec (.mstatSync o) s = .next t ∧ t.mem = s.mem
          ∧ t.agentD r = (s.agentD r).issued s.cycles o.ctl .v (destRegs o.d 1)
              (destWrites e.n o.d [(s.res r.core (s.agentD r).lid).mcount]) [])
    ∧ Ends (.mstatList o) o s r e 1
        [BitVec.ofNat 32 (Tab.getD (s.res r.core (s.agentD r).lid).outlier ((e.a32 o).toNat % 16) []).length]
        fun t => t.mem = s.mem ∧ ∀ lid, t.res r.core lid = s.res r.core lid)
  ∧ ∀ (core slot : Nat) (s : State) (x : Copy), Tab.get? (s.core core).copies slot = some x → x.live = true →
      x.landed = true → x.kind = 0xA3 → (s.core core).queue.length < 32 →
      let w := wordOfBytes (bytesOfWords (x.desc.drop 8))
      let o := decodeOp false w
      let rd := (s.launchD x.lid).mxRead o
      let src : MatSrc := { opc := bits w 88 8, op := o, a := rd o.a, b := rd o.b, c := (rd o.c).setWidth 64 }
      src.check (s.launchD x.lid) (s.tailCfg core x.lid) = none →
      ∃ t, exec (.cpymxWordEntry core slot) s = .next t ∧ t.mem = s.mem
        ∧ (t.core core).queue = (s.core core).queue ++ [{
            id := (s.core core).nextMat, lid := x.lid, who := none, lanes := [], bell := x.bell, op := o, opc := bits w 88 8
            a := rd o.a, b := rd o.b, c := (rd o.c).setWidth 64, run := false, flags := 0, err := none, res := none }]
        ∧ Tab.get? (t.core core).copies slot =
            some { x with live := false, failed := false, cause := 0, held := false }

/-- R44, R52, R187, R188, R191, R194, R195, R197 to R200: what the instruction at the head of a core's queue does when it
executes. MCFG takes effect; MZERO and MLOAD fill a tile, MLOAD.sc scale memory; MSTORE puts the tile's rows, or with `.t` its
columns, into the scratchpad, FP32 words as they are and those of another format converted; MMA and MMAS put into word (i, j) of the tile the sum of the old word and the products of row i of A
and row j of B, and so does MMAG with the rows that the gather unit holds, a row that its index does not name
counting as none; MSTAT.set sets the enables and clears the flags that it names, but for those raised in its own cycle, of which that
this holds on its own core too is log 24; MODRAIN empties an outlier list into the scratchpad. It has then run, and no
other tile and no memory has changed. No word that it reads is uncorrectable. GATHER_READ reads the indices of an MMAG;
that what it has read goes once the MMAG has executed is the model's choice (log 38). When the head has run it completes: it
leaves the queue, the count of completed instructions rises by one, and its flags join the status word. That an instruction
does all this in one step is the model's choice (log 10). -/
def Obligations.MatrixEngineExecutes : Prop :=
  (∀ (core : Nat) (s : State) (q : MatOp) (rest : List MatOp), (s.core core).queue = q :: rest → q.run = false →
    (s.res core q.lid).bad = [] →
    let f := (s.res core q.lid).cfg
    let tile := q.op.mbits 0 4
    let c32 := (q.c.setWidth 32 : Word)
    let read := fun (a n : Nat) => s.scratchRead core q.lid a n
    let others := fun (t : State) => ∀ c lid n i, ¬(c = core ∧ lid = q.lid ∧ n = tile) → i < 4096 →
      t.tileWord c lid n i = s.tileWord c lid n i
    let row := fun (fmt : Nat) (g : Word) (a pitch sc n : Nat) => rowElems fmt g (read (a + n * pitch) (rowBytes fmt 64))
      (listGen (fun k => s.scaleByte core q.lid (sc + n * f.scpitch + k)) (rowScales fmt))
    let log := (s.launchD q.lid).class_ == 1
    let old := fun (i j : Nat) =>
      if q.op.mbit 4 then Val.zero false else accValue f.acc (s.tileWord core q.lid tile (i * 64 + j))
    let runs := fun (P : State → Prop) => ∃ t, exec (.matrixExecute core) s = .next t ∧ t.mem = s.mem
      ∧ ((t.core core).queue.map fun x => (x.id, x.run)) = (q.id, true) :: (rest.map fun x => (x.id, x.run)) ∧ P t
    (q.opc = 0xB0 → runs fun t => (t.res core q.lid).cfg = { set := true, a := q.a, b := q.b, c := q.c })
    ∧ (q.opc = 0xB4 → runs fun t => others t ∧ ∀ i, i < 4096 → t.tileWord core q.lid tile i = 0)
    ∧ (q.opc = 0xB5 → q.op.mbit 4 = false → runs fun t => others t ∧ ∀ i j, i < 64 → j < 64 →
        t.tileWord core q.lid tile (i * 64 + j) = word32 (read (q.a.toNat + i * q.b.toNat + 4 * j) 4))
    ∧ (q.opc = 0xB5 → q.op.mbit 4 = true → runs fun t => ∀ x, t.scaleByte core q.lid x =
        if q.b.toNat ≤ x ∧ x < q.b.toNat + c32.toNat then s.scratchByte core q.lid (q.a.toNat + (x - q.b.toNat))
        else s.scaleByte core q.lid x)
    ∧ (q.opc = 0xB6 → q.op.fmt = 0 → f.acc = 0 → q.op.mbit 4 = false → 256 ≤ q.b.toNat → runs fun t =>
        ∀ i j, i < 64 → j < 64 → t.scratchRead core q.lid (q.a.toNat + i * q.b.toNat + 4 * j) 4 =
          bytes32 (s.tileWord core q.lid tile (i * 64 + j)))
    ∧ (q.opc = 0xB6 → rowBytes q.op.fmt.toNat 64 ≤ q.b.toNat → runs fun t => ∀ i, i < 64 →
        let src := if f.acc = 0 then 0 else 14
        let fmt := q.op.fmt.toNat
        t.scratchRead core q.lid (q.a.toNat + i * q.b.toNat) (rowBytes fmt 64) = rowPut fmt ((List.range 64).map fun j =>
          let w := s.tileWord core q.lid tile (if q.op.mbit 4 then j * 64 + i else i * 64 + j)
          if fmt = src then w.toNat else (rowCode fmt q.op.rm.toNat q.op.sat (decodeElem src w.toNat)).1)
          (if fmt = 16 then 0x79 else 0))
    ∧ (q.opc = 0xB1 ∨ q.opc = 0xB3 → runs fun t => others t ∧ ∀ i j, i < 64 → j < 64 →
        t.tileWord core q.lid tile (i * 64 + j) = (accResult f.acc (rowSum log f.af f.bf (old i j)
          (row f.af f.ga q.a.toNat f.apitch (c32.toNat % 65536) i)
          (row f.bf f.gb q.b.toNat f.bpitch (c32.toNat / 65536) j))).1)
    ∧ (q.opc = 0xB2 → ∀ g, (s.core core).gather = some g → g.id = q.id → g.err = none → runs fun t => others t
        ∧ (t.core core).gather = none
        ∧ ∀ i j, i < 64 → j < 64 → t.tileWord core q.lid tile (i * 64 + j) = (accResult f.acc
            (if g.idx.getD i 0 = 0xFFFF then exactSum [old i j] false
             else rowSum log f.af f.bf (old i j) (rowElems f.af f.ga (g.rows.getD i []) (g.scales.getD i []))
               (row f.bf f.gb q.b.toNat f.bpitch g.sb j))).1)
    ∧ (q.opc = 0xB7 → runs fun t => t.enables core q.lid = q.a &&& 0x7F0000
        ∧ let new := (s.res core q.lid).fresh s.cycles
          ((t.res core q.lid).num &&& q.b &&& ~~~new) &&& 0xFF = 0
          ∧ (t.res core q.lid).num &&& new &&& 0xFF = (s.res core q.lid).num &&& new &&& 0xFF)
    ∧ (q.opc = 0xB8 → runs fun t =>
        let es := Tab.getD (s.res core q.lid).outlier (q.a.toNat % 16) []
        Tab.get? (t.res core q.lid).outlier (q.a.toNat % 16) = some []
        ∧ t.scratchRead core q.lid q.b.toNat (8 * es.length) = es.flatMap fun x => bytes32 x.1 ++ bytes32 x.2))
  ∧ (∀ (core : Nat) (s : State) (q : MatOp) (rest : List MatOp), (s.core core).queue = q :: rest → q.run = false →
    q.opc = 0xB2 → (s.core core).gather = none → (s.res core q.lid).bad = [] →
    ∃ t g, exec (.gatherRead core) s = .next t ∧ (t.core core).gather = some g ∧ g.id = q.id ∧ t.mem = s.mem
      ∧ ∀ i, i < 64 → g.idx.getD i 0 = ofBytesLE (s.scratchRead core q.lid ((q.c.setWidth 32 : Word).toNat + 2 * i) 2))
  ∧ ∀ (core : Nat) (s : State) (q : MatOp) (rest : List MatOp), (s.core core).queue = q :: rest → q.run = true →
    q.err = none →
    ∃ t, exec (.matrixComplete core) s = .next t ∧ (t.core core).queue = rest ∧ t.mem = s.mem
      ∧ (t.res core q.lid).mcount = (s.res core q.lid).mcount + 1
      ∧ (t.res core q.lid).num = (s.res core q.lid).num ||| (q.flags &&& 0xFF)

/-! ### Control -/

/-- R122, R123, R125, R126, R128: a terminator ends its block. Every lane that is not about to park has its exit: where its
guard holds the instruction's own target, a signed offset counted in words for BR, CBR and CALL, a byte offset from the
image's base for IBR, ICALL and RET, with the return address of a call for its c register; else, and for a CBR whose A is
0, the next word. A BLK reached by falling through ends the block before it; at the start of its own block it issues. -/
def Obligations.TerminatorsEndTheBlock : Prop :=
  ∀ (o : Op) (s : State) (r : AgentRef) (a : Agent), s.cur = some r → s.agent? r = some a →
    let l := s.launchD a.lid
    let src := fun (n : Nat) (ln : Lane) => ({ s := s.latch r o, r, a, l, n, lane := ln, now := s.readTime r } : Env).a32 o
    let rel := a.pc + o.imm.signExtend 64 * 16
    let abs := fun (v : Word) => l.codeBase + v.setWidth 64
    let next := a.pc + 16
    let c := match o.d with
      | .c n => n.toNat
      | _ => 0
    let back := (next - l.codeBase).setWidth 32
    let ends := fun (i : Instr) (g : Lane → Bool) (f : Nat → Lane → DWord × ExitKind) =>
      let leave := fun (e : Nat × Lane) => (e.1, if e.2.parking.isNone
        then { e.2 with exit := some (if g e.2 then f e.1 e.2 else (next, .plain)) } else e.2)
      ∃ t, exec i s = .next t ∧ Keeps s t r ∧ t.mem = s.mem ∧ t.agent? r = some { a with
        lanes := a.lanes.map leave, ended := true, wait := none, opnds := none, got := [], served := [], stalled := false
        drain := false }
    let g := fun (ln : Lane) => ln.guard o.guard
    ends (.br o) g (fun _ _ => (rel, .plain))
    ∧ ends (.cbr o) g (fun n ln => (if src n ln ≠ 0 then rel else next, .plain))
    ∧ ends (.ibr o) g (fun n ln => (abs (src n ln), .ibr))
    ∧ ends (.call o) g (fun _ _ => (rel, .call c back))
    ∧ ends (.icall o) g (fun n ln => (abs (src n ln), .icall c back))
    ∧ ends (.ret o) g (fun n ln => (abs (src n ln), .ret))
    ∧ ends (.exit o) g (fun _ _ => (next, .exit))
    ∧ ends (.join o) g (fun _ _ => (next, .join))
    ∧ ∀ (ctl : Ctl) (live : DWord) (team landing : Bool),
      (a.pc ≠ a.blk → ends (.blk ctl live team landing) (fun _ => true) (fun _ _ => (a.pc, .plain)))
      ∧ (a.pc = a.blk → ∃ t, exec (.blk ctl live team landing) s = .next t ∧ t.mem = s.mem
          ∧ t.agent? r = some (a.issued s.cycles ctl .f4 [] [] []))

/-- R129, R130, R80, R21: NOP only issues. YIELD issues and, where some guard
holds, leaves the agent out of issue for at most 16 cycles. SLEEP by one active lane completes where its target has been reached and its copy, if it names one, has landed; before that it waits
for the target, and SLEEP_WAKE has it issue again once the target is reached. PROBE returns the probe flag and clears it.
How a wait looks in the state is the model's choice (log 9). -/
def Obligations.WaitsAndProbe : Prop :=
  Yields .nop anyForm .f4 0 (fun _ _ => .of [])
  ∧ (∀ (o : Op) (s : State) (r : AgentRef) (a : Agent), s.cur = some r → s.agent? r = some a →
    ∃ t, exec (.yield o) s = .next t ∧ t.mem = s.mem
      ∧ t.agent? r = some { a.issued s.cycles o.ctl .f4 [] [] [] with
        wait := if s.envs r o = [] then none else some (.yield (s.cycles + 16)) })
  ∧ (∀ (o : Op) (s : State) (r : AgentRef) (e : Env), Lone s r o e → (s.agentD r).served = [] →
    (s.agentD r).opnds = none →
    ((e.a64 o).toNat ≤ s.count r.core → o.b = .zero ∨ s.ticketCause r.core (e.b32 o) = none →
      ∃ t, exec (.sleep o) s = .next t ∧ t.mem = s.mem
        ∧ t.agentD r = (s.agentD r).issued s.cycles o.ctl .f4 (destRegs o.d 0) [] [])
    ∧ (s.count r.core < (e.a64 o).toNat → (e.a64 o).toNat ≤ s.count r.core + 2 ^ 31 →
      ∃ t, exec (.sleep o) s = .next t ∧ t.mem = s.mem
        ∧ t.agentD r = { s.agentD r with
            wait := some (.sleep (max 1 ((e.a64 o).toNat - Config.cycleSkew r.core)) [])
            opnds := some (s.count r.core, (s.agentD r).lanes) }))
  ∧ (∀ (core ag target : Nat) (x : Tab Word) (s : State) (a : Agent), s.agent? ⟨core, ag⟩ = some a →
    a.wait = some (.sleep target x) → target ≤ s.cycles → (s.core core).frozen = false →
    s.phase ≤ s.issueRank ⟨core, ag⟩ →
    ∃ t, exec (.sleepWake core ag) s = .next t ∧ t.cur = some ⟨core, ag⟩
      ∧ t.agent? ⟨core, ag⟩ = some { a with wait := none, served := [(2 ^ 32, 1)] })
  ∧ (∀ (o : Op) (s : State) (r : AgentRef) (e : Env), Lone s r o e →
    let tid := if (s.agentD r).shep then shepTid else e.lane.tid
    let flag := (s.thread r.core (s.agentD r).lid tid).probe
    ∃ t, exec (.probe o) s = .next t ∧ t.mem = s.mem ∧ (t.thread r.core (s.agentD r).lid tid).probe = false
      ∧ t.agentD r = (s.agentD r).issued s.cycles o.ctl .f4 (destRegs o.d 1) (destWrites e.n o.d [if flag then 1 else 0]) [])

/-- R124, R125: leaving a block. A call deeper than 16 and a RET at depth 0 fail; a call makes the depth one more, RET one
less; a target by register must be 16-byte aligned in the image; a thread that leaves for a BLK of its image is filed there
with its depth, its joined bit and, after a call, its return address in the c register. That the depth is checked before the
target is deduced (log 39). -/
def Obligations.ThreadsLeaveTheirBlock : Prop :=
  (∀ (k : ExitKind) (d : Nat), depthAfter k d = match k with
    | .call _ _ | .icall _ _ => if d = 16 then none else some (d + 1)
    | .ret => if d = 0 then none else some (d - 1)
    | _ => some d)
  ∧ ∀ (s : State) (c lid tid d : Nat) (ln : Lane) (word blk target : DWord) (k : ExitKind) (team landing : Bool),
    depthAfter k (s.thread c lid tid).depth = some d → BlkThere s c (s.launchD lid) target team landing →
    (k = .ret ∨ k = .ibr ∨ (∃ n a, k = .icall n a) → ((s.launchD lid).offset target).toNat % 16 = 0) →
    (k = .ibr ∨ (∃ n a, k = .icall n a) → landing = true) →
    let th := (s.leaveBlock c lid tid ln word blk target k).thread c lid tid
    th.next = target ∧ th.depth = d ∧ th.resume = false ∧ th.park = none ∧ (th.joined = true ↔ k = .join)
    ∧ (∀ n a, k = .call n a ∨ k = .icall n a → Tab.get? th.c n = some a)

/-! ### Traps -/

/-- R201 to R203, R205 to R207: BKPT and TRAP in one active lane of a drove, or in the shepherd. A thread that is in no
handler, in a launch that has one and detects no races, enters it: its state is in the frame, stores of its core of a sector
each from the frame's address on; the cause, the word and the address stand in its trap registers; and it goes on at the handler's block. A thread in a handler,
one of a launch without a handler, and a shepherd stop the launch, with a record of what happened, and the launch is
cancelled. That bits 63:57 of its address are zero is deduced (log 42). -/
def Obligations.TrapsAreTaken : Prop :=
  ∀ (o : Op) (s : State) (r : AgentRef) (e : Env) (i : Op → Instr) (cause : BitVec 8), Lone s r o e →
    i = .bkpt ∧ cause = 0x11 ∨ i = .trap ∧ cause = 0x12 → (s.agentD r).pending = [] → (s.core r.core).late = [] →
    Tab.get? (s.agentD r).lanes e.n = some e.lane → e.l.cancelled = false → e.l.stop = none →
    let lid := (s.agentD r).lid
    let tid := e.lane.tid
    let th := s.thread r.core lid tid
    let pc := e.l.offset (s.agentD r).pc
    let tframe := e.l.tframeAt s.cycles
    let frame := bytesOfWords (List.ofFn (n := 64) (fun j => e.lane.wD j) ++
      [e.lane.preds, 0x100 + cause.setWidth 32, 0, 0, pc, pc, 0xF000 + BitVec.ofNat 32 th.depth, 0] ++ List.replicate 56 0)
    s.launch? lid = some e.l →
    ((s.agentD r).shep = false → th.inHandler = false → e.l.hdrW 3 ≠ 0 → tframe ≠ 0 → e.l.race = false →
      ∀ (pa : Nat) (landing : Bool),
      LocalAt s e.l.part (tframe + BitVec.ofNat 64 (tid * 512)) pteW pa → BlkThere s r.core e.l e.l.handler false landing →
      ∃ t, exec (i o) s = .next t ∧ t.mem = s.mem
        ∧ (t.core r.core).outst = (s.core r.core).outst ++ (List.range 16).map (fun j => {
            id := (s.core r.core).nextOut + j, lid, tid := some tid, loc := .dev (pa + 32 * j)
            bytes := (frame.drop (32 * j)).take 32, scope := 0, rel := false, rec_ := none })
        ∧ (t.thread r.core lid tid).inHandler = true ∧ (t.thread r.core lid tid).tcause = cause.setWidth 32
        ∧ (t.thread r.core lid tid).tpc = pc ∧ (t.thread r.core lid tid).taddr = 0
        ∧ (t.thread r.core lid tid).next = e.l.handler)
    ∧ ((s.agentD r).shep = false → th.inHandler = true →
      ∃ t, exec (i o) s = .next t ∧ t.mem = s.mem ∧ (t.launchD lid).cancelled = true ∧ (t.launchD lid).stop = some {
        cause := th.tcause.setWidth 8, cause2 := cause, who := BitVec.ofNat 32 tid, tpc := th.tpc
        addr := BitVec.ofNat 64 (va57 th.taddr) })
    ∧ ((s.agentD r).shep = false → th.inHandler = false → e.l.hdrW 3 = 0 ∨ tframe = 0 →
      ∃ t, exec (i o) s = .next t ∧ t.mem = s.mem ∧ (t.launchD lid).cancelled = true ∧ (t.launchD lid).stop = some {
        cause, cause2 := 0, who := BitVec.ofNat 32 tid, tpc := pc, addr := 0 })
    ∧ ((s.agentD r).shep = true →
      ∃ t, exec (i o) s = .next t ∧ t.mem = s.mem ∧ (t.launchD lid).cancelled = true ∧ (t.launchD lid).stop = some {
        cause, cause2 := 0, who := 0x80000000 + BitVec.ofNat 32 r.core, tpc := pc, addr := 0 })

/-- R202, R204: TRET by one active lane in a handler, whose frame is read without asking another package, where
no older drove of its quadrant is to file its threads first (R235). With RESUME 0
the thread goes on at the word that trapped and with RESUME 1 at the word after it, with the w and p registers of the frame;
its trap registers are 0 and it is in no handler. TPC is the thread's own: what the frame holds for it is ignored. -/
def Obligations.TrapReturnRestores : Prop :=
  ∀ (o : Op) (s : State) (r : AgentRef) (e : Env) (ds : List Byte), Lone s r o e → (s.agentD r).shep = false →
    (s.agentD r).pending = [] → (s.agentD r).got = [] → (s.core r.core).late = [] →
    Tab.get? (s.agentD r).lanes e.n = some e.lane → e.l.cancelled = false →
    let lid := (s.agentD r).lid
    let tid := e.lane.tid
    let old := s.thread r.core lid tid
    let read := fun (x : State) => x.askV r.core lid e.owner e.l.part (e.l.tframe + BitVec.ofNat 64 (tid * 512)) 512
    old.inHandler = true → (read e.s).2 = .data ds → (read (read e.s).1).2 = .data ds →
    let ws := wordsOf 128 ds
    let code := (ws.getD 65 0).toNat / 256 % 4
    frameOk ws = true → code ≤ 1 → s.olderFiles r = false →
    ∃ t, exec (.tret o) s = .next t ∧ t.mem = s.mem
      ∧ let th := t.thread r.core lid tid
        let tpc := e.l.codeBase + old.tpc.setWidth 64
        th.inHandler = false ∧ th.tcause = 0 ∧ th.taddr = 0 ∧ th.tpc = 0 ∧ th.park = none
        ∧ th.next = (if code = 0 then tpc else tpc + 16)
        ∧ ∃ w p, th.row = some (none, w, p) ∧ (∀ n, n < 64 → Tab.get? w n = some (ws.getD n 0))
          ∧ ∀ n, n < 8 → Tab.get? p n = some ((ws.getD 64 0).getLsbD n)

/-! ### The shepherd and work -/

/-- R139 to R143: the shepherd's instructions in its one lane. SBR, SJMP and SLOOP go to their target or on; SPAWN creates
the threads of a range that passes its checks and fits, each at ENTRY's block; DPUSH fills the next slot of the decision
ring and DPOP reads a record; SWAIT returns the count of retired threads, or waits for them; SCOND takes the votes of the
tile before TN, or at TN 0 only advances TN; SHALT ends the shepherd, whose state is released at once where the launch has no
thread left on its core. The core has no load to come. The two wait events have a waiting agent issue again,
of several DPOPs that can go on the first.
How a wait looks in the state is the model's choice (log 9). -/
def Obligations.ShepherdInstructions : Prop :=
  (∀ (o : Op) (s : State) (r : AgentRef) (e : Env), Lone s r o e → (s.core r.core).late = [] →
    let a := s.agentD r
    let lid := a.lid
    let waits := fun (w : Wait) => { a with wait := some w, opnds := some (a.opnds.getD (s.count r.core, a.lanes)) }
    let res := s.res r.core lid
    let x := (e.a32 o).toNat
    let y := (e.b32 o).toNat
    let branch := fun (i : Instr) (k : Nat) (vals : List Word) (taken : Bool) =>
      ∃ t, exec i s = .next t ∧ Keeps s t r ∧ t.mem = s.mem ∧ (∀ l, t.res r.core l = s.res r.core l)
        ∧ t.agentD r = { a.issued s.cycles o.ctl .v (destRegs o.d k) (destWrites e.n o.d vals) [] with
            pc := if taken then a.pc + o.imm.signExtend 64 * 16 else a.pc + 16 }
    branch (.sbr o) 0 [] (e.a32 o != 0) ∧ branch (.sjmp o) 0 [] true
    ∧ branch (.sloop o) 1 [e.a32 o - 1] (e.a32 o - 1 != 0)
    ∧ (∀ (core : Nat) (landing team : Bool), spawnCore r.core (e.c32 o) = some core →
        e.s.spawnBad e x y (some core) = false → e.s.spawnRoom core e.l.width x y = true →
        BlkThere s core e.l e.l.entry team landing →
        ∃ t, exec (.spawn o) s = .next t ∧ t.mem = s.mem
          ∧ t.agentD r = a.issued s.cycles o.ctl .v (destRegs o.d 1) (destWrites e.n o.d [e.b32 o]) []
          ∧ (t.res r.core lid).spawnCnt = res.spawnCnt + y
          ∧ (y ≠ 0 → (t.res r.core lid).spawned = res.spawned ++ [(x, y)])
          ∧ ∀ i, i < y → (t.thread core lid (x + i)).next = e.l.entry ∧ (t.thread core lid (x + i)).depth = 0
            ∧ (t.thread core lid (x + i)).inHandler = false ∧ (t.thread core lid (x + i)).resume = false)
    ∧ (1 ≤ y → y ≤ 65535 → (Tab.getD res.ring (res.ringNext.toNat % 256) (0, 0)).2 = 0 →
        Ends (.dpush o) o s r e 1 [res.ringNext] fun t => t.mem = s.mem ∧ t.res r.core lid =
          { res with
            ring := Tab.set res.ring (res.ringNext.toNat % 256) (e.a32 o, y), ringNext := res.ringNext + 1
            ringAt := if res.ringAt.1 = s.cycles then res.ringAt else (s.cycles, res.ringNext) })
    ∧ (∀ v readers, Tab.get? res.ring (x % 256) = some (v, readers) → readers ≠ 0 → 1 ≤ (res.ringNext - e.a32 o).toNat →
        (res.ringNext - e.a32 o).toNat ≤ 256 → ringFresh res s.cycles (e.a32 o) = false →
        Ends (.dpop o) o s r e 1 [v] fun t => t.mem = s.mem ∧ t.res r.core lid =
          { res with ring := Tab.set res.ring (x % 256) (v, readers - 1) })
    ∧ (x ≤ res.spawnCnt → x ≤ res.retired → Ends (.swait o) o s r e 1 [BitVec.ofNat 32 res.retired] fun t =>
        t.mem = s.mem ∧ t.res r.core lid = res)
    ∧ (x ≤ res.spawnCnt → res.retired < x → ∃ t, exec (.swait o) s = .next t
        ∧ t.agentD r = waits .swait ∧ t.res r.core lid = res)
    ∧ (res.tn = 0 → x = 0 → Ends (.scond o) o s r e 2 [0, 0] fun t => t.mem = s.mem ∧ t.res r.core lid = { res with tn := 1 })
    ∧ (∀ v, res.tn ≠ 0 → Tab.get? res.votes (res.tn - 1).toNat = some v → e.a32 o = v.count →
        Ends (.scond o) o s r e 2 [v.vec.setWidth 32, (v.vec >>> 32).setWidth 32] fun t => t.mem = s.mem
          ∧ t.res r.core lid = { res with votes := Tab.erase res.votes (res.tn - 1).toNat, tn := res.tn + 1 })
    ∧ (∀ v, res.tn ≠ 0 → Tab.get? res.votes (res.tn - 1).toNat = some v → v.count < e.a32 o →
        ∃ t, exec (.scond o) s = .next t ∧ t.agentD r = waits (.scond (e.a32 o)) ∧ t.res r.core lid = res)
    ∧ ((∃ k ∈ (s.core r.core).threads, k.2.lid = lid ∧ k.2.tid ≠ shepTid) →
        ∃ t, exec (.shalt o) s = .next t ∧ t.mem = s.mem ∧ t.res r.core lid = { res with halted := true }
          ∧ t.agentD r = { a.issued s.cycles o.ctl .v (destRegs o.d 0) [] [] with ended := true })
    ∧ ((∀ k ∈ (s.core r.core).threads, k.2.lid = lid → k.2.tid = shepTid) → (s.core r.core).tracker = [] →
        res.gone = false → a.shep = true → s.agent? r = some a → ∃ t, exec (.shalt o) s = .next t ∧ t.mem = s.mem
          ∧ t.res r.core lid = { res with halted := true, gone := true } ∧ t.agent? r = none))
  ∧ ∀ (core ag : Nat) (s : State) (a : Agent), s.agent? ⟨core, ag⟩ = some a → (s.core core).frozen = false →
      s.phase ≤ s.issueRank ⟨core, ag⟩ →
      (a.wait = some .spawn ∨ a.wait = some .dpush ∨ a.wait = some .swait ∨ (∃ v, a.wait = some (.scond v)) →
        ∃ t, exec (.shepherdWaitSatisfied core ag) s = .next t ∧ t.cur = some ⟨core, ag⟩
          ∧ t.agent? ⟨core, ag⟩ = some { a with wait := none })
      ∧ (∀ seqs, a.wait = some (.dpop seqs) → s.dpopBehind ⟨core, ag⟩ a.lid = false → ∃ t, exec (.dpopWaitSatisfied core ag) s = .next t ∧ t.cur = some ⟨core, ag⟩
          ∧ t.agent? ⟨core, ag⟩ = some { a with wait := none })

/-- R144 to R148, R237, R271, R286, R288: the work instructions in one active lane, of a launch that detects no races, on a core
with no access outstanding and none settled in this cycle (R250). What they read is read without asking another package, and is memory where the L1 holds nothing. ENQ returns the status of a queue that takes
no record, and 0 for one whose ring takes the record and that then holds a slot; REC puts a record into a node's open batch,
which may close it; CNTADD adds to a counter in device memory; CNTWAIT returns a counter that has reached its value and else
waits; CANCEL returns 1 where no launch carries the identifier in the caller's job, and else cancels the launch. How CNTWAIT
waits, and that CANCEL completes a launch that was not placed at once, is deduced (logs 9 and 17). -/
def Obligations.WorkInstructions : Prop :=
  (∀ (o : Op) (s : State) (r : AgentRef) (e : Env), Lone s r o e → s.fabric.biasJob = none → (s.agentD r).served = [] →
    (s.agentD r).got = [] → (s.core r.core).outst = [] → (s.core r.core).late = [] → e.l.race = false →
    (s.core r.core).settledAt ≠ some s.cycles → e.l.cancelled = false → s.mergeFlags r.core (s.agentD r).lid = s →
    let q := (e.b32 o).toNat
    let key := (e.l.recW 9).toNat * 65536 + (e.a32 o).toNat
    let read := fun (past : Bool) (n : Nat) (x : State) => workAsk past n o x e
    (∀ ds, (e.a64 o).toNat % 64 = 0 → (read false 64 e.s).2 = .data ds → (read false 64 (read false 64 e.s).1).2 = .data ds →
      let x := (read false 64 (read false 64 e.s).1).1
      (∀ st, x.enqStatus e.l q = .error st → Ends (.enq o) o s r e 1 [st] fun t => t.mem = s.mem ∧ t.front = s.front)
      ∧ (∀ d, x.enqStatus e.l q = .ok d → ((x.releaseNow r.core (s.agentD r).lid 5).hubWrite (qPart d) (qSlotAddr d (qWr d)) ds).2 = .ok () →
        Ends (.enq o) o s r e 1 [0] fun t => (t.slotOf q).isSome = true))
    ∧ (∀ ent nd, (e.s.nodeEntry e.l.part (e.l.recW 9) (e.a32 o).toNat).2 = some ent → Tab.get? s.front.nodes key = some nd →
        nd.lapsed s.wgTimer.toNat s.nanos = false ∨ nd.open_ = [] → nd.takes (nodeNbuf ent) = true → Ends (.recN o) o s r e 0 [] fun t => t.mem = s.mem
          ∧ ∃ nd', Tab.get? t.front.nodes key = some nd' ∧ (nd'.open_ = nd.open_ ++ [(e.b32 o, e.c32 o)] ∧ nd'.closed = nd.closed
            ∨ nd'.open_ = [] ∧ nd'.closed = nd.closed ++ [(nd.next, nd.open_ ++ [(e.b32 o, e.c32 o)])]))
    ∧ (∀ pa, Reaches e (e.a64 o) 8 Acc.rmw pa → Memory.wf s.mem = true → s.errs.bad = [] → s.hostBiased pa = false → o.d = .zero →
        Ordinary { s with mem := memWrite s.mem pa (bytesLE 8 (ofBytesLE (memRead s.mem pa 8) + q)) } pa 8 → Ends (.cntadd o) o s r e 0 [] fun t =>
          memRead t.mem pa 8 = bytesLE 8 ((ofBytesLE (memRead s.mem pa 8) + q) % 2 ^ 64)
          ∧ ∀ x, x < pa ∨ pa + 8 ≤ x → memGet t.mem x = memGet s.mem x)
    ∧ (∀ bs, (e.a64 o).toNat % 8 = 0 → (read true 8 e.s).2 = .data bs → (read true 8 (read true 8 e.s).1).2 = .data bs →
        let v := word64 bs
        (e.b64 o ≤ v → Ends (.cntwait o) o s r e 2 [v.setWidth 32, (v >>> 32).setWidth 32] fun t => t.mem = s.mem)
        ∧ (v < e.b64 o → ∃ t, exec (.cntwait o) s = .next t ∧ t.mem = s.mem
          ∧ t.agentD r = { s.agentD r with
              wait := some .cntwait, opnds := some ((s.agentD r).opnds.getD (s.count r.core, (s.agentD r).lanes)) }))
    ∧ (o.mbits 0 2 = 0 → s.reg 8 = 0 → (e.s.batchesNamed (e.a32 o) (e.l.recW 11)).2 = [] →
        let named := s.launches.filter fun x => x.2.recW 8 == e.a32 o && x.2.recW 11 == e.l.recW 11
        (named = [] → Ends (.cancel o) o s r e 1 [1] fun t => t.mem = s.mem ∧ t.launches = s.launches)
        ∧ ∀ lid l, named = [(lid, l)] → s.launch? lid = some l → l.st = .running → l.stop = none → ∃ t, exec (.cancel o) s = .next t
          ∧ t.launch? lid = some { l with cancelled := true } ∧ t.mem = s.mem
          ∧ ∀ c ∈ l.cores, (t.core c).quads.map (fun x => (x.1, x.2.folds, x.2.stray)) =
              ((s.core c).discard lid).quads.map fun x => (x.1, x.2.folds, x.2.stray))
    ∧ (o.mbits 0 2 ≠ 0 → s.objOk (o.mbits 0 2) (e.a32 o) (e.l.recW 11) = none →
        Ends (.cancel o) o s r e 1 [1] fun t => t.mem = s.mem ∧ t.launches = s.launches))
  ∧ (∀ (s : State) (c lid part pa n : Nat) (tid : Option Nat) (va : DWord), (s.core c).l1 = [] →
      (s.core c).late = [] → s.hostBiased pa = false →
      (s.xlate (some c) 0 part va Acc.read).2 = .ok (.dev pa) → s.badRange pa n = false →
      (s.askV c lid tid part va n).2 = .data (memRead s.mem pa n))
  ∧ ∀ (core ag : Nat) (s : State) (a : Agent), s.agent? ⟨core, ag⟩ = some a → a.wait = some .cntwait →
      (s.core core).frozen = false → s.phase ≤ s.issueRank ⟨core, ag⟩ → ∃ t, exec (.cntwaitSatisfied core ag) s = .next t ∧ t.cur = some ⟨core, ag⟩
        ∧ t.agent? ⟨core, ag⟩ = some { a with wait := none }

/-! ### The system instructions -/

/-- R208, R209, R212, R213: SRD gives one active lane the value of the system register that it names. SWR writes the ones that can
be written, the three of the package only within their ranges; outside them the thread takes cause 0x02. What TFRAME and RACECTL
held before stays for the other events of the cycle (R213). A launch that is
not privileged takes cause 0x03 for those three, for TLBI and for HALT, and none of their effect: every thread of the drove
that no park awaits does, whether or not its guard holds (R79). -/
def Obligations.SystemRegistersAndPrivilege : Prop :=
  (Yields .srd (fun o => isSysReg o.imm.toNat) .v 1 (fun o e => .word (
      let hi := fun (v : DWord) => (v >>> 32).setWidth 32
      let n := o.imm.toNat
      if n = 0 then e.l.hintmiss
      else if n = 1 then e.l.tframe.setWidth 32 else if n = 2 then hi e.l.tframe
      else if n = 4 then e.l.racectl
      else if n = 5 then e.l.racelog.setWidth 32 else if n = 6 then hi e.l.racelog
      else if n = 0x10 then BitVec.ofNat 32 e.l.part
      else if n = 0x11 then (if e.l.priv then 1 else 0)
      else if n = 0x12 then Config.pkgId.setWidth 32
      else if n = 0x100 then e.s.migThresh else if n = 0x101 then e.s.qIdle else e.s.wgTimer)))
  ∧ (∀ (o : Op) (s : State) (r : AgentRef) (e : Env), Lone s r o e → (s.agentD r).shep = false →
    let lid := (s.agentD r).lid
    let v := e.a32 o
    let n := o.imm.toNat
    let writes := fun (l : Launch) => s.launch? lid = some e.l →
      Ends (.swr o) o s r e 0 [] fun t => t.mem = s.mem ∧ t.launch? lid = some l
        ∧ t.migThresh = s.migThresh ∧ t.qIdle = s.qIdle ∧ t.wgTimer = s.wgTimer
    let package := fun (mig idle timer : Word) => e.l.priv = true → Ends (.swr o) o s r e 0 [] fun t => t.mem = s.mem
      ∧ t.launches = s.launches ∧ t.migThresh = mig ∧ t.qIdle = idle ∧ t.wgTimer = timer
    let outside := fun (lo hi : Nat) => e.l.priv = true → (v.toNat < lo ∨ hi < v.toNat) → exec (.swr o) s =
      .next (((s.latch r o).updAgent r fun a => a.issued s.cycles o.ctl .v (destRegs o.d 0) [] []).trapLanesAt r
        (s.agentD r).pc [(e.n, 0x02, 0, 0)])
    (n = 1 → v.toNat % 512 = 0 → writes { e.l.keepWas s.cycles with tframe := ((e.l.tframe >>> 32).setWidth 32 : Word) ++ v })
    ∧ (n = 2 → v.toNat < 2 ^ 25 → writes { e.l.keepWas s.cycles with tframe := v ++ (e.l.tframe.setWidth 32 : Word) })
    ∧ (n = 4 → writes { e.l.keepWas s.cycles with racectl := v &&& 1 })
    ∧ (n = 5 → writes { e.l with racelog := ((e.l.racelog >>> 32).setWidth 32 : Word) ++ v })
    ∧ (n = 6 → writes { e.l with racelog := (v &&& 0x1FFFFFF) ++ (e.l.racelog.setWidth 32 : Word) })
    ∧ (n = 0x100 → 1 ≤ v.toNat → v.toNat ≤ 65535 → package v s.qIdle s.wgTimer)
    ∧ (n = 0x101 → 1 ≤ v.toNat → v.toNat ≤ 10000 → package s.migThresh v s.wgTimer)
    ∧ (n = 0x102 → 100 ≤ v.toNat → v.toNat ≤ 1000000 → package s.migThresh s.qIdle v)
    ∧ (n = 0x100 → outside 1 65535) ∧ (n = 0x101 → outside 1 10000) ∧ (n = 0x102 → outside 100 1000000))
  ∧ ∀ (i : Op → Instr) (o : Op) (s : State) (r : AgentRef), s.cur = some r → (s.launchD (s.agentD r).lid).priv = false →
    (i = .swr ∧ (o.imm = 0x100 ∨ o.imm = 0x101 ∨ o.imm = 0x102)) ∨ i = .tlbi ∨ i = .halt →
    exec (i o) s = .next (s.trapLanes r ((s.agentD r).live.map fun x => (x.1, 0x03, 0, 0)))

/-- R210, R211, R212, R319, R336: CCTL by one active lane, on lines of one page that leads to device memory, completes, `.wb` and
`.inv` where none of the core's outstanding stores is in the range, for which they else wait; `.inv` leaves no clean line of it in the L1, `.farinv` nothing of it in
the far cache, and `.icinv` none of its words in the instruction cache. TLBI of a privileged launch leaves no translation
that overlaps its range in any TLB or walk cache, and no word of its pages in an instruction cache. HALT of a running partition puts it into the halting state, stops its cores and waits;
it completes once the partition has halted. Memory is unchanged by all of them. That CCTL waits for stores alone, that TLBI
acts at once, and how HALT waits, is deduced (logs 43 and 49). -/
def Obligations.CacheTlbAndHaltControl : Prop :=
  ∀ (o : Op) (s : State) (r : AgentRef) (e : Env), Lone s r o e →
    let a := s.agentD r
    let done := fun (i : Instr) (P : State → Prop) => ∃ t, exec i s = .next t ∧ Keeps s t r ∧ t.mem = s.mem
      ∧ t.agentD r = a.issued s.cycles o.ctl .f4 (destRegs o.d 0) [] [] ∧ P t
    (∀ (va : DWord) (n pa : Nat), cctlSpans (e.a64 o) (e.b32 o).toNat = [(va, n)] →
      (e.s.xlate (some r.core) 0 e.l.part va Acc.touch).2 = .ok (.dev pa) →
      ((∀ x ∈ (s.core r.core).outst, meets x.loc.key x.bytes.length pa n = false) →
        done (.cctlWb o) (fun t => (t.core r.core).l1 = (s.core r.core).l1)
        ∧ done (.cctlInv o) (fun t => ∀ x ∈ (t.core r.core).l1, pa ≤ x.1 → x.1 < pa + n → x.2.dirty = true))
      ∧ ((∃ x ∈ (s.core r.core).outst, meets x.loc.key x.bytes.length pa n = true) → ∀ i : Op → Instr, i = .cctlWb ∨ i = .cctlInv →
        ∃ t, exec (i o) s = .next t ∧ t.mem = s.mem ∧ (t.core r.core).l1 = (s.core r.core).l1
          ∧ (t.agentD r).wait = some (.fence [(pa, n)]) ∧ (t.agentD r).pc = a.pc)
      ∧ done (.cctlFarinv o) (fun t => ∀ x ∈ t.fabric.far, ¬(pa ≤ x.1 ∧ x.1 < pa + n))
      ∧ done (.cctlIcinv o) (fun t => ∀ x ∈ (t.core r.core).icache,
          ¬(icKey e.l.part va ≤ x.1 ∧ x.1 < icKey e.l.part va + n)))
    ∧ (e.l.priv = true → Ends (.tlbi o) o s r e 0 [] fun t => t.mem = s.mem
        ∧ (∀ c, ∀ x ∈ (t.core c).tlb, tlbHit e.l.part (tlbiRange (e.a64 o) (e.b32 o)) x = false)
        ∧ (∀ x ∈ t.fabric.tlb, tlbHit e.l.part (tlbiRange (e.a64 o) (e.b32 o)) x = false)
        ∧ (∀ x ∈ t.fabric.walks, walkHit e.l.part (tlbiRange (e.a64 o) (e.b32 o)) x.1 = false)
        ∧ ∀ c, ∀ x ∈ (t.core c).icache, x.1 / 2 ^ 57 = e.l.part →
            let g := tlbiRange (e.a64 o) (e.b32 o)
            meets (x.1 % 2 ^ 57 / 65536) 1 g.1 g.2 = false)
    ∧ (e.l.priv = true → (e.a32 o).toNat ≤ 15 → (e.a32 o).toNat ≠ e.l.part → a.served = [] →
        let p := (e.a32 o).toNat
        (s.pState p = 1 → ∃ t, exec (.halt o) s = .next t ∧ t.mem = s.mem ∧ t.pState p = 2
          ∧ (t.agentD r).wait = some (.halt p) ∧ (t.agentD r).pc = a.pc ∧ ∀ c ∈ s.partCores p, (t.core c).frozen = true)
        ∧ (s.pState p ≠ 1 → s.pState p ≠ 2 → done (.halt o) fun t => t.pState p = s.pState p))
    ∧ (e.l.priv = true → (e.a32 o).toNat ≤ 15 → (e.a32 o).toNat ≠ e.l.part →
        a.served = [(2 ^ 34 + (e.a32 o).toNat, 2)] → done (.halt o) fun t => ∀ p, t.pState p = s.pState p)

/-! ### Droves -/

/-- R64 to R68, R102, R120, R225, R228: what reaches a drove, and its issue. RESULT_LANDING lands the oldest result of class V, an order among
results that is the model's choice (log 73); LIVE_IN_FETCH
brings the next four live-in registers; PEN_DEMAND_READ brings a register that was asked for. A drove may issue only when it
waits on nothing, its issue cycle has come, the scoreboards of its wait mask are zero, its own scoreboard has room, no c
register that it reads must still come, and, but in trusted mode, no register that it reads has a result outstanding; SREAD
waits for every result. Where no later pass of an instruction holds them, pipe A takes the first ready drove of a quadrant
and pipe B the second, of those that have given no issue cycle away. Each comes in its turn of the cycle (log 1). -/
def Obligations.DrovesReceiveAndIssue : Prop :=
  (∀ (core ag : Nat) (s : State) (a : Agent), s.agent? ⟨core, ag⟩ = some a →
    let gets := fun (i : Instr) (b : Agent) => ∃ t, exec i s = .next t ∧ t.mem = s.mem ∧ t.agent? ⟨core, ag⟩ = some b
      ∧ ∀ r, r ≠ ⟨core, ag⟩ → t.agent? r = s.agent? r
    (∀ p ps, s.phase ≤ turnRank 4 core 0 0 → a.pending = p :: ps → (∀ q ∈ p :: ps, q.due = none) → p.await = [] →
      gets (.resultLanding core ag) { a with
        pending := ps
        lanes := p.writes.foldl (fun x w => Tab.upd x w.lane fun l => match w.reg with
          | .w n => { l with w := Tab.set l.w n w.val, bad := l.bad.filter (· != n) }
          | .c n => { l with cw := Tab.set l.cw n w.val }
          | .p n => { l with p := Tab.set l.p n (w.val != 0) }) a.lanes })
    ∧ gets (.liveInFetch core ag) { a with livein := a.livein.drop 4, fetched := a.fetched ++ a.livein.take 4 }
    ∧ ∀ reg, reg ∈ a.demand → gets (.penDemandRead core ag reg)
        { a with demand := a.demand.filter (· != reg), fetched := a.fetched ++ [reg] })
  ∧ (∀ (a : Agent) (now : Nat) (trusted sread : Bool) (c : Ctl) (reads : List Reg),
    a.hold now trusted c reads sread = .ready ↔ a.ended = false ∧ a.wait = none ∧ a.next ≤ now
      ∧ ((a.drain = true ∨ sread = true) → a.pending = []) ∧ (∀ n, n < 8 → c.wait.getLsbD n = true → a.sb n = 0)
      ∧ (c.setv = true → a.sb c.set.toNat < 63) ∧ a.penNeeds reads = []
      ∧ (trusted = true ∨ ∀ p ∈ a.pending, ∀ x ∈ p.regs, x ∉ reads))
  ∧ (∀ (core q x y : Nat) (rest : List (Nat × Option Bool)) (s : State), (s.core core).frozen = false →
    (∀ t p, Tab.get? (s.core core).picks q = some (t, p) → t ≠ s.cycles) → (∀ b, s.pipeFree core q b = true) →
    let turn := turnRank 3 core (q + 1) 0
    s.phase ≤ turn → turn ≤ s.issueRank ⟨core, x⟩ → turn ≤ s.issueRank ⟨core, y⟩ → x ≠ y →
    (({ s with phase := turn } : State).readyDroves core q).2 = (x, none) :: (y, none) :: rest →
    (∃ t, exec (.droveIssue core q false) s = .next t ∧ t.cur = some ⟨core, x⟩ ∧ t.mem = s.mem)
    ∧ ∃ t, exec (.droveIssue core q true) s = .next t ∧ t.cur = some ⟨core, y⟩ ∧ t.mem = s.mem)
  ∧ ∀ (core q ag : Nat) (s : State) (a : Agent) (w : IWord) (i : Instr), (s.core core).frozen = false →
    (s.core core).agents = [(ag, a)] → a.shep = false → a.quad = q → a.ended = false → a.pending = [] →
    (∀ t p, Tab.get? (s.core core).picks q = some (t, p) → t ≠ s.cycles) → s.pipeFree core q false = true →
    s.fabric.biasJob = none → s.fabric.blocked = false → s.phase ≤ turnRank 3 core (q + 1) 0 →
    WordThere s core (s.launchD a.lid) a.pc w → decodeWord ((s.launchD a.lid).ctx false) w = .ok i →
    a.hold s.cycles (s.launchD a.lid).trusted (instrCtl i) (instrReads i) (isSread i) = .ready →
    ∃ t, exec (.droveIssue core q false) s = .next t ∧ t.cur = some ⟨core, ag⟩ ∧ t.mem = s.mem
      ∧ t.agent? ⟨core, ag⟩ = some { a with cede := if a.cede = some false then none else a.cede, pipe := false }

/-- R217, R219, R220: a fold that is no team fold is eligible once a team's width of its threads arrived before the cycle, or
one is of age AGELIM, four times that for a thread that joined. FOLD_AGE_EXPIRY fixes the cycle from which a fold is eligible.
DROVE_FORMATION makes of the eligible fold's drawn threads, where slots are free, a drove that starts at the fold's address
with their lanes in ascending TID; the other threads stay. -/
def Obligations.FoldsFormDroves : Prop :=
  (∀ (s : State) (c : Nat) (f : Fold) (now : Nat), f.team = false → f.since ≤ now →
    ((∃ at_, s.eligibleAt c f = some at_ ∧ at_ ≤ now) ↔
      (s.launchD f.lid).width ≤ (f.members.filter fun m => decide (m.arrived < now)).length
      ∨ ∃ m ∈ f.members, m.arrived + (if m.join then 4 else 1) * (s.launchD f.lid).age ≤ now))
  ∧ (∀ (core q fold at_ : Nat) (s : State) (f : Fold), Tab.get? (s.quad core q).folds fold = some f → f.elig = none → (s.core core).frozen = false →
    s.eligibleAt core f = some at_ → at_ ≤ s.cycles →
    ∃ t, exec (.foldAgeExpiry core q fold) s = .next t ∧ t.mem = s.mem ∧ (t.quad core q).lastElig = s.cycles
      ∧ Tab.get? (t.quad core q).folds fold = some { f with elig := some at_ })
  ∧ (∀ (s : State) (c : Nat) (f : Fold), f.team = false →
    (∀ m, m ∈ s.drawn c f → m ∈ f.members ∧ m.arrived < s.cycles ∧ ∀ x ∈ f.members, x.arrived < s.cycles →
      x ∈ s.drawn c f ∨ m.arrived < x.arrived ∨ (m.arrived = x.arrived ∧ m.tid ≤ x.tid))
    ∧ (s.drawn c f).length = min (s.launchD f.lid).width (f.members.filter fun m => decide (m.arrived < s.cycles)).length)
  ∧ ∀ (core q n : Nat) (s : State) (f : Fold), (s.core core).frozen = false → Tab.wf (s.quad core q).folds = true →
    s.phase ≤ turnRank 2 core (q + 1) 1 → s.headFold core q = some (n, f) →
    s.drawn core f ≠ [] → s.slotsUsed core q + (s.launchD f.lid).width / 32 ≤ 16 →
    let ms := s.drawn core f
    let id := (s.core core).nextAg
    ∃ t a, exec (.droveFormation core q) s = .next t ∧ t.mem = s.mem ∧ t.agent? ⟨core, id⟩ = some a
      ∧ a.shep = false ∧ a.lid = f.lid ∧ a.quad = q ∧ a.pc = f.addr ∧ a.resume = f.resume ∧ a.size = ms.length
      ∧ a.formed = s.cycles ∧ a.pending = [] ∧ a.wait = none ∧ a.ended = false
      ∧ (a.lanes.map (·.2.tid)).Pairwise (· ≤ ·) ∧ (a.lanes.map (·.2.tid)).Perm (ms.map (·.tid))
      ∧ (a.lanes.map (·.1)) = List.range ms.length
      ∧ (∀ m ∈ ms, (t.thread core f.lid m.tid).place = .drove id)
      ∧ (t.quad core q).lastElig = s.cycles ∧ (t.quad core q).stray = (s.quad core q).stray
      ∧ ∀ g, Tab.get? (t.quad core q).folds n = some g → ∀ m ∈ g.members, m ∈ f.members ∧ ∀ x ∈ ms, x.tid ≠ m.tid

/-- R68, R122, R126, R216, R222, R223: threads between blocks. BLOCK_EXIT_FILING files each thread of a drove whose block has
ended, its c registers in the pen, and the drove dissolves; a thread with EXIT is gone. STRAY_REFILE gives the stray list's
first thread a free fold, with the others of its launch, address and kind, up to 32 in the cycle. SPILL takes a team fold for the stray list where
all 32 are in use and none has been eligible for four times AGELIM. -/
def Obligations.ThreadsMove : Prop :=
  (∀ (core ag n d : Nat) (s : State) (a : Agent) (ln : Lane) (target : DWord) (k : ExitKind) (team landing : Bool),
    (s.core core).agents = [(ag, a)] → a.shep = false → a.ended = true → a.pending = [] → a.held = [] →
    a.lanes = [(n, ln)] → ln.parking = none → ln.exit = some (target, k) → Tab.wf ln.cw = true →
    let l := s.launchD a.lid
    s.phase ≤ turnRank 4 core (a.quad + 1) ag → l.cancelled = false → k = .plain ∨ k = .join → (s.thread core a.lid ln.tid).depth = d →
    BlkThere s core l target team landing →
    ∃ t, exec (.blockExitFiling core ag) s = .next t ∧ t.mem = s.mem ∧ (t.core core).agents = []
      ∧ let th := t.thread core a.lid ln.tid
        th.next = target ∧ th.resume = false ∧ (th.joined = true ↔ k = .join) ∧ th.depth = d
        ∧ ∀ j, Tab.get? th.c j = (Tab.get? ln.cw j).or (Tab.get? (s.thread core a.lid ln.tid).c j))
  ∧ (∀ (core ag n : Nat) (s : State) (a : Agent) (ln : Lane) (target : DWord),
    (s.core core).agents = [(ag, a)] → a.shep = false → a.ended = true → a.pending = [] → a.held = [] →
    a.lanes = [(n, ln)] → ln.parking = none → ln.exit = some (target, .exit) → Tab.wf (s.core core).threads = true →
    s.phase ≤ turnRank 4 core (a.quad + 1) ag →
    (s.launchD a.lid).cancelled = false → (s.core core).outst = [] → (s.core core).copies = [] → s.fabric.remote = [] →
    ∃ t, exec (.blockExitFiling core ag) s = .next t ∧ (t.core core).agents = []
      ∧ Tab.get? (t.core core).threads (threadKey a.lid ln.tid) = none)
  ∧ (∀ (core q key n : Nat) (rest : List Nat) (s : State), (s.quad core q).stray = key :: rest →
    n < 32 → Tab.get? (s.quad core q).folds n = none → (∀ m, m < n → (Tab.get? (s.quad core q).folds m).isSome = true) →
    (s.core core).frozen = false → s.phase ≤ turnRank 2 core (q + 1) 0 → (s.quad core q).refile.1 ≠ s.cycles → (s.quad core q).refile.2.2 = none →
    let th := fun (x : Nat) => Tab.getD (s.core core).threads x (Thread.fresh 0 0 0)
    let same := fun (x : Nat) => decide ((th x).lid = (th key).lid ∧ (th x).next = (th key).next ∧ (th x).resume = (th key).resume)
    let took := ((key :: rest).filter same).take 32
    ∃ t f, exec (.strayRefile core q) s = .next t ∧ t.mem = s.mem
      ∧ (t.quad core q).stray = (key :: rest).filter (fun x => !took.contains x)
      ∧ Tab.get? (t.quad core q).folds n = some f ∧ f.lid = (th key).lid ∧ f.addr = (th key).next ∧ f.resume = (th key).resume
      ∧ f.members.map (·.tid) = took.map (fun x => (th x).tid) ∧ (∀ m ∈ f.members, m.arrived = s.cycles)
      ∧ ∀ x v, x ∈ took → Tab.get? (s.core core).threads x = some v →
        Tab.get? (t.core core).threads x = some { v with place := .filed n })
  ∧ ∀ (core q n : Nat) (s : State) (f : Fold), (s.quad core q).stray ≠ [] → (s.quad core q).folds.length = 32 →
    s.headFold core q = none → (∀ e ∈ (s.quad core q).folds, (s.quad core q).lastElig + 4 * (s.launchD e.2.lid).age ≤ s.cycles) →
    spillChoice (s.quad core q).folds = some (n, f) → (s.core core).frozen = false →
    s.phase ≤ turnRank 4 core (q + 1) (2 ^ 60) →
    ∃ t, exec (.spill core q) s = .next t ∧ t.mem = s.mem ∧ f.team = true
      ∧ (t.quad core q).folds = Tab.erase (s.quad core q).folds n
      ∧ (t.quad core q).stray = (s.quad core q).stray ++ (sortMembers f.members).map (fun m => threadKey f.lid m.tid)
      ∧ ∀ m ∈ f.members, (t.thread core f.lid m.tid).place = .stray

/-- R129, R229 to R232, R234: THREAD_PARK takes a marked lane whose drove waits for no other package out of the drove; where
it parks for resolution it stays in the fault fold with its registers, and its core's queue gets a record of KIND 1.
FAULT_RESOLUTION_RESUME files a thread of the fault fold that waits on no record at its word, or, parked at its block's
exit, at its target. YIELD_EXPIRY lets a drove issue again after its cycles. TRACKER_ENTRY_DRAINED frees an entry whose
accesses are done, and its team retires if it is complete. -/
def Obligations.ParkedThreadsGoOn : Prop :=
  (∀ (core ag lane : Nat) (s : State) (a : Agent) (ln : Lane) (p : Park), s.agent? ⟨core, ag⟩ = some a → a.shep = false →
    a.pending = [] → Tab.get? a.lanes lane = some ln → ln.parking = some p → p.cause = 5 → Tab.wf a.lanes = true →
    let base := (s.reg64 0x30100).toNat
    let seq := (s.fq core).next
    let l := s.launchD a.lid
    s.lanesAway ⟨core, ag⟩ = [] → s.phase ≤ turnRank 4 core 0 0 → l.cancelled = false → base ≠ 0 → core < 400 → (s.fq core).recs = [] → (s.fq core).ovf = false → s.root 16 = 0 → s.errs.bad = [] →
    base + 8192 * core + 8192 ≤ memSize → Memory.wf s.mem = true →
    ∃ t, exec (.threadPark core ag lane) s = .next t
      ∧ memRead t.mem (base + 8192 * core + 32 * (seq % 256)) 32 = bytesOfWords
        [BitVec.ofNat 32 (2 ^ 28 + p.path * 2 ^ 24 + 5 * 2 ^ 16 + p.acc * 2 ^ 12), BitVec.ofNat 32 seq,
         p.addr.setWidth 32, (p.addr >>> 32).setWidth 32, l.recW 8, BitVec.ofNat 32 ln.tid,
         BitVec.ofNat 32 (s.space l.part * 65536 + l.part * 4096), 1]
      ∧ (∀ b, t.agent? ⟨core, ag⟩ = some b → Tab.get? b.lanes lane = none ∧ ln.tid ∈ b.held)
      ∧ let th := t.thread core a.lid ln.tid
        th.place = .faultFold ∧ th.park = some p ∧ th.row = some (some ag, ln.w, ln.p))
  ∧ (∀ (core lid tid : Nat) (s : State) (th : Thread) (p : Park),
    Tab.get? (s.core core).threads (threadKey lid tid) = some th → th.place = .faultFold → th.park = some p →
    (∀ q ∈ s.fabric.fqs, ∀ e ∈ q.2.recs, Waiter.thread core lid tid ∉ e.2.waiters) → (∀ e ∈ s.fabric.remote, e.2.ofLane = true) →
    (s.core core).frozen = false →
    (p.target = none → ∃ t, exec (.faultResolutionResume core lid tid) s = .next t ∧ t.mem = s.mem
      ∧ (t.thread core lid tid).next = p.word ∧ (t.thread core lid tid).resume = true)
    ∧ ∀ target team landing, p.target = some (target, .plain) → BlkThere s core (s.launchD lid) target team landing →
      ∃ t, exec (.faultResolutionResume core lid tid) s = .next t ∧ t.mem = s.mem
        ∧ (t.thread core lid tid).next = target ∧ (t.thread core lid tid).resume = false
        ∧ (t.thread core lid tid).park = none)
  ∧ (∀ (core ag until_ : Nat) (s : State) (a : Agent), s.agent? ⟨core, ag⟩ = some a → a.wait = some (.yield until_) →
    until_ ≤ s.cycles →
    ∃ t b, exec (.yieldExpiry core ag) s = .next t ∧ t.mem = s.mem ∧ t.agent? ⟨core, ag⟩ = some b
      ∧ b.wait = none ∧ b.pc = a.pc)
  ∧ ∀ (core idx : Nat) (s : State) (x : Track) (l : Launch), Tab.get? (s.core core).tracker idx = some x →
    Tab.wf (s.core core).tracker = true → s.launch? x.lid = some l →
    (∀ i ∈ x.acc, ∀ o ∈ (s.core core).outst, o.id ≠ i) →
    (∀ i ∈ x.copies, ∀ y, Tab.get? (s.core core).copies i.1 = some y → y.live = true → y.gen ≠ i.2) →
    (∀ i ∈ x.reqs, Tab.get? s.fabric.remote i = none) →
    (∀ e ∈ (s.core core).tracker, e.1 ≠ idx → e.2.lid ≠ x.lid ∨ e.2.team ≠ x.team) →
    ∃ t, exec (.trackerEntryDrained core idx) s = .next t ∧ Tab.get? (t.core core).tracker idx = none
      ∧ (l.cancelled = false → (∀ i ∈ l.teamTids x.team, Tab.get? (s.core core).threads (threadKey x.lid i) = none) →
        (t.launchD x.lid).teams = l.teams + 1)

/-! ### The launch front end -/

/-- R7, R8, R266, R297, R313, R335, R377, R383: once the part is READY, a register of BAR 0 takes the bits that it holds of
what the host writes, and MBDOOR submits the command of the mailbox registers. R267, R269, R270, R272: the halves of a
doorbell write join in the latch, for 10 µs; a doorbell gives its queue a slot and moves WRIDX to a tail that is ahead of it
by no more than the ring holds, and stops the queue where it is more. A queue that has been idle for QIDLE µs leaves its
slot. That bits to be written as zero hold 0 is deduced (log 61). -/
def Obligations.HostWritesAndDoorbells : Prop :=
  (∀ (off : Nat) (mask v : Word) (s : State), s.isReady = true → Tab.wf s.front.regs = true →
    (off, mask) ∈ [(0, 0xFFFFFFC0), (4, 0x1FFFFFF), (0x10, 0xFFFFFFE0), (0x14, 0x1FFFFFF), (0x40C, 0xF8000000),
      (0x410, 0x1FFFFFF), (0x414, 0x3FF), (0x20000, 0xFFFFFFC0), (0x20004, 0x1FFFFFF), (0x20008, 0xFF), (0x30000, 0xFFFFF000),
      (0x30004, 0x1FFFFFF), (0x30008, 0x8000FFFF), (0x30100, 0xFFFE0000), (0x30104, 0x1FFFFFF), (0x30110, 0xFFFFFFFC),
      (0x30130, 0xFFFF0000), (0x30150, 0xFFFFFC00), (0x30160, 0xFFFFF000), (0x30164, 0x1FFFFFF)] →
    ∃ t, exec (.hostRegisterWrite off v) s = .next t ∧ t.reg off = v &&& mask ∧ t.mem = s.mem
      ∧ ∀ x, x ≠ off → t.reg x = s.reg x)
  ∧ (∀ s : State, s.isReady = true → (s.reg 0x5000C).getLsbD 31 = false → (s.reg 0x50004).toNat / 65536 ≤ 4096 →
    ∃ t cmd, exec (.hostRegisterWrite 0x50000 1) s = .next t ∧ (t.reg 0x5000C).getLsbD 31 = true ∧ t.fw.mbHost = some cmd
      ∧ cmd.master = .host ∧ cmd.opcode = (s.reg 0x50004).toNat % 256 ∧ cmd.seq = s.reg 0x50008
      ∧ cmd.payload.length = (s.reg 0x50004).toNat / 65536
      ∧ ∀ i, i < cmd.payload.length → cmd.payload[i]? = some (Tab.getD s.fw.data i 0))
  ∧ (∀ (q : Nat) (lo hi : Word) (since : Nat) (s : State), s.isReady = true → q < 8192 → Tab.wf s.front.latch = true →
    (∃ t, exec (.doorbellLowHalf q lo) s = .next t ∧ Tab.get? t.front.latch q = some (lo, s.nanos) ∧ t.mem = s.mem)
    ∧ (Tab.get? s.front.latch q = some (lo, since) →
      (since + 10000 < s.nanos → ∃ t, exec (.doorbellLatchExpiry q) s = .next t ∧ Tab.get? t.front.latch q = none
        ∧ exec (.doorbellSignal q (.high hi)) s = .next t)
      ∧ (s.nanos ≤ since + 10000 → exec (.doorbellLatchExpiry q) s = .next s
        ∧ exec (.doorbellSignal q (.high hi)) s = exec (.doorbellSignal q (.full (pairOf lo hi))) s)))
  ∧ (∀ (q : Nat) (v : DWord) (s : State) (d : List Word), s.isReady = true → q < 8192 → s.root 16 = 0 → s.errs.bad = [] →
    Memory.wf s.mem = true → Tab.wf s.front.latch = true → Tab.wf s.front.slots = true → s.qtBase q + 64 * q + 64 ≤ memSize → s.qdesc q = some d →
    qDevq d = false → qStopped d = false → v ≠ qWr d → (v - qWr d).toNat < 2 ^ 63 →
    let at_ := s.qtBase q + 64 * q
    ∃ t n sl, exec (.doorbellSignal q (.full v)) s = .next t ∧ t.slotOf q = some (n, sl) ∧ sl.last = s.nanos
      ∧ Tab.get? t.front.latch q = none
      ∧ ((v - qRd d).toNat ≤ qSize d → word64 (memRead t.mem (at_ + 24) 8) = v
        ∧ ∀ x, x < at_ + 24 ∨ at_ + 32 ≤ x → memGet t.mem x = memGet s.mem x)
      ∧ (qSize d < (v - qRd d).toNat → (word32 (memRead t.mem (at_ + 8) 4)).getLsbD 10 = true
        ∧ word32 (memRead t.mem (at_ + 32) 4) = 1 ∧ word64 (memRead t.mem (at_ + 40) 8) = v
        ∧ ∀ x, x < at_ + 8 ∨ at_ + 12 ≤ x ∧ x < at_ + 32 ∨ at_ + 36 ≤ x ∧ x < at_ + 40 ∨ at_ + 48 ≤ x →
          memGet t.mem x = memGet s.mem x))
  ∧ ∀ (slot : Nat) (s : State) (sl : Slot) (d : List Word), Tab.get? s.front.slots slot = some sl → sl.head = none →
    Tab.wf s.front.slots = true → Tab.getD s.front.requeue sl.queue [] = [] → s.qdesc sl.queue = some d → qRd d = qWr d →
    sl.last + s.qIdle.toNat * 1000 ≤ s.nanos → s.front.rescan = [] →
    ∃ t, exec (.queueIdleUnmap slot) s = .next t ∧ Tab.get? t.front.slots slot = none ∧ t.mem = s.mem

/-- R269, R274, R275, R277, R279, R280, R300: a launch from its record to its start. LAUNCH_RECORD_READ takes the next
record of a slot's queue, and RDIDX advances; a record without objects and dependence is ready at once. DEPENDENCE_READ
makes a head ready once its counter has reached DEPVAL. ARBITER_DECISION takes a ready client that none goes before: the
lower PRIO first, then the lower PASS. BINDING reads the header and takes the first target that the partition has. PLACEMENT
gives the launch its cores, with a shepherd on each that starts at SHENTRY with its number and the count of cores; the
arguments are the k registers; the client's PASS grows by the stride; no clean line stays in the L1 of its cores, and none in
the far cache (R348; that every launch has this is deduced, log 62). That PASS starts at 0 is the model's choice (log 6). -/
def Obligations.LaunchesStart : Prop :=
  (∀ (slot pa : Nat) (s : State) (sl : Slot) (d : List Word), Tab.get? s.front.slots slot = some sl → sl.head = none →
    sl.given = none → Tab.getD s.front.requeue sl.queue [] = [] → s.front.cancelled = [] → s.qdesc sl.queue = some d → qStopped d = false →
    qRd d ≠ qWr d → HubAt s (qPart d) (qRing d + BitVec.ofNat 64 (64 * ((qRd d).toNat % qSize d))) 64 pa →
    s.root 16 = 0 → s.qtBase sl.queue + 64 * sl.queue + 64 ≤ memSize → s.front.halted = [] → Memory.wf s.mem = true →
    let w := wordsOf 16 (memRead s.mem pa 64)
    recordOk w = true → (∀ i ∈ [9, 10, 11, 12, 13], w.getD i 0 = 0) →
    ∃ t l, exec (.launchRecordRead slot) s = .next t ∧ t.launch? s.nextLid = some l ∧ l.rec_ = w ∧ l.st = .head
      ∧ l.ready = true ∧ l.part = qPart d ∧ l.priv = qPriv d ∧ l.queue = some sl.queue
      ∧ l.hdrAddr.toNat = (pairOf (w.getD 0 0) (w.getD 1 0)).toNat / 64 * 64
      ∧ (Tab.get? t.front.slots slot).map (·.head) = some (some s.nextLid)
      ∧ word64 (memRead t.mem (s.qtBase sl.queue + 64 * sl.queue + 16) 8) = qRd d + 1)
  ∧ (∀ (slot lid pa : Nat) (s : State) (sl : Slot) (l : Launch), Tab.get? s.front.slots slot = some sl → sl.head = some lid →
    s.launch? lid = some l → l.st = .head → l.ready = false → l.rec64 12 ≠ 0 → HubAt s l.part (l.rec64 12) 8 pa →
    ∃ t, exec (.dependenceRead slot) s = .next t ∧ t.mem = s.mem ∧ t.launch? lid = some { l with
      ready := decide ((l.recW 14).toNat ≤ (word64 (memRead s.mem pa 8)).toNat) })
  ∧ (∀ (part : Nat) (s : State), Tab.get? s.front.serving part = none → s.front.rebound = [] → s.readyClients part ≠ [] →
    ∃ t x, exec (.arbiterDecision part) s = .next t ∧ t.mem = s.mem ∧ x ∈ s.readyClients part
      ∧ Tab.get? t.front.serving part = some x.1
      ∧ ∀ y ∈ s.readyClients part, x.2.2.prio < y.2.2.prio
        ∨ (x.2.2.prio = y.2.2.prio ∧ (s.passOf x.1).toNat ≤ (s.passOf y.1).toNat))
  ∧ (∀ (part lid pa tgt : Nat) (s : State) (c : Client) (l : Launch) (im : Image), s.served part = some (c, lid, l) →
    l.part = part → s.launch? lid = some l → l.st = .head → (s.reg (0x408 + 32 * part)).toNat % 8 ≤ 1 →
    s.imageFor part l.hdrAddr = some im → im.res = none → HubAt s part l.hdrAddr 64 pa →
    let h := wordsOf 16 (memRead s.mem pa 64)
    let l' := { l with hdr := h }
    headerOk h = true → rowA l'.class_ l'.fmtA = true → rowB l'.class_ l'.fmtB = true →
    (candidates l'.policy l'.class_).find? (fun x => !(s.targetChips part x).isEmpty) = some tgt →
    l'.nthreads ≤ l'.ncores * 4096 → l'.ncores ≤ 40 * (s.targetChips part tgt).length →
    ∃ t, exec (.binding part) s = .next t ∧ t.mem = s.mem ∧ t.launch? lid = some { l with
      hdr := h, st := .bound, target := tgt, emul := tgt != l'.class_, codeBase := BitVec.ofNat 64 im.code, codeSize := im.size
      key := s.imageKey im tgt (tgt != l'.class_), relocs := im.relocs })
  ∧ ∀ (part lid pa : Nat) (s : State) (c : Client) (l : Launch) (cores : List Nat), s.served part = some (c, lid, l) →
    l.part = part → s.launch? lid = some l → l.st = .bound → l.waits = false → (s.reg (0x408 + 32 * part)).toNat % 8 = 1 →
    s.place l = some cores → HubAt s part (l.rec64 4) 128 pa →
    ∃ t l', exec (.placement part) s = .next t ∧ t.launch? lid = some l' ∧ l'.st = .running ∧ l'.cores = cores
      ∧ (∀ i, i < 32 → Tab.get? l'.k i = some ((wordsOf 32 (memRead s.mem pa 128)).getD i 0))
      ∧ t.passOf c = s.passOf c + l.stride ∧ t.fabric.far = []
      ∧ ∀ i k, cores[i]? = some k → (∀ e ∈ (t.core k).l1, e.2.dirty = true)
        ∧ (Tab.get? (t.core k).res lid).isSome = true ∧ ∃ e ∈ (t.core k).agents, ∃ ln,
        e.2.shep = true ∧ e.2.lid = lid ∧ e.2.pc = l.hdrAddr + (l.hdrW 1).signExtend 64 ∧ e.2.lanes = [(0, ln)]
        ∧ ln.w = [(0, BitVec.ofNat 32 i), (1, BitVec.ofNat 32 l.ncores)]

/-- R45, R282, R283, R288 to R290, R297, R303: the end of launches, batches and images. LAUNCH_COMPLETION writes the outcome and
the launch's record into the completion block, counts DONE, and releases the cores; a launch that is to fall back returns to
its queue with the next header. FLAG_MERGE_TO_HUB and ENABLE_PROPAGATION exchange the status word between a core and the hub.
BATCH_TIMER_EXPIRY closes a batch; BATCH_LAUNCH writes its arguments and makes it a launch. LDRCMD starts the loader, which
registers an image that passes its checks, or unregisters one. -/
def Obligations.LaunchesEnd : Prop :=
  (∀ (lid pa : Nat) (s : State) (l : Launch) (a : DWord), s.launch? lid = some l → Tab.wf s.launches = true →
    l.st = .running → (s.reg (0x408 + 32 * l.part)).toNat % 8 < 4 → (∀ c ∈ l.cores, s.coreDone c lid = true) → (l.recW 0).getLsbD 0 = false → l.node = none →
    (∀ i ∈ [9, 10, 11], l.recW i = 0) → l.doneNew = false → l.compl = some a → HubAt s l.part a 64 pa → Memory.wf s.mem = true →
    (∀ c ∈ l.cores, Tab.wf (s.core c).res = true) →
    ∃ t, exec (.launchCompletion lid) s = .next t ∧ t.launch? lid = none
      ∧ word64 (memRead t.mem pa 8) = word64 (memRead s.mem pa 8) + 1
      ∧ word32 (memRead t.mem (pa + 8) 4) = (match l.stop with
        | some st => BitVec.ofNat 32 (st.cause2.toNat * 65536 + st.cause.toNat * 256 + 2)
        | none => if l.cancelled then 1 else 0)
      ∧ word32 (memRead t.mem (pa + 12) 4) = BitVec.ofNat 32 l.teams
      ∧ (∀ st, l.stop = some st → word32 (memRead t.mem (pa + 16) 4) = st.who ∧ word32 (memRead t.mem (pa + 20) 4) = st.tpc
        ∧ word64 (memRead t.mem (pa + 24) 8) = st.addr)
      ∧ (∀ x, x < pa ∨ pa + 64 ≤ x → memGet t.mem x = memGet s.mem x)
      ∧ ∀ c ∈ l.cores, Tab.get? (t.core c).res lid = none ∧ (∀ e ∈ (t.core c).agents, e.2.lid ≠ lid)
        ∧ ∀ e ∈ (t.core c).threads, e.2.lid ≠ lid)
  ∧ (∀ (lid q : Nat) (s : State) (l : Launch) (st : Stop), s.launch? lid = some l → l.st = .running →
    (s.reg (0x408 + 32 * l.part)).toNat % 8 < 4 →
    (∀ c ∈ l.cores, s.coreDone c lid = true) → (l.recW 0).getLsbD 0 = true → l.node = none → l.again = false →
    l.queue = some q → l.stop = some st → st.cause = 0x0C →
    ∃ t l', exec (.launchCompletion lid) s = .next t ∧ t.mem = s.mem ∧ t.launch? lid = some l' ∧ l'.st = .head
      ∧ l'.again = true ∧ l'.hdrAddr = l.hdrAddr + 64 ∧ l'.rec_ = l.rec_
      ∧ Tab.get? t.front.requeue q = some (Tab.getD s.front.requeue q [] ++ [lid]))
  ∧ (∀ (core lid : Nat) (s : State) (r : Res) (l : Launch), Tab.get? (s.core core).res lid = some r → s.launch? lid = some l →
    (∃ t, exec (.flagMergeToHub core lid) s = .next t ∧ t.mem = s.mem
      ∧ (t.launchD lid).num &&& 0xFF = (l.num ||| r.num) &&& 0xFF ∧ (t.launchD lid).num &&& 0x7F0000 = l.num &&& 0x7F0000
      ∧ ((t.launchD lid).num >>> 24).toNat = min 255 ((l.num >>> 24).toNat + (r.num >>> 24).toNat)
      ∧ (t.res core lid).num = r.num &&& 0x7F0000)
    ∧ ∃ t, exec (.enablePropagation core lid) s = .next t ∧ t.mem = s.mem ∧ t.launchD lid = l
      ∧ (t.res core lid).num &&& 0x7F0000 = l.num &&& 0x7F0000 ∧ (t.res core lid).num &&& 0xFF0000FF = r.num &&& 0xFF0000FF)
  ∧ (∀ (graph node : Nat) (s : State) (n : Node), Tab.get? s.front.nodes (graph * 65536 + node) = some n → n.open_ ≠ [] →
    n.since + s.wgTimer.toNat ≤ s.nanos →
    ∃ t, exec (.batchTimerExpiry graph node) s = .next t ∧ t.mem = s.mem ∧ Tab.get? t.front.nodes (graph * 65536 + node) =
      some { n with closed := n.closed ++ [(n.next, n.open_)], busy := n.busy ++ [n.next], open_ := [], next := n.next + 1 })
  ∧ (∀ (graph node b pa pe pt : Nat) (s : State) (nd : Node) (recs : List (Word × Word)) (rest : List (Nat × List (Word × Word)))
      (e g : List Word),
    Tab.get? s.front.nodes (graph * 65536 + node) = some nd → nd.closed = (b, recs) :: rest → nd.head = none → b ∉ nd.dropped → s.root 16 = 0 →
    nd.part < 16 → s.workObj graph = some g → HubAt s nd.part (pairOf (g.getD 4 0) (g.getD 5 0) + BitVec.ofNat 64 (64 * node)) 64 pe →
    (s.nodeEntry nd.part (BitVec.ofNat 32 graph) node).2 = some e →
    HubAt s nd.part (pairOf (e.getD 2 0) (e.getD 3 0)) 128 pt → recs.length ≤ nd.width →
    let size := 128 * ((128 + 8 * nd.width + 127) / 128)
    let slot := b % ((e.getD 6 0).toNat % 256)
    let buf := pairOf (e.getD 4 0) (e.getD 5 0) + BitVec.ofNat 64 (size * slot)
    let compl := pairOf (e.getD 8 0) (e.getD 9 0) + BitVec.ofNat 64 (128 * slot)
    HubAt s nd.part buf size pa → Memory.wf s.mem = true →
    let w : List Word :=
      [e.getD 0 0, e.getD 1 0, BitVec.ofNat 32 recs.length,
       BitVec.ofNat 32 (2 ^ 16 + (e.getD 6 0).toNat / 65536 % 256 * 256 + (e.getD 6 0).toNat / 256 % 256),
       buf.setWidth 32, (buf >>> 32).setWidth 32, compl.setWidth 32, (compl >>> 32).setWidth 32,
       e.getD 7 0 + BitVec.ofNat 32 b, BitVec.ofNat 32 graph, g.getD 7 0, objOwner g, 0, 0, 0, 0]
    recordOk w = true → (∀ m, (∀ x, x < pa ∨ pa + size ≤ x → memGet m x = memGet s.mem x) →
      let s' := { s with mem := m }
      let l := newLaunch w nd.part false none (some (graph, node, b))
      s'.objectsOk l = true ∧ s'.objectCancelled l = false) →
    ∃ t l, exec (.batchLaunch graph node) s = .next t ∧ t.launch? s.nextLid = some l ∧ l.rec_ = w ∧ l.ready = true
      ∧ l.node = some (graph, node, b) ∧ l.part = nd.part
      ∧ Tab.get? t.front.nodes (graph * 65536 + node) = some { nd with closed := rest, head := some s.nextLid }
      ∧ memRead t.mem pa 128 = memRead s.mem pt 128
      ∧ ∀ i x, recs[i]? = some x → memRead t.mem (pa + 128 + 8 * i) 8 = bytes32 x.1 ++ bytes32 x.2)
  ∧ (∀ s : State, s.isReady = true → (s.reg 0x20010).getLsbD 31 = false → Tab.wf s.front.regs = true →
    ∀ i cmd, i = Instr.imageRegister ∧ cmd = 1 ∨ i = Instr.imageUnregister ∧ cmd = 2 →
      ∃ t, exec i s = .next t ∧ t.mem = s.mem ∧ t.reg 0x20010 = 0x80000000
        ∧ t.front.loader = some (cmd, ((s.reg64 0x20000).setWidth 57).signExtend 64, (s.reg 0x20008).toNat))
  ∧ (∀ (addr : DWord) (part code : Nat) (im : Image) (s : State), s.front.loader = some (1, addr, part) →
    Tab.wf s.front.regs = true →
    (s.loadImage addr part = .ok im → ∃ t, exec .loaderDone s = .next t ∧ t.mem = s.mem ∧ t.front.loader = none
      ∧ t.reg 0x20010 = 0 ∧ t.front.images = Tab.set s.front.images s.front.nextImg im)
    ∧ (s.loadImage addr part = .error code → ∃ t, exec .loaderDone s = .next t ∧ t.mem = s.mem ∧ t.front.loader = none
      ∧ t.reg 0x20010 = BitVec.ofNat 32 code ∧ t.front.images = s.front.images))
  ∧ ∀ (addr : DWord) (part : Nat) (s : State), s.front.loader = some (2, addr, part) → Tab.wf s.front.regs = true →
    ∃ t, exec .loaderDone s = .next t ∧ t.mem = s.mem ∧ t.front.loader = none
      ∧ (match s.front.images.find? fun e => e.2.addr == addr && e.2.part == part with
        | some (n, _) => t.front.images = Tab.erase s.front.images n ∧ t.reg 0x20010 = 0
        | none => t.front.images = s.front.images ∧ t.reg 0x20010 = 11)

/-! ### Translation and the fabric -/

/-- R311, R315, R316, R321, R324, R330, R331: requests between packages. The home performs a packet, in its turn, on its own
device memory and answers with the old bytes or an acceptance, or says to which package the page has gone; the answer echoes the
packet's mark. At the source the bytes of a load become its result, and the drove that waited for no other goes on (log 12). A
retry has the request sent anew (log 48), and so does an answer that names another home, up to four times; a request unanswered
for 200 µs has its packets sent once more. A pending fault waits on, and where no other answer is out the lane parks with cause
0x06, its row held. A congestion mark halves a package's rate, not below 1/64 and at most once in 5 µs; 5 µs without one add 1/32,
up to 1. How a request is cut into packets is the model's choice (log 76). -/
def Obligations.RequestsBetweenPackages : Prop :=
  (∀ (r : HomeReq) (s : State) (n pa : Nat) (ok : DWord → Bool), s.homePart r.space = some n →
    (∀ e, ok e = true → (r.write = none ∨ r.atomic.isSome = true → pteR e = true)
      ∧ (r.write.isSome = true ∨ r.atomic.isSome = true → pteW e = true)) →
    LocalAt s n r.va ok pa → s.fabric.moving = [] → s.fabric.tlb = [] → s.fabric.walks = [] → s.fabric.biasJob = none →
    s.hostBiased pa = false → s.errs.bad = [] → Memory.wf s.mem = true →
    s.fabric.early = [] → s.homeDue r = true → r.size ≤ 256 → (r.write.getD []).length ≤ 256 →
    (r.atomic = none → r.write = none → ∃ t bs, exec (.homeRequest r) s = .next t ∧ t.mem = s.mem
      ∧ t.fabric.out = s.fabric.out ++ [.reply r.src r.tid (.data bs) r.marked] ∧ bs.length = r.size
      ∧ ∀ i, i < r.size → r.mask.testBit ((pa % 32 + i) / 32) = true → bs.getD i 0 = memGet s.mem (pa + i))
    ∧ (∀ bs, r.atomic = none → r.write = some bs → (∀ i, i < bs.length → r.mask.testBit i = true) →
      Ordinary { s with mem := memWrite s.mem pa bs } pa bs.length → ∃ t, exec (.homeRequest r) s = .next t
      ∧ memRead t.mem pa bs.length = bs ∧ (∀ x, x < pa ∨ pa + bs.length ≤ x → memGet t.mem x = memGet s.mem x)
      ∧ t.fabric.out = s.fabric.out ++ [.reply r.src r.tid .accepted r.marked])
    ∧ ∀ op b x, r.atomic = some (op, b, x) → r.size = 4 ∨ r.size = 8 →
      let new := bytesLE r.size (atomNew op (8 * r.size) (ofBytesLE (memRead s.mem pa r.size))
          (b.toNat % 2 ^ (8 * r.size)) (x.toNat % 2 ^ (8 * r.size)))
      Ordinary { s with mem := memWrite s.mem pa new } pa r.size → ∃ t, exec (.homeRequest r) s = .next t
      ∧ memRead t.mem pa r.size = new
      ∧ (∀ y, y < pa ∨ pa + r.size ≤ y → memGet t.mem y = memGet s.mem y)
      ∧ t.fabric.out = s.fabric.out ++ [.reply r.src r.tid (.data (memRead s.mem pa r.size)) r.marked])
  ∧ (∀ (r : HomeReq) (s : State) (n lv at_ : Nat) (e : DWord), s.homePart r.space = some n → s.fabric.moving = [] →
    s.fabric.tlb = [] → s.fabric.walks = [] → s.walkLeaf n r.va = some (e, lv, at_) → pteKind e = 5 →
    s.fabric.early = [] → s.homeDue r = true → r.size ≤ 256 → (r.write.getD []).length ≤ 256 →
    ∃ t, exec (.homeRequest r) s = .next t ∧ t.mem = s.mem
      ∧ t.fabric.out = s.fabric.out ++ [.notHere r.src r.tid (ptePeer e) r.marked])
  ∧ (∀ (idx n : Nat) (sext : Bool) (dst : List Reg) (bs : List Byte) (s : State) (r : Remote) (a : Agent),
    Tab.get? s.fabric.remote idx = some r → Tab.wf s.fabric.remote = true → r.kind = .load n sext dst → bs.length = r.span.2 →
    r.parked = false → s.keptReply r = false → s.agent? ⟨r.core, r.ag⟩ = some a →
    let own := if r.fills then (bs.drop (r.loc.key % 32)).take n else bs
    ∃ t b, exec (.homeReply idx (.data bs)) s = .next t ∧ t.mem = s.mem ∧ Tab.get? t.fabric.remote idx = none
      ∧ t.agent? ⟨r.core, r.ag⟩ = some b
      ∧ b.pending = a.pending.map (fun p => if idx ∈ p.await then { p with
          await := p.await.filter (· != idx)
          writes := p.writes ++ dst.zipWith (fun g v => { lane := r.lane, reg := g, val := v }) (loadWords n sext own) } else p)
      ∧ (a.wait = some .remote → (∀ e ∈ s.fabric.remote, e.1 ≠ idx → e.2.core ≠ r.core ∨ e.2.ag ≠ r.ag) → b.wait = none))
  ∧ (∀ (idx : Nat) (s : State) (r : Remote), Tab.get? s.fabric.remote idx = some r → Tab.wf s.fabric.remote = true →
    let goesOut := fun (t : State) (pkg : Nat) (ps : List HomeReq) =>
      t.fabric.out = s.fabric.out ++ ps.map (fun p => .request (some idx) pkg p)
    let sentAnew := fun (i : Instr) (x : Remote) => ∃ t ps, exec i s = .next t
      ∧ ps.map (fun p => { p with seq := 0, inst := none }) = x.packetsOf ∧ goesOut t x.pkg ps
      ∧ Tab.get? t.fabric.remote idx = some { x with packets := ps }
    (∀ cause, r.parked = false → s.keptReply r = false → (∀ n near, r.kind ≠ .pref n near) →
      sentAnew (.homeReply idx (.retry cause)) { r with pending := false, again := false, sent := s.nanos })
    ∧ (∀ peer, r.hops < 4 → sentAnew (.notHereReply idx peer)
        { r with pkg := peer, hops := r.hops + 1, pending := false, again := false, sent := s.nanos, keep := true })
    ∧ (r.pending = false → r.sent + 200000 ≤ s.nanos → r.again = false →
        ∃ t, exec (.requestRetryTimeout idx) s = .next t ∧ goesOut t r.pkg r.packets
          ∧ Tab.get? t.fabric.remote idx = some { r with again := true, sent := s.nanos })
    ∧ ∀ cause, r.ofLane = true → s.keptReply r = false →
      let of := fun (e : Nat × Remote) => e.2.ofLane = true ∧ e.2.core = r.core ∧ e.2.ag = r.ag
      ((∃ e ∈ s.fabric.remote, e.1 ≠ idx ∧ of e ∧ e.2.pending = false) → ∃ t, exec (.homeReply idx (.pending cause)) s = .next t
        ∧ t.fabric.out = s.fabric.out ∧ Tab.get? t.fabric.remote idx = some { r with pending := true }
        ∧ t.agent? ⟨r.core, r.ag⟩ = s.agent? ⟨r.core, r.ag⟩)
      ∧ ∀ (a : Agent) (l : Lane) (th : Thread), (∀ e ∈ s.fabric.remote, e.1 ≠ idx → ¬of e) →
        s.agent? ⟨r.core, r.ag⟩ = some a → a.shep = false → (∀ p ∈ a.pending, ∀ k ∈ p.await, k = idx) →
        (s.core r.core).late = [] → Tab.get? a.lanes r.lane = some l →
        Tab.get? (s.core r.core).threads (threadKey a.lid l.tid) = some th →
        ∃ t y p, exec (.homeReply idx (.pending cause)) s = .next t ∧ t.fabric.out = s.fabric.out
          ∧ Tab.get? t.fabric.remote idx = some { r with pending := true, parked := true }
          ∧ Tab.get? (t.core r.core).threads (threadKey a.lid l.tid) = some y ∧ y.place = .faultFold ∧ y.row.isSome = true
          ∧ y.park = some p ∧ p.cause = 6 ∧ p.addr = r.va ∧ p.word = r.word)
  ∧ ∀ (pkg : Nat) (s : State) (r : Rate), Tab.get? s.fabric.rate pkg = some r →
    (r.mark + 5000 ≤ s.nanos → ∃ t x, exec (.congestionMarkEcho pkg) s = .next t ∧ t.mem = s.mem
      ∧ Tab.get? t.fabric.rate pkg = some x ∧ x.mark = s.nanos ∧ x.at_ = s.nanos
      ∧ (if r.num * 64 ≤ 2 * 2 ^ r.sh then x.num * 64 = 2 ^ x.sh else x.num * 2 * 2 ^ r.sh = r.num * 2 ^ x.sh))
    ∧ (s.nanos < r.mark + 5000 → ∃ t, exec (.congestionMarkEcho pkg) s = .next t ∧ t.mem = s.mem
      ∧ Tab.get? t.fabric.rate pkg = some { r with at_ := s.nanos })
    ∧ (r.at_ + 5000 ≤ s.nanos → ∃ t x, exec (.rateRecoveryTick pkg) s = .next t ∧ t.mem = s.mem
      ∧ Tab.get? t.fabric.rate pkg = some x ∧ x.at_ = s.nanos
      ∧ (if 32 * r.num + 2 ^ r.sh < 32 * 2 ^ r.sh then x.num * 32 * 2 ^ r.sh = (32 * r.num + 2 ^ r.sh) * 2 ^ x.sh
        else x.num = 2 ^ x.sh))

/-- R211, R313, R318, R320, R322, R324, R326, R329: pages, faults, bias and translations. Where a page's counter has reached the
threshold its home asks the package for a frame, which takes the last of its list or refuses; a grant begins the move, a
refusal sets the counter to 0. The home sends the page in 256 parts, and once they are acknowledged leaves a DRIFT leaf; the
taker acknowledges each part, and its leaf is LOCAL; after 40 µs the move is abandoned. FQACK frees a record's slot; a record
unanswered for FAULTTO ms has RESP 3 and its request fails. A bias command starts a change, and at its end, once no store to the
range is under way, just the frames of the range have the new bias. TLBICMD starts an invalidation, and at its end no entry of
the hub gives a page of the range. The steps of a move, and the free bytes and permissions of a page that arrives, are the
model's choice (log 48). -/
def Obligations.PagesFaultsAndBias : Prop :=
  (∀ (part pkg count at_ : Nat) (va e : DWord) (s : State), s.fabric.moving = [] → pkg ≠ Config.pkgId.toNat →
    s.fabric.migr = [((part, va57 va / 65536, pkg), count)] → s.migThresh.toNat ≤ count →
    s.walkLeaf part va = some (e, 1, at_) → pteKind e = 1 → e.getLsbD 7 = true →
    let key := (part, va57 va / 65536, pkg)
    (∀ g, s.fabric.asked = [] → ∃ t, exec (.migration part va pkg g) s = .next t ∧ t.mem = s.mem ∧ t.fabric.moving = []
      ∧ t.fabric.asked = [key] ∧ t.fabric.out = s.fabric.out ++ [.frame pkg (s.space part) (va57 va / 65536)])
    ∧ (s.fabric.asked = [key] → ∃ t, exec (.migration part va pkg true) s = .next t ∧ t.mem = s.mem ∧ t.fabric.asked = []
      ∧ t.fabric.moving = [{ part, page := va57 va / 65536, pkg, since := s.nanos, frame := none, sent := false }])
    ∧ (s.fabric.asked = [key] → ∃ t, exec (.migration part va pkg false) s = .next t ∧ t.mem = s.mem
      ∧ t.fabric.asked = [] ∧ t.fabric.moving = [] ∧ t.fabric.migr = [(key, 0)]))
  ∧ (∀ (part at_ : Nat) (g : Bool) (va e : DWord) (s : State), s.fabric.moving = [] →
    s.walkLeaf part va = some (e, 1, at_) → pteKind e = 2 → pteMode e = 2 → s.root 16 = 0 → s.fabric.tlb = [] →
    s.errs.bad = [] → Tab.wf s.front.regs = true →
    let n := (s.reg 0x30118).toNat
    let pool := (s.reg64 0x30110).toNat + 4 * (n - 1)
    let own := Config.pkgId.toNat
    (n ≠ 0 → pool < memSize → s.hostBiased pool = false → ∃ t, exec (.migration part va own g) s = .next t ∧ t.mem = s.mem
      ∧ t.fabric.moving = [{ part, page := va57 va / 65536, pkg := own, since := s.nanos
                             frame := some (word32 (memRead s.mem pool 4)).toNat, sent := false }]
      ∧ t.reg 0x30118 = BitVec.ofNat 32 (n - 1)
      ∧ t.fabric.out = s.fabric.out ++ [.frameReply (ptePeer e) (s.space part) (va57 va / 65536) true])
    ∧ (n = 0 → ∃ t, exec (.migration part va own g) s = .next t ∧ t.mem = s.mem ∧ t.fabric.moving = []
      ∧ t.fabric.out = s.fabric.out ++ [.frameReply (ptePeer e) (s.space part) (va57 va / 65536) false]))
  ∧ (∀ (at_ : Nat) (va e : DWord) (s : State) (m : Move), s.fabric.moving = [m] → m.page = va57 va / 65536 →
    s.fabric.waiting = [] → s.reg64 0x30100 = 0 → s.errs.bad = [] → Memory.wf s.mem = true →
    s.walkLeaf m.part va = some (e, 1, at_) →
    (m.frame = none → s.nanos < m.since + 40000 → pteKind e = 1 → e.getLsbD 7 = true →
      (m.sent = false → s.hostBiased (pteAddr e) = false → ∃ t, exec (.migration m.part va m.pkg true) s = .next t
        ∧ t.mem = s.mem ∧ t.fabric.moving = [{ m with sent := true }]
        ∧ t.fabric.out = s.fabric.out ++ (List.range 256).map (fun i =>
          .page m.pkg (s.space m.part) m.page (e.extractLsb' 4 4) i (memRead s.mem (pteAddr e + 256 * i) 256)))
      ∧ (m.sent = true → ∃ t, exec (.migration m.part va m.pkg true) s = .next t ∧ t.fabric.moving = []
        ∧ t.fabric.out = s.fabric.out ∧ word64 (memRead t.mem at_ 8) = BitVec.ofNat 64 (m.pkg % 4096 * 65536 + 11)
        ∧ ∀ x, x < at_ ∨ at_ + 8 ≤ x → memGet t.mem x = memGet s.mem x))
    ∧ (∀ frame, m.frame = some frame → s.nanos < m.since + 40000 → pteKind e = 2 ∨ pteKind e = 5 → frame < 2 ^ 23 →
      at_ + 8 ≤ frame * 65536 ∨ frame * 65536 + 65536 ≤ at_ →
      ∃ t, exec (.migration m.part va m.pkg true) s = .next t ∧ t.fabric.moving = []
        ∧ t.fabric.out = s.fabric.out ++ (List.range 256).map (fun i => .pageAck (ptePeer e) (s.space m.part) m.page i)
        ∧ word64 (memRead t.mem at_ 8) = BitVec.ofNat 64 (frame * 65536 + (Config.movedPerms s.tick).toNat * 16 + 3)
        ∧ memRead t.mem (frame * 65536) 65536 =
          listGen (fun i => Config.remoteByte s.tick (ptePeer e) (va57 va / 65536 * 65536 + i)) 65536)
    ∧ (m.frame = none → m.since + 40000 ≤ s.nanos →
      ∃ t, exec (.migrationAbandon m.part va) s = .next t ∧ t.mem = s.mem ∧ t.fabric.moving = []))
  ∧ (∀ (v : Word) (s : State) (x : FqRec), s.isReady = true →
    let q := v.toNat % 512
    let slot := v.toNat / 512 % 4096
    Tab.get? (s.fq q).recs slot = some x → Tab.wf (s.fq q).recs = true → x.open_ = false →
    ∃ t, exec (.fqack v) s = .next t ∧ t.mem = s.mem ∧ Tab.get? (t.fq q).recs slot = none
      ∧ (x.kind = 4 → (t.fq q).ovf = false))
  ∧ (∀ (slot : Nat) (s : State) (x : FqRec) (r : HomeReq), Tab.get? (s.fq 400).recs slot = some x → x.open_ = true →
    x.waiters = [.home r] → slot < 4096 → x.at_ + (s.reg 0x3010C).toNat * 1000000 ≤ s.nanos → s.root 16 = 0 → s.errs.bad = [] →
    s.fabric.tlb = [] →
    let at_ := (s.reg64 0x30100).toNat + 0x320000 + 32 * slot
    at_ < memSize → s.hostBiased at_ = false → Memory.wf s.mem = true →
    ∃ t, exec (.faultTimeout 400 slot) s = .next t ∧ memGet t.mem at_ = 3
      ∧ (∀ y, y ≠ at_ → memGet t.mem y = memGet s.mem y)
      ∧ Tab.get? (t.fq 400).recs slot = some { x with open_ := false, waiters := [] }
      ∧ t.fabric.out = s.fabric.out ++ [.reply r.src r.tid (.fault 6) r.marked])
  ∧ (∀ (s : State) (i : Instr) (host : Bool), i = .biascmdToDevice ∧ host = false ∨ i = .biascmdToHost ∧ host = true →
    s.isReady = true → s.fabric.biasJob = none → Tab.wf s.front.regs = true →
    let f := (s.reg 0x30120).toNat
    let n := (s.reg 0x30124).toNat
    (n ≠ 0 → f + n ≤ 2 ^ 23 → ∃ t, exec i s = .next t ∧ t.mem = s.mem ∧ t.fabric.biasJob = some (f, n, host)
      ∧ t.reg 0x3012C = 0x80000000)
    ∧ (n = 0 ∨ 2 ^ 23 < f + n → ∃ t, exec i s = .next t ∧ t.mem = s.mem ∧ t.fabric.biasJob = none ∧ t.reg 0x3012C = 1))
  ∧ (∀ (f n : Nat) (host : Bool) (s : State), s.fabric.biasJob = some (f, n, host) → s.fabric.waiting = [] →
    (∀ e ∈ s.cores, s.storeOver e.1 (65536 * f) (65536 * n) = false) → Tab.wf s.front.regs = true →
    let biased := fun (s : State) (x : Nat) => ∃ g ∈ s.fabric.bias, g.1 ≤ x ∧ x < g.1 + g.2
    ∃ t, exec .biasChangeDone s = .next t ∧ t.fabric.biasJob = none ∧ t.reg 0x3012C = 0
      ∧ (host = true → t.mem = s.mem) ∧ (host = false → .recall f n ∈ t.fabric.out)
      ∧ ∀ x, biased t x ↔ if f ≤ x ∧ x < f + n then host = true else biased s x)
  ∧ (∀ (v : Word) (s : State), s.isReady = true → s.fabric.tlbi = none → Tab.wf s.front.regs = true →
    ∃ t, exec (.tlbicmd v) s = .next t ∧ t.mem = s.mem ∧ t.reg 0x30140 = 0x80000000
      ∧ ∃ first n, t.fabric.tlbi = some (if v.getLsbD 4 then 16 else v.toNat % 16, first, n)
        ∧ (s.reg 0x30138 = 0xFFFFFFFF → first = 0 ∧ n = 2 ^ 41)
        ∧ (s.reg 0x30138 ≠ 0xFFFFFFFF → first = va57 (s.reg64 0x30130) / 65536 ∧ n = (s.reg 0x30138).toNat))
  ∧ ∀ (part first n : Nat) (s : State), s.fabric.tlbi = some (part, first, n) → Tab.wf s.front.regs = true →
    ∃ t, exec .tlbiDone s = .next t ∧ t.mem = s.mem ∧ t.fabric.tlbi = none ∧ t.reg 0x30140 = 0
      ∧ (∀ x ∈ t.fabric.tlb, tlbHit part (first, n) x = false) ∧ (∀ x ∈ t.fabric.walks, walkHit part (first, n) x.1 = false)
      ∧ ∀ c, ∀ x ∈ (t.core c).tlb, tlbHit part (first, n) x = false

/-- R249, R322, R325 to R328, R332, R365, R368, R369, R383: the host's accesses and the link. A window that is enabled, for writes
too where the access is one, leads to the partition's memory. Any other access of the host there, and one to a page with no leaf,
does nothing but answer a read with an abort and write a KIND 6 record into the home queue, where there is one. CXL.mem reads and
writes device memory; a snoop takes a line of host memory from the cores and from the part, once no store to it is under way; a
configuration request is answered by READY; a mark of contention goes when it has run out, how long that takes being the model's
choice (log 50). Three low samples in a row make a lane weak; it gives way to a spare of its chiplet, or, where there is none,
goes out of use, and a port that has lost both has the requests that went out over it sent again. A lane of a chiplet's own link
is repaired at its third low sample. -/
def Obligations.HostAccessesAndTheLink : Prop :=
  (∀ (off n w : Nat) (s : State) (write : Option (List Byte)), w = off / 2 ^ 32 → w < 16 →
    let ctl := s.reg (0x30208 + 16 * w)
    let part := ctl.toNat % 16
    let va := ((s.reg64 (0x30200 + 16 * w) + BitVec.ofNat 64 (off % 2 ^ 32)).setWidth 57).signExtend 64
    let opens := ctl.getLsbD 4 = true ∧ (write.isSome = true → ctl.getLsbD 5 = true)
    s.fabric.tlb = [] → s.fabric.walks = [] →
    (∀ pa, opens → s.fabric.biasJob = none → s.errs.bad = [] → Memory.wf s.mem = true → s.hostBiased pa = false →
      (∀ bs ∈ write, Ordinary { s with mem := memWrite s.mem pa bs } pa bs.length) →
      LocalAt s part va (fun e => if write.isSome then pteW e else pteR e) pa →
      ∃ t, exec (.inboundAccess off n write) s = .next t ∧ match write with
        | none => t.mem = s.mem ∧ t.fabric.out = s.fabric.out ++ [.data (memRead s.mem pa n)]
        | some bs => memRead t.mem pa bs.length = bs ∧ t.fabric.out = s.fabric.out
          ∧ ∀ x, x < pa ∨ pa + bs.length ≤ x → memGet t.mem x = memGet s.mem x)
    ∧ (¬opens ∨ s.walkLeaf part va = none →
      (s.reg64 0x30100 = 0 → ∃ t, exec (.inboundAccess off n write) s = .next t ∧ t.mem = s.mem
        ∧ t.fabric.out = s.fabric.out ++ (if write.isSome then [] else [.abort off]))
      ∧ let base := (s.reg64 0x30100).toNat + 0x320000
        let at_ := base + 32 * ((s.fq 400).next % 4096)
        base ≠ 0x320000 → base + 131072 ≤ memSize → s.root 16 = 0 → s.errs.bad = [] → s.hostBiased at_ = false →
        Memory.wf s.mem = true → (s.fq 400).recs = [] → (s.fq 400).ovf = false →
        ∃ t, exec (.inboundAccess off n write) s = .next t
          ∧ memRead t.mem at_ 32 = bytesOfWords
            [BitVec.ofNat 32 (6 * 2 ^ 28 + 4 * 2 ^ 24 + (if write.isSome then 2 else 1) * 2 ^ 12), BitVec.ofNat 32 (s.fq 400).next,
             va.setWidth 32, (va >>> 32).setWidth 32, 0, 0, BitVec.ofNat 32 (s.space part * 65536 + part * 4096), 0]
          ∧ (∀ x, x < at_ ∨ at_ + 32 ≤ x → memGet t.mem x = memGet s.mem x)
          ∧ (write = none → .abort off ∈ t.fabric.out)))
  ∧ (∀ (pa n : Nat) (s : State) (bs : List Byte), s.errs.bad = [] → Memory.wf s.mem = true → s.fabric.biasJob = none →
    s.hostBiased pa = false →
    (pa + n ≤ memSize → ∃ t, exec (.hostMemoryAccess pa n none) s = .next t ∧ t.mem = s.mem
      ∧ t.fabric.out = s.fabric.out ++ [.data (memRead s.mem pa n)])
    ∧ (pa + bs.length ≤ memSize → Ordinary { s with mem := memWrite s.mem pa bs } pa bs.length →
      ∃ t, exec (.hostMemoryAccess pa n (some bs)) s = .next t
      ∧ memRead t.mem pa bs.length = bs ∧ t.fabric.out = s.fabric.out
      ∧ ∀ x, x < pa ∨ pa + bs.length ≤ x → memGet t.mem x = memGet s.mem x))
  ∧ (∀ (line : Nat) (s : State),
    let key := (Loc.host (64 * line)).key
    (∀ e ∈ s.cores, s.storeOver e.1 key 64 = false ∧ ∀ x ∈ e.2.l1, key ≤ x.1 → x.1 < key + 64 → x.2.dirty = false) →
    ∃ t, exec (.cxlCacheSnoop line) s = .next t ∧ t.mem = s.mem
      ∧ (∀ c k, key ≤ k → k < key + 64 → Tab.get? (t.core c).l1 k = none)
      ∧ ∀ i, i < 64 → Tab.get? t.fabric.owned (64 * line + i) = none)
  ∧ (∀ s : State, ∃ t, exec .configurationRequest s = .next t ∧ t.mem = s.mem
    ∧ t.fabric.out = s.fabric.out ++ [.config ((s.reg 0x50014).getLsbD 31)])
  ∧ (∀ (line until_ : Nat) (s : State) (g : Grant), Tab.get? s.fabric.grants line = some g → Tab.wf s.fabric.grants = true →
    g.mark = some until_ → until_ ≤ s.cycles →
    ∃ t, exec (.contendedMarkExpiry line) s = .next t ∧ t.mem = s.mem ∧ Tab.get? t.fabric.grants line = none)
  ∧ (∀ (port lane : Nat) (s : State), Tab.wf s.fabric.weak = true →
    let k := laneKey port lane
    let n := Tab.getD s.fabric.weak k 0
    (port < 96 → lane < 2 → (Tab.getD s.fabric.lanesOut port 0).testBit lane = false →
      (∃ t, exec (.laneSample port lane true) s = .next t ∧ t.mem = s.mem
        ∧ Tab.get? t.fabric.weak k = some (if n < 3 then n + 1 else n))
      ∧ ∃ t, exec (.laneSample port lane false) s = .next t ∧ t.mem = s.mem
        ∧ Tab.get? t.fabric.weak k = if n < 3 then none else some n)
    ∧ (96 ≤ port → port < 106 →
      (n < 2 → ∃ t, exec (.laneSample port lane true) s = .next t ∧ t.mem = s.mem ∧ Tab.get? t.fabric.weak k = some (n + 1))
      ∧ (n < 3 → ∃ t, exec (.laneSample port lane false) s = .next t ∧ t.mem = s.mem ∧ Tab.get? t.fabric.weak k = none)
      ∧ let link := spareKey 10 (BitVec.ofNat 32 (laneKey (port - 96) lane))
        (2 ≤ n → s.reg64 0x800 = 0 → ∃ t, exec (.laneSample port lane true) s = .next t ∧ Tab.get? t.fabric.weak k = none
          ∧ (Tab.getD s.errs.spares link 0 < Config.ucieSpares → t.mem = s.mem
            ∧ Tab.get? t.errs.spares link = some (Tab.getD s.errs.spares link 0 + 1)))))
  ∧ ∀ (port lane : Nat) (s : State), port < 96 → s.weakLane port = some lane → Tab.wf s.fabric.weak = true →
    let k := laneKey port lane
    let spares := fun (s : State) => (s.reg 0x81C).toNat / 16 ^ (port / 24) % 16
    let gone := Tab.getD s.fabric.lanesOut port 0 + 2 ^ lane
    s.reg64 0x800 = 0 → Tab.wf s.front.regs = true →
    (spares s ≠ 0 → ∃ t, exec (.laneSwap port) s = .next t ∧ t.mem = s.mem ∧ spares t + 1 = spares s
      ∧ Tab.get? t.fabric.weak k = none ∧ t.fabric.lanesOut = s.fabric.lanesOut)
    ∧ (spares s = 0 → ∃ t, exec (.portDegrade port) s = .next t ∧ t.mem = s.mem
      ∧ Tab.get? t.fabric.weak k = none ∧ Tab.get? t.fabric.lanesOut port = some gone
      ∧ (gone = 3 → ∀ idx x, Tab.get? s.fabric.remote idx = some x → x.pending = false →
        Config.onPort idx port = false ∨ ∀ p ∈ x.packets, .request (some idx) x.pkg p ∈ t.fabric.out))

/-! ### Partitions, errors and firmware -/

/-- R335 to R341: a partition goes through its states. A map of free chiplets in service starts an empty one; PCMD halt
freezes its cores, and with all of them quiet it is halted, their stores performed; a copy that has not landed 20 µs after
is kept. A save takes free shadow slots, lowest first, then holds the images, and the chiplets are free; a restore takes the
chiplets of PDEST, of the classes saved, and core i of a chiplet is core i of the chiplet it goes to. A resume lets the
cores go on, their SLEEPs with as many cycles left; a discard ends the partition's launches and leaves it empty. A command
that the state does not take gives RESULT 1 and changes nothing else. What of a wait a halt keeps, that what an image means stands
beside the free bytes of a memory save area, and how a discard ends a launch, is deduced (logs 44 to 46). -/
def Obligations.PartitionsMove : Prop :=
  ∀ (s : State) (n : Nat), n < 16 → s.isReady = true → Tab.wf s.front.regs = true → s.errs.faulty = [] →
    let st := fun (s : State) => (s.reg (0x408 + 32 * n)).toNat % 8
    let busy := fun (s : State) => (s.reg (0x408 + 32 * n)).getLsbD 31
    let result := fun (s : State) => (s.reg (0x408 + 32 * n)).toNat / 256 % 256
    let map := fun (s : State) => (s.reg (0x400 + 32 * n)).toNat
    let mine := fun (c : Nat) => c / 40 < 10 ∧ (map s).testBit (c / 40) = true
    (∀ v : Word, st s = 0 → v.toNat % 1024 ≠ 0 →
      (∀ k c, k < 16 → k ≠ n → c < 10 → v.getLsbD c = true → (s.reg (0x400 + 32 * k)).getLsbD c = false) →
      (∀ c, c < 10 → v.getLsbD c = true → (s.reg 0x818).getLsbD c = true) →
      ∃ t, exec (.pmapWrite n v) s = .next t ∧ t.mem = s.mem ∧ map t = v.toNat % 1024 ∧ st t = 1)
    ∧ (busy s = false → st s = 1 → ∃ t, exec (.pcmdHalt n) s = .next t ∧ t.mem = s.mem ∧ st t = 2 ∧ busy t = true
      ∧ ∀ c, mine c → (t.core c).frozen = true)
    ∧ (busy s = false → ∀ i, i = Instr.pcmdHalt n ∧ st s ≠ 1 ∨ i = .pcmdSave n ∧ st s ≠ 3 ∨ i = .pcmdRestore n ∧ st s ≠ 5
        ∨ i = .pcmdResume n ∧ st s ≠ 3 ∨ i = .pcmdDiscard n ∧ st s ≠ 3 ∧ st s ≠ 5 →
      ∃ t, exec i s = .next t ∧ result t = 1 ∧ st t = st s ∧ (∀ x, x ≠ 0x408 + 32 * n → t.reg x = s.reg x)
        ∧ t.mem = s.mem ∧ t.cores = s.cores ∧ t.launches = s.launches ∧ t.parts = s.parts)
    ∧ (st s = 2 → (∀ c, mine c → s.coreQuiet c = true) → ∃ t, exec (.haltDone n) s = .next t ∧ st t = 3 ∧ busy t = false
      ∧ ∀ c, mine c → (t.core c).l1 = [] ∧ (t.core c).outst = [])
    ∧ (∀ (core slot : Nat) (x : Copy), s.partOfCore core = some n → Tab.get? (s.core core).copies slot = some x → st s = 2 →
      (s.part n).haltAt + 20000 ≤ s.nanos → x.live = true → x.landed = false → x.kept = false →
      ∃ t, exec (.copyHaltTimeout core slot) s = .next t ∧ t.mem = s.mem
        ∧ Tab.get? (t.core core).copies slot = some { x with kept := true })
    ∧ (busy s = false → st s = 3 → (chipsOf (map s)).length ≤ s.freeShadow.length → map s < 1024 →
      ∃ t, exec (.pcmdSave n) s = .next t ∧ t.mem = s.mem ∧ st t = 4 ∧ busy t = true
        ∧ (t.part n).saved.map (fun x => (x.chip, x.slot)) = (chipsOf (map s)).zip s.freeShadow)
    ∧ (st s = 4 → map s < 1024 → (∀ k, k < ((s.part n).saved.filter fun x => x.slot == 3).length → s.areaOk n k Acc.write = true) →
      ∃ t, exec (.saveDone n) s = .next t ∧ st t = 5 ∧ busy t = false ∧ map t = 0
      ∧ ((∀ x ∈ (s.part n).saved, x.slot ≠ 3) → t.mem = s.mem)
      ∧ (∀ c, mine c → t.core c = Core.empty)
      ∧ ∀ x ∈ (s.part n).saved, ∃ y ∈ (t.part n).saved, y.chip = x.chip ∧ y.slot = x.slot ∧ y.cls = x.cls
        ∧ ∀ i, i < 40 → Tab.get? y.cores i = some { s.core (40 * x.chip + i) with
            icache := [], ictag := [], tlb := [], l1 := [], picks := [], pipes := [] })
    ∧ (busy s = false → st s = 5 →
      let dest := (s.reg (0x414 + 32 * n)).toNat % 1024
      (∀ k, ((s.part n).saved.filter fun x => x.cls == k).length = ((chipsOf dest).filter fun c => classOf c == k).length) →
      (∀ k c, k < 16 → k ≠ n → c < 10 → dest.testBit c = true → (s.reg (0x400 + 32 * k)).getLsbD c = false) →
      (∀ c, c < 10 → dest.testBit c = true → (s.reg 0x818).getLsbD c = true) →
      ∃ t, exec (.pcmdRestore n) s = .next t ∧ t.mem = s.mem ∧ st t = 6 ∧ busy t = true ∧ map t = dest)
    ∧ (∀ (x : SavedChip) (d : Nat), st s = 6 → (s.part n).saved = [x] → x.slot < 3 → x.spoilt = false → chipsOf (map s) = [d] → map s < 1024 →
      classOf d = x.cls → Tab.wf x.cores = true → (∀ e ∈ x.cores, e.1 < 40) →
      ∃ t, exec (.restoreDone n []) s = .next t ∧ t.mem = s.mem ∧ st t = 3 ∧ result t = 0 ∧ (t.part n).saved = []
        ∧ (∀ i k, Tab.get? x.cores i = some k → t.core (40 * d + i) = k)
        ∧ ∀ lid l, s.launch? lid = some l → l.part = n → (∀ c ∈ l.cores, c / 40 = x.chip) →
          ∃ l', t.launch? lid = some l' ∧ ∀ i, i < 40 → (40 * x.chip + i ∈ l.cores ↔ 40 * d + i ∈ l'.cores))
    ∧ (busy s = false → st s = 3 → (s.part n).answers = [] → ∃ t, exec (.pcmdResume n) s = .next t ∧ t.mem = s.mem ∧ st t = 1
      ∧ ∀ c, mine c → (t.core c).frozen = false ∧ ∀ id a until_ x, Tab.get? (s.core c).agents id = some a →
        a.wait = some (.sleep until_ x) → ∃ b, Tab.get? (t.core c).agents id = some b
          ∧ b.wait = some (.sleep (until_ + (s.cycles - (s.part n).cycleAt)) x))
    ∧ (busy s = false → st s = 3 ∨ st s = 5 → Tab.wf s.launches = true → ∃ t, exec (.pcmdDiscard n) s = .next t ∧ st t = 0
      ∧ map t = 0 ∧ (∀ c, mine c → t.core c = Core.empty)
      ∧ ∀ lid l, s.launch? lid = some l → l.part = n → l.st = .running → t.launch? lid = none)

/-- R361 to R363, R365 to R367, R370: errors. ERRACK moves up to ERRNEXT; a window ends with its counts. The first corrected
error of a location in a window is recorded, and the one that reaches CETHR takes a spare; a read by the host that meets
uncorrectable data is aborted, and a clean line with such data is dropped. A word on a core that fails its check stays
uncorrectable, and whoever reads it meets it: a thread that loads it has cause 0x10, which stops a launch without a handler, and
the engine keeps the cause; a collective fails. Scrubbing records an uncorrectable location; refresh changes nothing. A core's logic error
stops the launches that have an agent or a thread there, and its place goes to a spare core. The names of locations and
details of the records are the model's choice (log 52). -/
def Obligations.ErrorsAndRepair : Prop :=
  (∀ (v : Word) (s : State), Tab.wf s.front.regs = true →
    (v ≠ s.reg 0x80C → (v - s.reg 0x80C).toNat ≤ (s.reg 0x808 - s.reg 0x80C).toNat →
      ∃ t, exec (.errackWrite v) s = .next t ∧ t.mem = s.mem ∧ t.reg 0x80C = v ∧ t.errs.lost = none)
    ∧ (v = s.reg 0x80C ∨ (s.reg 0x808 - s.reg 0x80C).toNat < (v - s.reg 0x80C).toNat → exec (.errackWrite v) s = .next s))
  ∧ (∀ s : State,
    let first := s.errs.start + s.errs.win * 1000000000
    let win := (s.reg 0x810).toNat
    (s.nanos < first → exec .ceWindowBoundary s = .next s)
    ∧ (first ≤ s.nanos → win ≠ 0 → ∃ t k, exec .ceWindowBoundary s = .next t ∧ t.mem = s.mem
      ∧ t.errs = { s.errs with
          counts := [], window := s.errs.window + 1 + k, start := first + k * (win * 1000000000), win }
      ∧ t.errs.start ≤ s.nanos ∧ s.nanos < t.errs.start + win * 1000000000))
  ∧ (∀ (unit : Nat) (loc : Word) (s : State), unit ≤ 12 → LogReady s → 2 ≤ (s.reg 0x814).toNat → s.errs.counts = [] →
    ∃ t, exec (.correctedError unit loc) s = .next t ∧ t.errs.counts = [{ unit, loc, count := 1, ue := 0 }]
      ∧ Logged s t [BitVec.ofNat 32 (2 ^ 28 + unit * 2 ^ 24 + 256), s.reg 0x808, 0, 0, loc, 0, 0, BitVec.ofNat 32 s.errs.window])
  ∧ (∀ (unit count ue used : Nat) (loc : Word) (s : State), unit ≤ 7 ∨ unit = 10 → (s.reg 0x814).toNat = count + 1 → 1 ≤ count →
    s.errs.counts = [{ unit, loc, count, ue }] → s.errs.worn = [] → s.reg64 0x800 = 0 →
    s.nanos < s.errs.start + s.errs.win * 1000000000 → Tab.getD s.errs.spares (spareKey unit loc) 0 = used → used < spareCount unit →
    ∃ t, exec (.correctedError unit loc) s = .next t ∧ t.mem = s.mem ∧ t.errs.counts = []
      ∧ Tab.get? t.errs.spares (spareKey unit loc) = some (used + 1))
  ∧ (∀ (pa core : Nat) (s : State), s.reg64 0x800 = 0 → s.errs.counts = [] → (∀ e ∈ s.cores, e.2.late = []) →
    (∃ t, exec (.uncorrectableConsumed (.hostRead pa)) s = .next t ∧ t.mem = s.mem ∧ pa / 32 ∈ t.errs.bad
      ∧ t.fabric.out = s.fabric.out ++ [.abort pa])
    ∧ ((∀ e ∈ (s.core core).l1, e.2.dirty = false) → ∃ t, exec (.uncorrectableConsumed (.cleanL1 core pa)) s = .next t
      ∧ t.mem = s.mem ∧ ∀ k, k / 128 = pa / 128 → Tab.get? (t.core core).l1 k = none))
  ∧ (∀ (core ag lane : Nat) (s : State) (a : Agent) (l : Lane), s.agent? ⟨core, ag⟩ = some a → a.shep = false →
    a.ended = false → (s.core core).frozen = false → Tab.get? a.lanes lane = some l → s.reg64 0x800 = 0 → s.errs.counts = [] →
    (∀ off, ∃ t, exec (.uncorrectableConsumed (.lane core ag lane (.scratch off))) s = .next t ∧ t.mem = s.mem
      ∧ .scratch off ∈ (t.res core a.lid).bad ∧ t.agent? ⟨core, ag⟩ = some a)
    ∧ ∀ n : BitVec 6, ∃ t b y, exec (.uncorrectableConsumed (.lane core ag lane (.wReg n))) s = .next t ∧ t.mem = s.mem
      ∧ t.agent? ⟨core, ag⟩ = some b ∧ Tab.get? b.lanes lane = some y ∧ n.toNat ∈ y.bad ∧ y.w = l.w)
  ∧ (∀ (o : Op) (s : State) (r : AgentRef) (e : Env) (core off w : Nat), Lone s r o e →
    let lid := (s.agentD r).lid
    let tid := e.lane.tid
    (s.agentD r).shep = false → (s.agentD r).pending = [] → (s.core r.core).late = [] → s.reg64 0x800 = 0 →
    Tab.get? (s.agentD r).lanes e.n = some e.lane → s.launch? lid = some e.l → e.l.cancelled = false → e.l.stop = none →
    (s.thread r.core lid tid).inHandler = false → e.l.hdrW 3 = 0 →
    e.s.scrCheck r.core lid true (e.saddr o) o.bytes = .ok (core, off) → (s.res core lid).badAt 0 off o.bytes = some w →
    ∃ t, exec (.lds o) s = .next t ∧ t.mem = s.mem ∧ (t.launchD lid).cancelled = true ∧ (t.launchD lid).stop = some {
      cause := 0x10, cause2 := 0, who := BitVec.ofNat 32 tid, tpc := e.l.offset (s.agentD r).pc
      addr := (e.saddr o).setWidth 64 })
  ∧ (∀ (core : Nat) (s : State) (m : MatOp) (rest : List MatOp), (s.core core).queue = m :: rest → m.run = false →
    s.reg64 0x800 = 0 →
    (∀ off, s.errs.counts = [] → ∃ t, exec (.uncorrectableConsumed (.engine core (.scratch off))) s = .next t ∧ t.mem = s.mem
      ∧ .scratch off ∈ (t.res core m.lid).bad ∧ (t.core core).queue = m :: rest)
    ∧ ∀ g, m.opc ≠ opCvtb → m.meets (s.res core m.lid).cfg (s.res core m.lid) = some g →
      ∃ t m', exec (.matrixExecute core) s = .next t ∧ t.mem = s.mem ∧ (t.core core).queue = m' :: rest
        ∧ m'.run = true ∧ m'.err = some { cause := 0x10, addr := BitVec.ofNat 32 (granPlace g).2 }
        ∧ (t.core core).res = (s.core core).res)
  ∧ (∀ (idx : Nat) (va : DWord) (s : State) (x : Coll), Tab.get? s.fabric.colls idx = some x →
    ∃ t, exec (.uncorrectableConsumed (.collective idx va)) s = .next t
      ∧ Tab.get? t.fabric.colls idx = some { x with bad := true })
  ∧ (∀ (unit : Nat) (loc : Word) (s : State),
    let bad := if unit = 0 then ∃ b ∈ s.errs.bad, Config.hbmLoc b = loc else ∃ e ∈ s.cores, (unit, loc) ∈ e.2.badWords e.1
    (bad → LogReady s → ∃ t, exec (.scrub unit loc) s = .next t
      ∧ Logged s t [BitVec.ofNat 32 (3 * 2 ^ 28 + unit * 2 ^ 24 + min 255 (s.ceCounter unit loc).count * 256), s.reg 0x808, 0, 0, loc,
        0, 0, BitVec.ofNat 32 s.errs.window])
    ∧ (¬bad → exec (.scrub unit loc) s = .next s))
  ∧ (∀ (bank : Nat) (s : State), exec (.hbmRefresh bank) s = .next s)
  ∧ ∀ (core : Nat) (s : State), core < 400 → (s.reg 0x818).toNat / 2 ^ (10 + 2 * (core / 40)) % 4 < 2 → Tab.wf s.front.regs = true →
    ∃ t, exec (.coreLogicError core) s = .next t ∧ t.mem = s.mem
      ∧ t.core core = { Core.empty with frozen := (s.core core).frozen }
      ∧ (t.reg 0x818).toNat = (s.reg 0x818).toNat + 2 ^ (10 + 2 * (core / 40))
      ∧ ∀ lid l, s.launch? lid = some l → (∃ e ∈ (s.core core).agents, e.2.lid = lid) ∨ (∃ e ∈ (s.core core).threads, e.2.lid = lid) →
        (t.launchD lid).cancelled = true ∧ (l.stop = none → l.cancelled = false →
          (t.launchD lid).stop = some { cause := 0x10, cause2 := 0, who := 0, tpc := 0, addr := 0 })

/-- R374 to R382: firmware. A renewal with the current epoch puts the lease off by 1 ms, one with another changes nothing; a
lease that has run out lapses; a claim while none runs makes a new leader with the next epoch. A side-band command enters
its mailbox, or has status 7 while nothing can lead. No claim is made before a flash bank has passed its check, and none where
PERST# has ended too early; the first starts the firmware of that bank, and where this is a newly activated release the fused
minimum rises. The leader takes a master's command in its turn and journals it with
its status; it then executes it, and the status and result reach the master. The update lock ends 10 s after the last
FWSTAGE. A chunk takes the place of the release in the bank that is not in use. Of two commands of one cycle the host's is taken
first. The two steps of a command and the order of its checks are deduced (log 53), and the start of the lease is the
model's choice (log 54). -/
def Obligations.FirmwareCommands : Prop :=
  (∀ (who : Nat) (epoch : Word) (s : State), s.fw.leader = some who → s.nanos < s.fw.until_ →
    (epoch = s.fw.epoch → ∃ t, exec (.leaseRenewal who epoch) s = .next t ∧ t.mem = s.mem
      ∧ t.fw = { s.fw with until_ := s.nanos + 1000000 })
    ∧ (epoch ≠ s.fw.epoch → exec (.leaseRenewal who epoch) s = .next s))
  ∧ (∀ (who : Nat) (s : State), s.fw.leader = some who → s.fw.until_ ≤ s.nanos → Tab.wf s.front.regs = true →
    ∃ t, exec .leaseLapse s = .next t ∧ t.mem = s.mem ∧ t.fw.leader = none ∧ (t.reg 0x50010).toNat % 65536 = 0)
  ∧ (∀ (who : Nat) (s : State), who ≤ 14 → s.fw.leader = none ∨ s.fw.until_ ≤ s.nanos → s.fw.perst = false →
    s.fw.journal = none → Tab.wf s.front.regs = true →
    let starts := s.fw.early = false
      ∧ (s.fw.holder.isSome = true ∨ s.bankGood s.fw.boot = true ∨ s.bankGood s.fw.other = true)
    (¬starts → exec (.leaseClaim who) s = .next s)
    ∧ (starts → ∃ t, exec (.leaseClaim who) s = .next t ∧ t.mem = s.mem ∧ t.fw.leader = some who ∧ t.fw.epoch = s.fw.epoch + 1
      ∧ t.fw.until_ = s.nanos + 1000000 ∧ (t.reg 0x50010).toNat % 65536 = 16 + who
      ∧ (t.reg 0x50010).toNat / 65536 = min 65535 ((s.reg 0x50010).toNat / 65536 + if s.fw.holder.isSome then 1 else 0)
      ∧ (s.fw.holder.isSome = true → t.fw.bank = s.fw.bank)
      ∧ (s.fw.holder = none →
        t.fw.bank = (if s.bankGood s.fw.boot then s.fw.boot else s.fw.other).getD (s.fw.newest + 1)
        ∧ ∀ r v, s.fw.secNext = [(r, v)] → t.fw.bank = r →
          t.fw.secMin.toNat = max s.fw.secMin.toNat v.toNat ∧ t.fw.secNext = [])))
  ∧ (∀ (opcode : Byte) (seq : Word) (payload : List Byte) (s : State),
    (s.fw.perst = true ∨ (s.fw.stage = 0 ∧ s.fw.leader = none) → ∃ t, exec (.sidebandMessage opcode seq payload) s = .next t
      ∧ t.fw = s.fw ∧ t.fabric.out = s.fabric.out ++ [.sideband seq 7 []])
    ∧ (s.fw.perst = false → (s.fw.stage ≠ 0 ∨ s.fw.leader ≠ none) → s.fw.mbSide = none →
      ∃ t, exec (.sidebandMessage opcode seq payload) s = .next t ∧ t.mem = s.mem
        ∧ t.fw.mbSide = some { master := .sideband, opcode := opcode.toNat, seq, payload, judged := 0, at_ := s.cycles }))
  ∧ (∀ (i : Master → Instr) (op : Nat) (m : Master) (s : State) (c : Cmd),
    (op, i) ∈ [(1, Instr.identity), (2, .attest), (3, .fwstage), (4, .fwactivate), (5, .fwabort), (6, .powercap), (7, .telemetry),
      (8, .reset), (9, .swconfig)] → s.fw.leader.isSome = true → s.nanos < s.fw.until_ → c.opcode = op →
    (s.fw.journal = none → (m = .host ∧ s.fw.mbHost = some c ∧ s.fw.mbSide = none
        ∨ m = .sideband ∧ s.fw.mbSide = some c ∧ s.fw.mbHost = none
        ∨ ∃ d, m = .host ∧ s.fw.mbHost = some c ∧ s.fw.mbSide = some d ∧ d.at_ = c.at_) →
      ∃ t, exec (i m) s = .next t ∧ t.mem = s.mem ∧ t.fw.journal = some { c with judged := s.judge9 c })
    ∧ (s.fw.journal = some c → c.master = m → Tab.wf s.front.regs = true → s.leaderNo < 16 → c.payload.length ≤ 4096 →
      let done := fun (status : Nat) (res : List Byte) (P : State → Prop) => ∃ t, exec (i m) s = .next t ∧ P t
        ∧ t.fw.journal = none ∧ t.fw.last = some m ∧ match m with
          | .host => t.fw.mbHost = none ∧ (t.reg 0x5000C).toNat = res.length * 65536 + s.leaderNo * 256 + status
            ∧ (∀ j, j < res.length → Tab.get? t.fw.data j = res[j]?) ∧ (if (s.reg 0x4004C).getLsbD 0 then 4 ∈ t.front.pending else .msix 4 ∈ t.fabric.out)
          | .sideband => t.fw.mbSide = none ∧ .sideband c.seq (BitVec.ofNat 8 status) res ∈ t.fabric.out
      (c.judged ≠ 0 → c.judged < 256 → done c.judged [] fun t => t.mem = s.mem ∧ t.fw.staged = s.fw.staged ∧ t.fw.cap = s.fw.cap
        ∧ t.fw.boot = s.fw.boot ∧ t.fw.lock = s.fw.lock)
      ∧ (c.judged = 0 →
        (op = 1 → done 0 s.identityRecord fun t => t.mem = s.mem)
        ∧ (op = 2 → done 0 (s.attestReport c.payload) fun t => t.mem = s.mem)
        ∧ (op = 3 → 4 ≤ c.payload.length → done 0 [] fun t => t.fw.lock = some (m, s.nanos) ∧ t.fw.bank = s.fw.bank
          ∧ (if s.fw.boot = some s.fw.bank then t.fw.other = none ∧ t.fw.boot = s.fw.boot
            else t.fw.boot = none ∧ t.fw.other = s.fw.other)
          ∧ ∀ j, j < c.payload.length - 4 → Tab.get? t.fw.staged (ofBytesLE (c.payload.take 4) + j) = c.payload[4 + j]?)
        ∧ (op = 4 → done 0 [] fun t => t.fw.lock = none ∧ t.fw.staged = [] ∧ t.fw.boot = some (s.fw.newest + 1) ∧ t.fw.other = some s.fw.bank
          ∧ t.fw.secNext = s.fw.secNext ++ [(s.fw.newest + 1, Config.bundleSecver s.fw.staged)]
          ∧ t.fw.bank = if ofBytesLE (c.payload.take 4) = 1 then s.fw.newest + 1 else s.fw.bank)
        ∧ (op = 5 → done 0 [] fun t => t.fw.lock = none ∧ t.fw.staged = [])
        ∧ (op = 6 → done 0 [] fun t => t.fw.cap = ofBytesLE (c.payload.take 4))
        ∧ (op = 7 → done 0 s.telemetryRecord fun t => t.mem = s.mem)
        ∧ (op = 9 → done 0 [] fun t => .switchConfig c.payload ∈ t.fabric.out))))
  ∧ ∀ (m : Master) (since : Nat) (s : State), s.fw.lock = some (m, since) →
    (since + 10000000000 ≤ s.nanos → ∃ t, exec .updateLockTimeout s = .next t ∧ t.mem = s.mem ∧ t.fw = { s.fw with lock := none })
    ∧ (s.nanos < since + 10000000000 → exec .updateLockTimeout s = .next s)

/-- R378, R383 to R387: the part as a whole. A RESET puts everything but flash, fuses and time to its reset, and once the part was
ready keeps its spares, its service state and its lanes in the repair record, which stage 4 applies (log 64); a throttle tick
takes 25 MHz from the clock, not below 425, where the power or a junction is too high, and gives 25 back, up to 850, where
both are low; a trip or a brown-out drops every launch and context and says which event it was. Bring-up goes from PERST
through its stages, the first after a leader, unless the rails had not stood long enough; READY stands from the fourth on, where
every granule has a good check code. The numbers of releases and events, that
memory is back at its reset contents after RESET, and what a trip leaves, are the model's choice (log 54). -/
def Obligations.PowerAndBringUp : Prop :=
  (∀ (m : Master) (s : State) (c : Cmd), s.fw.leader.isSome = true → s.nanos < s.fw.until_ → s.fw.journal = some c →
    c.opcode = 8 → c.judged = 0 → c.master = m →
    ∃ t, exec (.reset m) s = .next t ∧ t.mem = [] ∧ t.cores = [] ∧ t.launches = [] ∧ t.front = State.reset.front ∧ t.parts = []
      ∧ t.errs = State.reset.errs ∧ t.nanos = s.nanos ∧ t.cycles = 0 ∧ t.fw.leader = none ∧ t.fw.stage = 0
      ∧ t.fw.boot = s.fw.boot ∧ t.fw.bank = s.fw.bank ∧ t.fw.secMin = s.fw.secMin ∧ t.fw.staged = s.fw.staged
      ∧ t.fabric.out = s.fabric.out ++ (if m = .sideband then [.sideband c.seq 0 []] else [])
      ∧ (4 ≤ s.fw.stage → s.errs.faulty = [] → ∃ x, t.fw.repair = some x ∧ x.svc = s.reg 0x818 ∧ x.lanes = s.reg 0x81C
        ∧ x.spares = s.errs.spares ∧ x.worn = s.errs.worn ∧ x.slotsOut = s.errs.slotsOut ∧ x.lanesOut = s.fabric.lanesOut))
  ∧ (∀ (mw : Nat) (temps : List Nat) (s : State), s.fw.trip = false → temps.length ≤ 15 → (∀ x ∈ temps, x < 1100) →
    let hot := s.fw.cap * 1000 < mw ∨ ∃ x ∈ temps, 1000 < x
    let under := mw * 100 ≤ s.fw.cap * 1000 * 95 ∧ ∀ x ∈ temps, x < 950
    ∃ t, exec (.throttleTick mw temps) s = .next t ∧ t.mem = s.mem ∧ t.fw.power = mw ∧ t.fw.temps = temps
      ∧ (hot → t.fw.mhz = max 425 (s.fw.mhz - 25)) ∧ (¬hot → under → t.fw.mhz = min 850 (s.fw.mhz + 25))
      ∧ (¬hot → ¬under → t.fw.mhz = s.fw.mhz))
  ∧ (∀ (mw : Nat) (temps : List Nat) (s : State), s.fw.trip = false → (∃ x ∈ temps.take 15, 1100 ≤ x) →
    ∃ t, exec (.throttleTick mw temps) s = .next t ∧ t.mem = s.mem ∧ t.fw.trip = true ∧ t.cores = [] ∧ t.launches = []
      ∧ t.fw.temps = temps.take 15)
  ∧ (∀ (s : State) (i : Instr) (event : Nat), s.fw.trip = false →
    i = .thermalTrip ∧ event = 0 ∨ (∃ rail, i = .brownOut rail ∧ rail < 16 ∧ event = rail + 1) →
    ∃ t, exec i s = .next t ∧ t.mem = s.mem ∧ t.fw.trip = true ∧ t.cores = [] ∧ t.launches = [] ∧ t.parts = []
      ∧ t.front.slots = [] ∧ t.fabric.remote = [] ∧ t.fabric.out = s.fabric.out ++ [.event event] ∧ t.isReady = false)
  ∧ (∀ s : State, s.fw.perst = true → ∃ t, exec .perstDeassert s = .next t ∧ t.mem = s.mem ∧ t.fw.perst = false ∧ t.fw.stage = 0
    ∧ (t.fw.early = true ↔ s.nanos < Config.railsUp + 10000000))
  ∧ ∀ s : State, s.fw.perst = false → s.fw.stage < 5 → (s.fw.stage = 0 → s.fw.leader ≠ none) → Tab.wf s.front.regs = true →
    ∃ t, exec .bringupStageDone s = .next t ∧ t.mem = s.mem ∧ t.fw.stage = s.fw.stage + 1 ∧ t.fw.bank = s.fw.bank
      ∧ (t.reg 0x50014).toNat = (if 3 ≤ s.fw.stage then 2 ^ 31 else 0) + s.fw.stage + 1
      ∧ (s.fw.stage = 4 → t.errs.start = s.nanos ∧ t.errs.window = 0 ∧ t.errs.counts = [])
      ∧ (∀ x, s.fw.stage = 3 → s.fw.repair = some x → t.reg 0x818 = x.svc ∧ t.reg 0x81C = x.lanes ∧ t.errs.spares = x.spares
        ∧ t.errs.worn = x.worn ∧ t.errs.slotsOut = x.slotsOut ∧ t.fabric.lanesOut = x.lanesOut)
      ∧ (s.fw.stage = 3 → t.errs.bad = [] ∧ ∀ c r, (t.core c).res = r → ∀ e ∈ r, e.2.bad = [])

/-! ### Completion -/

/-- R139 to R147, R187, R199, R200: where each matrix, shepherd and work instruction, and the end of each of their waits,
completes with its own effect. A matrix instruction that passes the checks of R189, and the word of a CPYMX, enters a queue with
room; MSTAT, MSTAT.sync and MSTAT.list return their result where nothing is queued; SBR, SJMP and SLOOP go to their target or on;
SPAWN, DPUSH, DPOP, SWAIT and SCOND return their result where they need not wait; SHALT halts; ENQ, REC, CNTADD, CNTWAIT and
CANCEL have their effect on a core with no access to come. Stated of one active lane, of any number for what is queued. How a
wait looks in the state, and how it ends, is the model's choice (log 9). -/
def Obligations.MatrixShepherdAndWorkInstructionsComplete : Prop :=
  (∀ (o : Op) (s : State) (r : AgentRef) (e : Env) (es : List Env), s.cur = some r →
    (s.latchFor o ((s.envs r o).take 1)).envs r o = e :: es → (s.core r.core).queueFull = false →
    let queued := fun (i : Instr) (opc : BitVec 8) =>
      ({ opc, op := o, a := e.a32 o, b := e.b32 o, c := e.c64 o } : MatSrc).check e.l (s.tailCfg r.core (s.agentD r).lid) = none →
      ∃ t x, exec i s = .next t ∧ (t.core r.core).queue = (s.core r.core).queue ++ [x] ∧ x.opc = opc ∧ x.op = o
        ∧ x.a = e.a32 o ∧ x.b = e.b32 o ∧ x.c = e.c64 o ∧ x.run = false ∧ (t.agentD r).pc = (s.agentD r).pc + 16
    queued (.mcfg o) 0xB0 ∧ queued (.mma o) 0xB1 ∧ queued (.mmag o) 0xB2 ∧ queued (.mmas o) 0xB3 ∧ queued (.mzero o) 0xB4
    ∧ queued (.mload o) 0xB5 ∧ queued (.mloadSc o) 0xB5 ∧ queued (.mstore o) 0xB6 ∧ queued (.mstatSet o) 0xB7
    ∧ queued (.modrain o) 0xB8)
  ∧ (∀ (core slot : Nat) (s : State) (x : Copy), Tab.get? (s.core core).copies slot = some x → x.live = true →
    x.landed = true → x.kind = 0xA3 → (s.core core).queue.length < 32 →
    let w := wordOfBytes (bytesOfWords (x.desc.drop 8))
    let o := decodeOp false w
    let rd := (s.launchD x.lid).mxRead o
    ({ opc := bits w 88 8, op := o, a := rd o.a, b := rd o.b, c := (rd o.c).setWidth 64 } : MatSrc).check (s.launchD x.lid)
      (s.tailCfg core x.lid) = none →
    ∃ t y, exec (.cpymxWordEntry core slot) s = .next t ∧ (t.core core).queue = (s.core core).queue ++ [y]
      ∧ y.opc = bits w 88 8 ∧ y.op = o ∧ y.run = false)
  ∧ (∀ (o : Op) (s : State) (r : AgentRef) (e : Env), Lone s r o e → (s.core r.core).late = [] →
    let a := s.agentD r
    let lid := a.lid
    let res := s.res r.core lid
    let x := (e.a32 o).toNat
    let y := (e.b32 o).toNat
    let completes := fun (i : Instr) (k : Nat) (vals : List Word) => ∃ t, exec i s = .next t
      ∧ t.agentD r = a.issued s.cycles o.ctl .v (destRegs o.d k) (destWrites e.n o.d vals) []
    let goes := fun (i : Instr) (k : Nat) (vals : List Word) (taken : Bool) => ∃ t, exec i s = .next t
      ∧ t.agentD r = { a.issued s.cycles o.ctl .v (destRegs o.d k) (destWrites e.n o.d vals) [] with
          pc := if taken then a.pc + o.imm.signExtend 64 * 16 else a.pc + 16 }
    completes (.mstat o) 1 [s.numStat r.core lid]
    ∧ ((s.core r.core).queue = [] → res.engErr = none → completes (.mstatSync o) 1 [res.mcount])
    ∧ ((s.core r.core).queue = [] →
      completes (.mstatList o) 1 [BitVec.ofNat 32 (Tab.getD res.outlier (x % 16) []).length])
    ∧ goes (.sbr o) 0 [] (e.a32 o != 0) ∧ goes (.sjmp o) 0 [] true ∧ goes (.sloop o) 1 [e.a32 o - 1] (e.a32 o - 1 != 0)
    ∧ (∀ (core : Nat) (landing team : Bool), spawnCore r.core (e.c32 o) = some core → e.s.spawnBad e x y (some core) = false →
      e.s.spawnRoom core e.l.width x y = true → BlkThere s core e.l e.l.entry team landing → completes (.spawn o) 1 [e.b32 o])
    ∧ (1 ≤ y → y ≤ 65535 → (Tab.getD res.ring (res.ringNext.toNat % 256) (0, 0)).2 = 0 → completes (.dpush o) 1 [res.ringNext])
    ∧ (∀ v readers, Tab.get? res.ring (x % 256) = some (v, readers) → readers ≠ 0 → 1 ≤ (res.ringNext - e.a32 o).toNat →
      (res.ringNext - e.a32 o).toNat ≤ 256 → ringFresh res s.cycles (e.a32 o) = false → completes (.dpop o) 1 [v])
    ∧ (x ≤ res.spawnCnt → x ≤ res.retired → completes (.swait o) 1 [BitVec.ofNat 32 res.retired])
    ∧ (res.tn = 0 → e.a32 o = 0 → completes (.scond o) 2 [0, 0])
    ∧ (∀ v, res.tn ≠ 0 → Tab.get? res.votes (res.tn - 1).toNat = some v → e.a32 o = v.count →
      completes (.scond o) 2 [v.vec.setWidth 32, (v.vec >>> 32).setWidth 32])
    ∧ (∃ t, exec (.shalt o) s = .next t ∧ (t.res r.core lid).halted = true)
    ∧ (s.fabric.biasJob = none → a.served = [] → a.got = [] → (s.core r.core).outst = [] → e.l.race = false →
      (s.core r.core).settledAt ≠ some s.cycles → e.l.cancelled = false → s.mergeFlags r.core lid = s →
      let read := fun (past : Bool) (n : Nat) (x : State) => workAsk past n o x e
      let key := (e.l.recW 9).toNat * 65536 + x
      (∀ ds, (e.a64 o).toNat % 64 = 0 → (read false 64 e.s).2 = .data ds → (read false 64 (read false 64 e.s).1).2 = .data ds →
        let u := (read false 64 (read false 64 e.s).1).1
        ∀ d, u.enqStatus e.l y = .ok d → ((u.releaseNow r.core lid 5).hubWrite (qPart d) (qSlotAddr d (qWr d)) ds).2 = .ok () →
        completes (.enq o) 1 [0])
      ∧ (∀ ent nd, (e.s.nodeEntry e.l.part (e.l.recW 9) x).2 = some ent → Tab.get? s.front.nodes key = some nd →
        nd.lapsed s.wgTimer.toNat s.nanos = false → nd.takes (nodeNbuf ent) = true → completes (.recN o) 0 [])
      ∧ (∀ pa, Reaches e (e.a64 o) 8 Acc.rmw pa → Memory.wf s.mem = true → s.errs.bad = [] → s.hostBiased pa = false → o.d = .zero →
        Ordinary { s with mem := memWrite s.mem pa (bytesLE 8 (ofBytesLE (memRead s.mem pa 8) + y)) } pa 8 →
        ∃ t, exec (.cntadd o) s = .next t ∧ memRead t.mem pa 8 = bytesLE 8 ((ofBytesLE (memRead s.mem pa 8) + y) % 2 ^ 64))
      ∧ (∀ bs, (e.a64 o).toNat % 8 = 0 → (read true 8 e.s).2 = .data bs → (read true 8 (read true 8 e.s).1).2 = .data bs →
        e.b64 o ≤ word64 bs → completes (.cntwait o) 2 [(word64 bs).setWidth 32, (word64 bs >>> 32).setWidth 32])
      ∧ (o.mbits 0 2 = 0 → s.reg 8 = 0 → (e.s.batchesNamed (e.a32 o) (e.l.recW 11)).2 = [] →
        ∀ l, (s.launches.filter fun x => x.2.recW 8 == e.a32 o && x.2.recW 11 == e.l.recW 11) = [(lid, l)] →
        s.launch? lid = some l → l.st = .running → l.stop = none →
        ∃ t, exec (.cancel o) s = .next t ∧ (t.launchD lid).cancelled = true)))
  ∧ ∀ (core ag : Nat) (s : State) (a : Agent) (w : Wait), s.agent? ⟨core, ag⟩ = some a → a.wait = some w →
    (s.core core).frozen = false → s.phase ≤ s.issueRank ⟨core, ag⟩ →
    let issues := fun (i : Instr) => ∃ t, exec i s = .next t ∧ t.cur = some ⟨core, ag⟩
      ∧ t.agent? ⟨core, ag⟩ = some { a with wait := none }
    (w = .spawn ∨ w = .dpush ∨ w = .swait ∨ (∃ v, w = .scond v) → issues (.shepherdWaitSatisfied core ag))
    ∧ (∀ seqs, w = .dpop seqs → s.dpopBehind ⟨core, ag⟩ a.lid = false → issues (.dpopWaitSatisfied core ag)) ∧ (w = .cntwait → issues (.cntwaitSatisfied core ag))
end

