-- ==== Sys2Proof/Laws/Tab.lean ====
section
/-! SUPPORT. What tables do: reading after writing, and that every operation keeps the keys rising. -/

namespace Sys2Proof.Machine

theorem Tab.get?_set_self {α : Type} (t : Tab α) (k : Nat) (v : α) : Tab.get? (Tab.set t k v) k = some v := by
  induction t with
  | nil => simp [Tab.set, Tab.get?]
  | cons e t ih =>
    obtain ⟨k', v'⟩ := e
    simp only [Tab.set]
    split
    · simp [Tab.get?]
    · split
      · simp [Tab.get?]
      · simp [Tab.get?, *]

theorem Tab.get?_set_ne {α : Type} (t : Tab α) {k j : Nat} (v : α) (h : j ≠ k) :
    Tab.get? (Tab.set t k v) j = Tab.get? t j := by
  induction t with
  | nil => simp [Tab.set, Tab.get?, h]
  | cons e t ih =>
    obtain ⟨k', v'⟩ := e
    simp only [Tab.set]
    split
    · simp [Tab.get?, h]
    · split
      · subst_vars; simp [Tab.get?, h]
      · simp only [Tab.get?]; split <;> simp [ih]

theorem Tab.get?_set {α : Type} (t : Tab α) (k j : Nat) (v : α) :
    Tab.get? (Tab.set t k v) j = if j = k then some v else Tab.get? t j := by
  split
  · next h => rw [h]; exact Tab.get?_set_self t k v
  · exact Tab.get?_set_ne t v ‹_›

theorem Tab.getD_set {α : Type} (t : Tab α) (k j : Nat) (v d : α) :
    Tab.getD (Tab.set t k v) j d = if j = k then v else Tab.getD t j d := by
  simp only [Tab.getD, Tab.get?_set]
  split <;> simp

theorem Tab.get?_upd {α : Type} (t : Tab α) (k j : Nat) (f : α → α) :
    Tab.get? (Tab.upd t k f) j = if j = k then (Tab.get? t k).map f else Tab.get? t j := by
  unfold Tab.upd
  split
  · rename_i v hv
    rw [Tab.get?_set]
    split <;> simp [*]
  · rename_i hv
    split <;> simp [*]

theorem Tab.get?_erase_ne {α : Type} (t : Tab α) {k j : Nat} (h : j ≠ k) :
    Tab.get? (Tab.erase t k) j = Tab.get? t j := by
  induction t with
  | nil => rfl
  | cons e t ih =>
    obtain ⟨k', v'⟩ := e
    simp only [Tab.erase]
    split
    · subst_vars; simp [Tab.get?, h]
    · simp only [Tab.get?]; split <;> simp [ih]

theorem Tab.get?_mapVals {α : Type} (t : Tab α) (f : Nat → α → α) (k : Nat) :
    Tab.get? (Tab.mapVals t f) k = (Tab.get? t k).map (f k) := by
  induction t with
  | nil => rfl
  | cons e t ih =>
    obtain ⟨k', v'⟩ := e
    have ih' : Tab.get? (List.map (fun e : Nat × α => (e.1, f e.1 e.2)) t) k = (Tab.get? t k).map (f k) := ih
    simp only [Tab.mapVals, List.map_cons, Tab.get?, ih']
    split <;> simp_all

/-! ### The canonical form -/

theorem Tab.risingFrom_mono {α : Type} (t : Tab α) {lo lo' : Nat} (h : lo' ≤ lo) (ht : Tab.risingFrom lo t = true) :
    Tab.risingFrom lo' t = true := by
  cases t with
  | nil => rfl
  | cons e t =>
    simp only [Tab.risingFrom, Bool.and_eq_true, decide_eq_true_eq] at ht ⊢
    exact ⟨by omega, ht.2⟩

theorem Tab.risingFrom_set {α : Type} (t : Tab α) (k : Nat) (v : α) (lo : Nat) (hk : lo ≤ k)
    (ht : Tab.risingFrom lo t = true) : Tab.risingFrom lo (Tab.set t k v) = true := by
  induction t generalizing lo with
  | nil => simp [Tab.set, Tab.risingFrom, hk]
  | cons e t ih =>
    obtain ⟨k', v'⟩ := e
    simp only [Tab.risingFrom, Bool.and_eq_true, decide_eq_true_eq] at ht
    simp only [Tab.set]
    split
    · simp only [Tab.risingFrom, Bool.and_eq_true, decide_eq_true_eq]
      exact ⟨hk, by omega, ht.2⟩
    · split
      · subst_vars; simp only [Tab.risingFrom, Bool.and_eq_true, decide_eq_true_eq]; exact ⟨hk, ht.2⟩
      · simp only [Tab.risingFrom, Bool.and_eq_true, decide_eq_true_eq]
        exact ⟨ht.1, ih (k' + 1) (by omega) ht.2⟩

/-- Putting a value into a table keeps its canonical form. -/
theorem Tab.wf_set {α : Type} (t : Tab α) (k : Nat) (v : α) (ht : t.wf = true) : (Tab.set t k v).wf = true :=
  Tab.risingFrom_set t k v 0 (Nat.zero_le k) ht

theorem Tab.wf_upd {α : Type} (t : Tab α) (k : Nat) (f : α → α) (ht : t.wf = true) : (Tab.upd t k f).wf = true := by
  unfold Tab.upd
  split
  · exact Tab.wf_set t k _ ht
  · exact ht

theorem Tab.risingFrom_erase {α : Type} (t : Tab α) (k lo : Nat) (ht : Tab.risingFrom lo t = true) :
    Tab.risingFrom lo (Tab.erase t k) = true := by
  induction t generalizing lo with
  | nil => rfl
  | cons e t ih =>
    obtain ⟨k', v'⟩ := e
    simp only [Tab.risingFrom, Bool.and_eq_true, decide_eq_true_eq] at ht
    simp only [Tab.erase]
    split
    · exact Tab.risingFrom_mono t (by omega) ht.2
    · simp only [Tab.risingFrom, Bool.and_eq_true, decide_eq_true_eq]
      exact ⟨ht.1, ih (k' + 1) ht.2⟩

/-- Removing a key keeps the canonical form. -/
theorem Tab.wf_erase {α : Type} (t : Tab α) (k : Nat) (ht : t.wf = true) : (Tab.erase t k).wf = true :=
  Tab.risingFrom_erase t k 0 ht

theorem Tab.get?_lt {α : Type} (t : Tab α) {lo k : Nat} (hk : k < lo) (ht : Tab.risingFrom lo t = true) :
    Tab.get? t k = none := by
  induction t generalizing lo with
  | nil => rfl
  | cons e t ih =>
    obtain ⟨k', v'⟩ := e
    simp only [Tab.risingFrom, Bool.and_eq_true, decide_eq_true_eq] at ht
    simp only [Tab.get?]
    rw [if_neg (by omega)]
    exact ih (by omega) ht.2

/-- In a table of canonical form a removed key is gone. -/
theorem Tab.get?_erase_self {α : Type} (t : Tab α) (k : Nat) (ht : t.wf = true) : Tab.get? (Tab.erase t k) k = none := by
  unfold Tab.wf at ht
  generalize (0 : Nat) = lo at ht
  induction t generalizing lo with
  | nil => rfl
  | cons e t ih =>
    obtain ⟨k', v'⟩ := e
    simp only [Tab.risingFrom, Bool.and_eq_true, decide_eq_true_eq] at ht
    simp only [Tab.erase]
    split
    · subst_vars; exact Tab.get?_lt t (Nat.lt_succ_self _) ht.2
    · simp only [Tab.get?]
      rw [if_neg ‹_›]
      exact ih _ ht.2

end Sys2Proof.Machine
end

