-- ==== Sys2Proof/Laws/State.lean ====
section
/-! SUPPORT. What each update of the state leaves unchanged, one lemma for each update and field, and what reading
gives after it. -/

namespace Sys2Proof.Machine

@[simp] theorem State.setCore_cur (s : State) (c : Nat) (v : Core) : (s.setCore c v).cur = s.cur := rfl
@[simp] theorem State.setCore_agenda (s : State) (c : Nat) (v : Core) : (s.setCore c v).agenda = s.agenda := rfl
@[simp] theorem State.setCore_tick (s : State) (c : Nat) (v : Core) : (s.setCore c v).tick = s.tick := rfl
@[simp] theorem State.setCore_cycles (s : State) (c : Nat) (v : Core) : (s.setCore c v).cycles = s.cycles := rfl
@[simp] theorem State.setCore_phase (s : State) (c : Nat) (v : Core) : (s.setCore c v).phase = s.phase := rfl
@[simp] theorem State.setCore_nanos (s : State) (c : Nat) (v : Core) : (s.setCore c v).nanos = s.nanos := rfl
@[simp] theorem State.setCore_launches (s : State) (c : Nat) (v : Core) : (s.setCore c v).launches = s.launches := rfl
@[simp] theorem State.setCore_nextLid (s : State) (c : Nat) (v : Core) : (s.setCore c v).nextLid = s.nextLid := rfl
@[simp] theorem State.setCore_mem (s : State) (c : Nat) (v : Core) : (s.setCore c v).mem = s.mem := rfl
@[simp] theorem State.setCore_front (s : State) (c : Nat) (v : Core) : (s.setCore c v).front = s.front := rfl
@[simp] theorem State.setCore_fabric (s : State) (c : Nat) (v : Core) : (s.setCore c v).fabric = s.fabric := rfl
@[simp] theorem State.setCore_parts (s : State) (c : Nat) (v : Core) : (s.setCore c v).parts = s.parts := rfl
@[simp] theorem State.setCore_errs (s : State) (c : Nat) (v : Core) : (s.setCore c v).errs = s.errs := rfl
@[simp] theorem State.setCore_fw (s : State) (c : Nat) (v : Core) : (s.setCore c v).fw = s.fw := rfl
@[simp] theorem State.setCore_shadow (s : State) (c : Nat) (v : Core) : (s.setCore c v).shadow = s.shadow := rfl
@[simp] theorem State.setCore_shadowWas (s : State) (c : Nat) (v : Core) : (s.setCore c v).shadowWas = s.shadowWas := rfl
@[simp] theorem State.setCore_migThresh (s : State) (c : Nat) (v : Core) : (s.setCore c v).migThresh = s.migThresh := rfl
@[simp] theorem State.setCore_qIdle (s : State) (c : Nat) (v : Core) : (s.setCore c v).qIdle = s.qIdle := rfl
@[simp] theorem State.setCore_wgTimer (s : State) (c : Nat) (v : Core) : (s.setCore c v).wgTimer = s.wgTimer := rfl

@[simp] theorem State.updCore_cur (s : State) (c : Nat) (f : Core → Core) : (s.updCore c f).cur = s.cur := rfl
@[simp] theorem State.updCore_agenda (s : State) (c : Nat) (f : Core → Core) : (s.updCore c f).agenda = s.agenda := rfl
@[simp] theorem State.updCore_tick (s : State) (c : Nat) (f : Core → Core) : (s.updCore c f).tick = s.tick := rfl
@[simp] theorem State.updCore_cycles (s : State) (c : Nat) (f : Core → Core) : (s.updCore c f).cycles = s.cycles := rfl
@[simp] theorem State.updCore_phase (s : State) (c : Nat) (f : Core → Core) : (s.updCore c f).phase = s.phase := rfl
@[simp] theorem State.updCore_nanos (s : State) (c : Nat) (f : Core → Core) : (s.updCore c f).nanos = s.nanos := rfl
@[simp] theorem State.updCore_launches (s : State) (c : Nat) (f : Core → Core) : (s.updCore c f).launches = s.launches := rfl
@[simp] theorem State.updCore_nextLid (s : State) (c : Nat) (f : Core → Core) : (s.updCore c f).nextLid = s.nextLid := rfl
@[simp] theorem State.updCore_mem (s : State) (c : Nat) (f : Core → Core) : (s.updCore c f).mem = s.mem := rfl
@[simp] theorem State.updCore_front (s : State) (c : Nat) (f : Core → Core) : (s.updCore c f).front = s.front := rfl
@[simp] theorem State.updCore_fabric (s : State) (c : Nat) (f : Core → Core) : (s.updCore c f).fabric = s.fabric := rfl
@[simp] theorem State.updCore_parts (s : State) (c : Nat) (f : Core → Core) : (s.updCore c f).parts = s.parts := rfl
@[simp] theorem State.updCore_errs (s : State) (c : Nat) (f : Core → Core) : (s.updCore c f).errs = s.errs := rfl
@[simp] theorem State.updCore_fw (s : State) (c : Nat) (f : Core → Core) : (s.updCore c f).fw = s.fw := rfl
@[simp] theorem State.updCore_shadow (s : State) (c : Nat) (f : Core → Core) : (s.updCore c f).shadow = s.shadow := rfl
@[simp] theorem State.updCore_shadowWas (s : State) (c : Nat) (f : Core → Core) : (s.updCore c f).shadowWas = s.shadowWas := rfl
@[simp] theorem State.updCore_migThresh (s : State) (c : Nat) (f : Core → Core) : (s.updCore c f).migThresh = s.migThresh := rfl
@[simp] theorem State.updCore_qIdle (s : State) (c : Nat) (f : Core → Core) : (s.updCore c f).qIdle = s.qIdle := rfl
@[simp] theorem State.updCore_wgTimer (s : State) (c : Nat) (f : Core → Core) : (s.updCore c f).wgTimer = s.wgTimer := rfl

@[simp] theorem State.setAgent_cur (s : State) (r : AgentRef) (a : Agent) : (s.setAgent r a).cur = s.cur := rfl
@[simp] theorem State.setAgent_agenda (s : State) (r : AgentRef) (a : Agent) : (s.setAgent r a).agenda = s.agenda := rfl
@[simp] theorem State.setAgent_tick (s : State) (r : AgentRef) (a : Agent) : (s.setAgent r a).tick = s.tick := rfl
@[simp] theorem State.setAgent_cycles (s : State) (r : AgentRef) (a : Agent) : (s.setAgent r a).cycles = s.cycles := rfl
@[simp] theorem State.setAgent_phase (s : State) (r : AgentRef) (a : Agent) : (s.setAgent r a).phase = s.phase := rfl
@[simp] theorem State.setAgent_nanos (s : State) (r : AgentRef) (a : Agent) : (s.setAgent r a).nanos = s.nanos := rfl
@[simp] theorem State.setAgent_launches (s : State) (r : AgentRef) (a : Agent) : (s.setAgent r a).launches = s.launches := rfl
@[simp] theorem State.setAgent_nextLid (s : State) (r : AgentRef) (a : Agent) : (s.setAgent r a).nextLid = s.nextLid := rfl
@[simp] theorem State.setAgent_mem (s : State) (r : AgentRef) (a : Agent) : (s.setAgent r a).mem = s.mem := rfl
@[simp] theorem State.setAgent_front (s : State) (r : AgentRef) (a : Agent) : (s.setAgent r a).front = s.front := rfl
@[simp] theorem State.setAgent_fabric (s : State) (r : AgentRef) (a : Agent) : (s.setAgent r a).fabric = s.fabric := rfl
@[simp] theorem State.setAgent_parts (s : State) (r : AgentRef) (a : Agent) : (s.setAgent r a).parts = s.parts := rfl
@[simp] theorem State.setAgent_errs (s : State) (r : AgentRef) (a : Agent) : (s.setAgent r a).errs = s.errs := rfl
@[simp] theorem State.setAgent_fw (s : State) (r : AgentRef) (a : Agent) : (s.setAgent r a).fw = s.fw := rfl
@[simp] theorem State.setAgent_shadow (s : State) (r : AgentRef) (a : Agent) : (s.setAgent r a).shadow = s.shadow := rfl
@[simp] theorem State.setAgent_shadowWas (s : State) (r : AgentRef) (a : Agent) : (s.setAgent r a).shadowWas = s.shadowWas := rfl
@[simp] theorem State.setAgent_migThresh (s : State) (r : AgentRef) (a : Agent) : (s.setAgent r a).migThresh = s.migThresh := rfl
@[simp] theorem State.setAgent_qIdle (s : State) (r : AgentRef) (a : Agent) : (s.setAgent r a).qIdle = s.qIdle := rfl
@[simp] theorem State.setAgent_wgTimer (s : State) (r : AgentRef) (a : Agent) : (s.setAgent r a).wgTimer = s.wgTimer := rfl

@[simp] theorem State.updAgent_cur (s : State) (r : AgentRef) (f : Agent → Agent) : (s.updAgent r f).cur = s.cur := rfl
@[simp] theorem State.updAgent_agenda (s : State) (r : AgentRef) (f : Agent → Agent) : (s.updAgent r f).agenda = s.agenda := rfl
@[simp] theorem State.updAgent_tick (s : State) (r : AgentRef) (f : Agent → Agent) : (s.updAgent r f).tick = s.tick := rfl
@[simp] theorem State.updAgent_cycles (s : State) (r : AgentRef) (f : Agent → Agent) : (s.updAgent r f).cycles = s.cycles := rfl
@[simp] theorem State.updAgent_phase (s : State) (r : AgentRef) (f : Agent → Agent) : (s.updAgent r f).phase = s.phase := rfl
@[simp] theorem State.updAgent_nanos (s : State) (r : AgentRef) (f : Agent → Agent) : (s.updAgent r f).nanos = s.nanos := rfl
@[simp] theorem State.updAgent_launches (s : State) (r : AgentRef) (f : Agent → Agent) : (s.updAgent r f).launches = s.launches := rfl
@[simp] theorem State.updAgent_nextLid (s : State) (r : AgentRef) (f : Agent → Agent) : (s.updAgent r f).nextLid = s.nextLid := rfl
@[simp] theorem State.updAgent_mem (s : State) (r : AgentRef) (f : Agent → Agent) : (s.updAgent r f).mem = s.mem := rfl
@[simp] theorem State.updAgent_front (s : State) (r : AgentRef) (f : Agent → Agent) : (s.updAgent r f).front = s.front := rfl
@[simp] theorem State.updAgent_fabric (s : State) (r : AgentRef) (f : Agent → Agent) : (s.updAgent r f).fabric = s.fabric := rfl
@[simp] theorem State.updAgent_parts (s : State) (r : AgentRef) (f : Agent → Agent) : (s.updAgent r f).parts = s.parts := rfl
@[simp] theorem State.updAgent_errs (s : State) (r : AgentRef) (f : Agent → Agent) : (s.updAgent r f).errs = s.errs := rfl
@[simp] theorem State.updAgent_fw (s : State) (r : AgentRef) (f : Agent → Agent) : (s.updAgent r f).fw = s.fw := rfl
@[simp] theorem State.updAgent_shadow (s : State) (r : AgentRef) (f : Agent → Agent) : (s.updAgent r f).shadow = s.shadow := rfl
@[simp] theorem State.updAgent_shadowWas (s : State) (r : AgentRef) (f : Agent → Agent) : (s.updAgent r f).shadowWas = s.shadowWas := rfl
@[simp] theorem State.updAgent_migThresh (s : State) (r : AgentRef) (f : Agent → Agent) : (s.updAgent r f).migThresh = s.migThresh := rfl
@[simp] theorem State.updAgent_qIdle (s : State) (r : AgentRef) (f : Agent → Agent) : (s.updAgent r f).qIdle = s.qIdle := rfl
@[simp] theorem State.updAgent_wgTimer (s : State) (r : AgentRef) (f : Agent → Agent) : (s.updAgent r f).wgTimer = s.wgTimer := rfl

@[simp] theorem State.dropAgent_cur (s : State) (r : AgentRef) : (s.dropAgent r).cur = s.cur := rfl
@[simp] theorem State.dropAgent_agenda (s : State) (r : AgentRef) : (s.dropAgent r).agenda = s.agenda := rfl
@[simp] theorem State.dropAgent_tick (s : State) (r : AgentRef) : (s.dropAgent r).tick = s.tick := rfl
@[simp] theorem State.dropAgent_cycles (s : State) (r : AgentRef) : (s.dropAgent r).cycles = s.cycles := rfl
@[simp] theorem State.dropAgent_phase (s : State) (r : AgentRef) : (s.dropAgent r).phase = s.phase := rfl
@[simp] theorem State.dropAgent_nanos (s : State) (r : AgentRef) : (s.dropAgent r).nanos = s.nanos := rfl
@[simp] theorem State.dropAgent_launches (s : State) (r : AgentRef) : (s.dropAgent r).launches = s.launches := rfl
@[simp] theorem State.dropAgent_nextLid (s : State) (r : AgentRef) : (s.dropAgent r).nextLid = s.nextLid := rfl
@[simp] theorem State.dropAgent_mem (s : State) (r : AgentRef) : (s.dropAgent r).mem = s.mem := rfl
@[simp] theorem State.dropAgent_front (s : State) (r : AgentRef) : (s.dropAgent r).front = s.front := rfl
@[simp] theorem State.dropAgent_fabric (s : State) (r : AgentRef) : (s.dropAgent r).fabric = s.fabric := rfl
@[simp] theorem State.dropAgent_parts (s : State) (r : AgentRef) : (s.dropAgent r).parts = s.parts := rfl
@[simp] theorem State.dropAgent_errs (s : State) (r : AgentRef) : (s.dropAgent r).errs = s.errs := rfl
@[simp] theorem State.dropAgent_fw (s : State) (r : AgentRef) : (s.dropAgent r).fw = s.fw := rfl
@[simp] theorem State.dropAgent_shadow (s : State) (r : AgentRef) : (s.dropAgent r).shadow = s.shadow := rfl
@[simp] theorem State.dropAgent_shadowWas (s : State) (r : AgentRef) : (s.dropAgent r).shadowWas = s.shadowWas := rfl
@[simp] theorem State.dropAgent_migThresh (s : State) (r : AgentRef) : (s.dropAgent r).migThresh = s.migThresh := rfl
@[simp] theorem State.dropAgent_qIdle (s : State) (r : AgentRef) : (s.dropAgent r).qIdle = s.qIdle := rfl
@[simp] theorem State.dropAgent_wgTimer (s : State) (r : AgentRef) : (s.dropAgent r).wgTimer = s.wgTimer := rfl

@[simp] theorem State.setThread_cur (s : State) (c : Nat) (t : Thread) : (s.setThread c t).cur = s.cur := rfl
@[simp] theorem State.setThread_agenda (s : State) (c : Nat) (t : Thread) : (s.setThread c t).agenda = s.agenda := rfl
@[simp] theorem State.setThread_tick (s : State) (c : Nat) (t : Thread) : (s.setThread c t).tick = s.tick := rfl
@[simp] theorem State.setThread_cycles (s : State) (c : Nat) (t : Thread) : (s.setThread c t).cycles = s.cycles := rfl
@[simp] theorem State.setThread_phase (s : State) (c : Nat) (t : Thread) : (s.setThread c t).phase = s.phase := rfl
@[simp] theorem State.setThread_nanos (s : State) (c : Nat) (t : Thread) : (s.setThread c t).nanos = s.nanos := rfl
@[simp] theorem State.setThread_launches (s : State) (c : Nat) (t : Thread) : (s.setThread c t).launches = s.launches := rfl
@[simp] theorem State.setThread_nextLid (s : State) (c : Nat) (t : Thread) : (s.setThread c t).nextLid = s.nextLid := rfl
@[simp] theorem State.setThread_mem (s : State) (c : Nat) (t : Thread) : (s.setThread c t).mem = s.mem := rfl
@[simp] theorem State.setThread_front (s : State) (c : Nat) (t : Thread) : (s.setThread c t).front = s.front := rfl
@[simp] theorem State.setThread_fabric (s : State) (c : Nat) (t : Thread) : (s.setThread c t).fabric = s.fabric := rfl
@[simp] theorem State.setThread_parts (s : State) (c : Nat) (t : Thread) : (s.setThread c t).parts = s.parts := rfl
@[simp] theorem State.setThread_errs (s : State) (c : Nat) (t : Thread) : (s.setThread c t).errs = s.errs := rfl
@[simp] theorem State.setThread_fw (s : State) (c : Nat) (t : Thread) : (s.setThread c t).fw = s.fw := rfl
@[simp] theorem State.setThread_shadow (s : State) (c : Nat) (t : Thread) : (s.setThread c t).shadow = s.shadow := rfl
@[simp] theorem State.setThread_shadowWas (s : State) (c : Nat) (t : Thread) : (s.setThread c t).shadowWas = s.shadowWas := rfl
@[simp] theorem State.setThread_migThresh (s : State) (c : Nat) (t : Thread) : (s.setThread c t).migThresh = s.migThresh := rfl
@[simp] theorem State.setThread_qIdle (s : State) (c : Nat) (t : Thread) : (s.setThread c t).qIdle = s.qIdle := rfl
@[simp] theorem State.setThread_wgTimer (s : State) (c : Nat) (t : Thread) : (s.setThread c t).wgTimer = s.wgTimer := rfl

@[simp] theorem State.updThread_cur (s : State) (c lid tid : Nat) (f : Thread → Thread) : (s.updThread c lid tid f).cur = s.cur := rfl
@[simp] theorem State.updThread_agenda (s : State) (c lid tid : Nat) (f : Thread → Thread) : (s.updThread c lid tid f).agenda = s.agenda := rfl
@[simp] theorem State.updThread_tick (s : State) (c lid tid : Nat) (f : Thread → Thread) : (s.updThread c lid tid f).tick = s.tick := rfl
@[simp] theorem State.updThread_cycles (s : State) (c lid tid : Nat) (f : Thread → Thread) : (s.updThread c lid tid f).cycles = s.cycles := rfl
@[simp] theorem State.updThread_phase (s : State) (c lid tid : Nat) (f : Thread → Thread) : (s.updThread c lid tid f).phase = s.phase := rfl
@[simp] theorem State.updThread_nanos (s : State) (c lid tid : Nat) (f : Thread → Thread) : (s.updThread c lid tid f).nanos = s.nanos := rfl
@[simp] theorem State.updThread_launches (s : State) (c lid tid : Nat) (f : Thread → Thread) : (s.updThread c lid tid f).launches = s.launches := rfl
@[simp] theorem State.updThread_nextLid (s : State) (c lid tid : Nat) (f : Thread → Thread) : (s.updThread c lid tid f).nextLid = s.nextLid := rfl
@[simp] theorem State.updThread_mem (s : State) (c lid tid : Nat) (f : Thread → Thread) : (s.updThread c lid tid f).mem = s.mem := rfl
@[simp] theorem State.updThread_front (s : State) (c lid tid : Nat) (f : Thread → Thread) : (s.updThread c lid tid f).front = s.front := rfl
@[simp] theorem State.updThread_fabric (s : State) (c lid tid : Nat) (f : Thread → Thread) : (s.updThread c lid tid f).fabric = s.fabric := rfl
@[simp] theorem State.updThread_parts (s : State) (c lid tid : Nat) (f : Thread → Thread) : (s.updThread c lid tid f).parts = s.parts := rfl
@[simp] theorem State.updThread_errs (s : State) (c lid tid : Nat) (f : Thread → Thread) : (s.updThread c lid tid f).errs = s.errs := rfl
@[simp] theorem State.updThread_fw (s : State) (c lid tid : Nat) (f : Thread → Thread) : (s.updThread c lid tid f).fw = s.fw := rfl
@[simp] theorem State.updThread_shadow (s : State) (c lid tid : Nat) (f : Thread → Thread) : (s.updThread c lid tid f).shadow = s.shadow := rfl
@[simp] theorem State.updThread_shadowWas (s : State) (c lid tid : Nat) (f : Thread → Thread) : (s.updThread c lid tid f).shadowWas = s.shadowWas := rfl
@[simp] theorem State.updThread_migThresh (s : State) (c lid tid : Nat) (f : Thread → Thread) : (s.updThread c lid tid f).migThresh = s.migThresh := rfl
@[simp] theorem State.updThread_qIdle (s : State) (c lid tid : Nat) (f : Thread → Thread) : (s.updThread c lid tid f).qIdle = s.qIdle := rfl
@[simp] theorem State.updThread_wgTimer (s : State) (c lid tid : Nat) (f : Thread → Thread) : (s.updThread c lid tid f).wgTimer = s.wgTimer := rfl

@[simp] theorem State.updRes_cur (s : State) (c lid : Nat) (f : Res → Res) : (s.updRes c lid f).cur = s.cur := rfl
@[simp] theorem State.updRes_agenda (s : State) (c lid : Nat) (f : Res → Res) : (s.updRes c lid f).agenda = s.agenda := rfl
@[simp] theorem State.updRes_tick (s : State) (c lid : Nat) (f : Res → Res) : (s.updRes c lid f).tick = s.tick := rfl
@[simp] theorem State.updRes_cycles (s : State) (c lid : Nat) (f : Res → Res) : (s.updRes c lid f).cycles = s.cycles := rfl
@[simp] theorem State.updRes_phase (s : State) (c lid : Nat) (f : Res → Res) : (s.updRes c lid f).phase = s.phase := rfl
@[simp] theorem State.updRes_nanos (s : State) (c lid : Nat) (f : Res → Res) : (s.updRes c lid f).nanos = s.nanos := rfl
@[simp] theorem State.updRes_launches (s : State) (c lid : Nat) (f : Res → Res) : (s.updRes c lid f).launches = s.launches := rfl
@[simp] theorem State.updRes_nextLid (s : State) (c lid : Nat) (f : Res → Res) : (s.updRes c lid f).nextLid = s.nextLid := rfl
@[simp] theorem State.updRes_mem (s : State) (c lid : Nat) (f : Res → Res) : (s.updRes c lid f).mem = s.mem := rfl
@[simp] theorem State.updRes_front (s : State) (c lid : Nat) (f : Res → Res) : (s.updRes c lid f).front = s.front := rfl
@[simp] theorem State.updRes_fabric (s : State) (c lid : Nat) (f : Res → Res) : (s.updRes c lid f).fabric = s.fabric := rfl
@[simp] theorem State.updRes_parts (s : State) (c lid : Nat) (f : Res → Res) : (s.updRes c lid f).parts = s.parts := rfl
@[simp] theorem State.updRes_errs (s : State) (c lid : Nat) (f : Res → Res) : (s.updRes c lid f).errs = s.errs := rfl
@[simp] theorem State.updRes_fw (s : State) (c lid : Nat) (f : Res → Res) : (s.updRes c lid f).fw = s.fw := rfl
@[simp] theorem State.updRes_shadow (s : State) (c lid : Nat) (f : Res → Res) : (s.updRes c lid f).shadow = s.shadow := rfl
@[simp] theorem State.updRes_shadowWas (s : State) (c lid : Nat) (f : Res → Res) : (s.updRes c lid f).shadowWas = s.shadowWas := rfl
@[simp] theorem State.updRes_migThresh (s : State) (c lid : Nat) (f : Res → Res) : (s.updRes c lid f).migThresh = s.migThresh := rfl
@[simp] theorem State.updRes_qIdle (s : State) (c lid : Nat) (f : Res → Res) : (s.updRes c lid f).qIdle = s.qIdle := rfl
@[simp] theorem State.updRes_wgTimer (s : State) (c lid : Nat) (f : Res → Res) : (s.updRes c lid f).wgTimer = s.wgTimer := rfl

@[simp] theorem State.setQuad_cur (s : State) (c q : Nat) (v : Quad) : (s.setQuad c q v).cur = s.cur := rfl
@[simp] theorem State.setQuad_agenda (s : State) (c q : Nat) (v : Quad) : (s.setQuad c q v).agenda = s.agenda := rfl
@[simp] theorem State.setQuad_tick (s : State) (c q : Nat) (v : Quad) : (s.setQuad c q v).tick = s.tick := rfl
@[simp] theorem State.setQuad_cycles (s : State) (c q : Nat) (v : Quad) : (s.setQuad c q v).cycles = s.cycles := rfl
@[simp] theorem State.setQuad_phase (s : State) (c q : Nat) (v : Quad) : (s.setQuad c q v).phase = s.phase := rfl
@[simp] theorem State.setQuad_nanos (s : State) (c q : Nat) (v : Quad) : (s.setQuad c q v).nanos = s.nanos := rfl
@[simp] theorem State.setQuad_launches (s : State) (c q : Nat) (v : Quad) : (s.setQuad c q v).launches = s.launches := rfl
@[simp] theorem State.setQuad_nextLid (s : State) (c q : Nat) (v : Quad) : (s.setQuad c q v).nextLid = s.nextLid := rfl
@[simp] theorem State.setQuad_mem (s : State) (c q : Nat) (v : Quad) : (s.setQuad c q v).mem = s.mem := rfl
@[simp] theorem State.setQuad_front (s : State) (c q : Nat) (v : Quad) : (s.setQuad c q v).front = s.front := rfl
@[simp] theorem State.setQuad_fabric (s : State) (c q : Nat) (v : Quad) : (s.setQuad c q v).fabric = s.fabric := rfl
@[simp] theorem State.setQuad_parts (s : State) (c q : Nat) (v : Quad) : (s.setQuad c q v).parts = s.parts := rfl
@[simp] theorem State.setQuad_errs (s : State) (c q : Nat) (v : Quad) : (s.setQuad c q v).errs = s.errs := rfl
@[simp] theorem State.setQuad_fw (s : State) (c q : Nat) (v : Quad) : (s.setQuad c q v).fw = s.fw := rfl
@[simp] theorem State.setQuad_shadow (s : State) (c q : Nat) (v : Quad) : (s.setQuad c q v).shadow = s.shadow := rfl
@[simp] theorem State.setQuad_shadowWas (s : State) (c q : Nat) (v : Quad) : (s.setQuad c q v).shadowWas = s.shadowWas := rfl
@[simp] theorem State.setQuad_migThresh (s : State) (c q : Nat) (v : Quad) : (s.setQuad c q v).migThresh = s.migThresh := rfl
@[simp] theorem State.setQuad_qIdle (s : State) (c q : Nat) (v : Quad) : (s.setQuad c q v).qIdle = s.qIdle := rfl
@[simp] theorem State.setQuad_wgTimer (s : State) (c q : Nat) (v : Quad) : (s.setQuad c q v).wgTimer = s.wgTimer := rfl

@[simp] theorem State.updLaunch_cur (s : State) (lid : Nat) (f : Launch → Launch) : (s.updLaunch lid f).cur = s.cur := rfl
@[simp] theorem State.updLaunch_agenda (s : State) (lid : Nat) (f : Launch → Launch) : (s.updLaunch lid f).agenda = s.agenda := rfl
@[simp] theorem State.updLaunch_tick (s : State) (lid : Nat) (f : Launch → Launch) : (s.updLaunch lid f).tick = s.tick := rfl
@[simp] theorem State.updLaunch_cycles (s : State) (lid : Nat) (f : Launch → Launch) : (s.updLaunch lid f).cycles = s.cycles := rfl
@[simp] theorem State.updLaunch_phase (s : State) (lid : Nat) (f : Launch → Launch) : (s.updLaunch lid f).phase = s.phase := rfl
@[simp] theorem State.updLaunch_nanos (s : State) (lid : Nat) (f : Launch → Launch) : (s.updLaunch lid f).nanos = s.nanos := rfl
@[simp] theorem State.updLaunch_cores (s : State) (lid : Nat) (f : Launch → Launch) : (s.updLaunch lid f).cores = s.cores := rfl
@[simp] theorem State.updLaunch_nextLid (s : State) (lid : Nat) (f : Launch → Launch) : (s.updLaunch lid f).nextLid = s.nextLid := rfl
@[simp] theorem State.updLaunch_mem (s : State) (lid : Nat) (f : Launch → Launch) : (s.updLaunch lid f).mem = s.mem := rfl
@[simp] theorem State.updLaunch_front (s : State) (lid : Nat) (f : Launch → Launch) : (s.updLaunch lid f).front = s.front := rfl
@[simp] theorem State.updLaunch_fabric (s : State) (lid : Nat) (f : Launch → Launch) : (s.updLaunch lid f).fabric = s.fabric := rfl
@[simp] theorem State.updLaunch_parts (s : State) (lid : Nat) (f : Launch → Launch) : (s.updLaunch lid f).parts = s.parts := rfl
@[simp] theorem State.updLaunch_errs (s : State) (lid : Nat) (f : Launch → Launch) : (s.updLaunch lid f).errs = s.errs := rfl
@[simp] theorem State.updLaunch_fw (s : State) (lid : Nat) (f : Launch → Launch) : (s.updLaunch lid f).fw = s.fw := rfl
@[simp] theorem State.updLaunch_shadow (s : State) (lid : Nat) (f : Launch → Launch) : (s.updLaunch lid f).shadow = s.shadow := rfl
@[simp] theorem State.updLaunch_shadowWas (s : State) (lid : Nat) (f : Launch → Launch) : (s.updLaunch lid f).shadowWas = s.shadowWas := rfl
@[simp] theorem State.updLaunch_migThresh (s : State) (lid : Nat) (f : Launch → Launch) : (s.updLaunch lid f).migThresh = s.migThresh := rfl
@[simp] theorem State.updLaunch_qIdle (s : State) (lid : Nat) (f : Launch → Launch) : (s.updLaunch lid f).qIdle = s.qIdle := rfl
@[simp] theorem State.updLaunch_wgTimer (s : State) (lid : Nat) (f : Launch → Launch) : (s.updLaunch lid f).wgTimer = s.wgTimer := rfl

@[simp] theorem State.setReg_cur (s : State) (off : Nat) (v : Word) : (s.setReg off v).cur = s.cur := rfl
@[simp] theorem State.setReg_agenda (s : State) (off : Nat) (v : Word) : (s.setReg off v).agenda = s.agenda := rfl
@[simp] theorem State.setReg_tick (s : State) (off : Nat) (v : Word) : (s.setReg off v).tick = s.tick := rfl
@[simp] theorem State.setReg_cycles (s : State) (off : Nat) (v : Word) : (s.setReg off v).cycles = s.cycles := rfl
@[simp] theorem State.setReg_phase (s : State) (off : Nat) (v : Word) : (s.setReg off v).phase = s.phase := rfl
@[simp] theorem State.setReg_nanos (s : State) (off : Nat) (v : Word) : (s.setReg off v).nanos = s.nanos := rfl
@[simp] theorem State.setReg_cores (s : State) (off : Nat) (v : Word) : (s.setReg off v).cores = s.cores := rfl
@[simp] theorem State.setReg_launches (s : State) (off : Nat) (v : Word) : (s.setReg off v).launches = s.launches := rfl
@[simp] theorem State.setReg_nextLid (s : State) (off : Nat) (v : Word) : (s.setReg off v).nextLid = s.nextLid := rfl
@[simp] theorem State.setReg_mem (s : State) (off : Nat) (v : Word) : (s.setReg off v).mem = s.mem := rfl
@[simp] theorem State.setReg_fabric (s : State) (off : Nat) (v : Word) : (s.setReg off v).fabric = s.fabric := rfl
@[simp] theorem State.setReg_parts (s : State) (off : Nat) (v : Word) : (s.setReg off v).parts = s.parts := rfl
@[simp] theorem State.setReg_errs (s : State) (off : Nat) (v : Word) : (s.setReg off v).errs = s.errs := rfl
@[simp] theorem State.setReg_fw (s : State) (off : Nat) (v : Word) : (s.setReg off v).fw = s.fw := rfl
@[simp] theorem State.setReg_shadow (s : State) (off : Nat) (v : Word) : (s.setReg off v).shadow = s.shadow := rfl
@[simp] theorem State.setReg_shadowWas (s : State) (off : Nat) (v : Word) : (s.setReg off v).shadowWas = s.shadowWas := rfl
@[simp] theorem State.setReg_migThresh (s : State) (off : Nat) (v : Word) : (s.setReg off v).migThresh = s.migThresh := rfl
@[simp] theorem State.setReg_qIdle (s : State) (off : Nat) (v : Word) : (s.setReg off v).qIdle = s.qIdle := rfl
@[simp] theorem State.setReg_wgTimer (s : State) (off : Nat) (v : Word) : (s.setReg off v).wgTimer = s.wgTimer := rfl

@[simp] theorem State.emit_cur (s : State) (o : Out) : (s.emit o).cur = s.cur := rfl
@[simp] theorem State.emit_agenda (s : State) (o : Out) : (s.emit o).agenda = s.agenda := rfl
@[simp] theorem State.emit_tick (s : State) (o : Out) : (s.emit o).tick = s.tick := rfl
@[simp] theorem State.emit_cycles (s : State) (o : Out) : (s.emit o).cycles = s.cycles := rfl
@[simp] theorem State.emit_phase (s : State) (o : Out) : (s.emit o).phase = s.phase := rfl
@[simp] theorem State.emit_nanos (s : State) (o : Out) : (s.emit o).nanos = s.nanos := rfl
@[simp] theorem State.emit_cores (s : State) (o : Out) : (s.emit o).cores = s.cores := rfl
@[simp] theorem State.emit_launches (s : State) (o : Out) : (s.emit o).launches = s.launches := rfl
@[simp] theorem State.emit_nextLid (s : State) (o : Out) : (s.emit o).nextLid = s.nextLid := rfl
@[simp] theorem State.emit_mem (s : State) (o : Out) : (s.emit o).mem = s.mem := rfl
@[simp] theorem State.emit_front (s : State) (o : Out) : (s.emit o).front = s.front := rfl
@[simp] theorem State.emit_parts (s : State) (o : Out) : (s.emit o).parts = s.parts := rfl
@[simp] theorem State.emit_errs (s : State) (o : Out) : (s.emit o).errs = s.errs := rfl
@[simp] theorem State.emit_fw (s : State) (o : Out) : (s.emit o).fw = s.fw := rfl
@[simp] theorem State.emit_shadow (s : State) (o : Out) : (s.emit o).shadow = s.shadow := rfl
@[simp] theorem State.emit_shadowWas (s : State) (o : Out) : (s.emit o).shadowWas = s.shadowWas := rfl
@[simp] theorem State.emit_migThresh (s : State) (o : Out) : (s.emit o).migThresh = s.migThresh := rfl
@[simp] theorem State.emit_qIdle (s : State) (o : Out) : (s.emit o).qIdle = s.qIdle := rfl
@[simp] theorem State.emit_wgTimer (s : State) (o : Out) : (s.emit o).wgTimer = s.wgTimer := rfl

@[simp] theorem State.setFq_cur (s : State) (q : Nat) (v : Fq) : (s.setFq q v).cur = s.cur := rfl
@[simp] theorem State.setFq_agenda (s : State) (q : Nat) (v : Fq) : (s.setFq q v).agenda = s.agenda := rfl
@[simp] theorem State.setFq_tick (s : State) (q : Nat) (v : Fq) : (s.setFq q v).tick = s.tick := rfl
@[simp] theorem State.setFq_cycles (s : State) (q : Nat) (v : Fq) : (s.setFq q v).cycles = s.cycles := rfl
@[simp] theorem State.setFq_phase (s : State) (q : Nat) (v : Fq) : (s.setFq q v).phase = s.phase := rfl
@[simp] theorem State.setFq_nanos (s : State) (q : Nat) (v : Fq) : (s.setFq q v).nanos = s.nanos := rfl
@[simp] theorem State.setFq_cores (s : State) (q : Nat) (v : Fq) : (s.setFq q v).cores = s.cores := rfl
@[simp] theorem State.setFq_launches (s : State) (q : Nat) (v : Fq) : (s.setFq q v).launches = s.launches := rfl
@[simp] theorem State.setFq_nextLid (s : State) (q : Nat) (v : Fq) : (s.setFq q v).nextLid = s.nextLid := rfl
@[simp] theorem State.setFq_mem (s : State) (q : Nat) (v : Fq) : (s.setFq q v).mem = s.mem := rfl
@[simp] theorem State.setFq_front (s : State) (q : Nat) (v : Fq) : (s.setFq q v).front = s.front := rfl
@[simp] theorem State.setFq_parts (s : State) (q : Nat) (v : Fq) : (s.setFq q v).parts = s.parts := rfl
@[simp] theorem State.setFq_errs (s : State) (q : Nat) (v : Fq) : (s.setFq q v).errs = s.errs := rfl
@[simp] theorem State.setFq_fw (s : State) (q : Nat) (v : Fq) : (s.setFq q v).fw = s.fw := rfl
@[simp] theorem State.setFq_shadow (s : State) (q : Nat) (v : Fq) : (s.setFq q v).shadow = s.shadow := rfl
@[simp] theorem State.setFq_shadowWas (s : State) (q : Nat) (v : Fq) : (s.setFq q v).shadowWas = s.shadowWas := rfl
@[simp] theorem State.setFq_migThresh (s : State) (q : Nat) (v : Fq) : (s.setFq q v).migThresh = s.migThresh := rfl
@[simp] theorem State.setFq_qIdle (s : State) (q : Nat) (v : Fq) : (s.setFq q v).qIdle = s.qIdle := rfl
@[simp] theorem State.setFq_wgTimer (s : State) (q : Nat) (v : Fq) : (s.setFq q v).wgTimer = s.wgTimer := rfl

@[simp] theorem State.setFront_cur (s : State) (f : Front → Front) : (s.setFront f).cur = s.cur := rfl
@[simp] theorem State.setFront_agenda (s : State) (f : Front → Front) : (s.setFront f).agenda = s.agenda := rfl
@[simp] theorem State.setFront_tick (s : State) (f : Front → Front) : (s.setFront f).tick = s.tick := rfl
@[simp] theorem State.setFront_cycles (s : State) (f : Front → Front) : (s.setFront f).cycles = s.cycles := rfl
@[simp] theorem State.setFront_phase (s : State) (f : Front → Front) : (s.setFront f).phase = s.phase := rfl
@[simp] theorem State.setFront_nanos (s : State) (f : Front → Front) : (s.setFront f).nanos = s.nanos := rfl
@[simp] theorem State.setFront_cores (s : State) (f : Front → Front) : (s.setFront f).cores = s.cores := rfl
@[simp] theorem State.setFront_launches (s : State) (f : Front → Front) : (s.setFront f).launches = s.launches := rfl
@[simp] theorem State.setFront_nextLid (s : State) (f : Front → Front) : (s.setFront f).nextLid = s.nextLid := rfl
@[simp] theorem State.setFront_mem (s : State) (f : Front → Front) : (s.setFront f).mem = s.mem := rfl
@[simp] theorem State.setFront_fabric (s : State) (f : Front → Front) : (s.setFront f).fabric = s.fabric := rfl
@[simp] theorem State.setFront_parts (s : State) (f : Front → Front) : (s.setFront f).parts = s.parts := rfl
@[simp] theorem State.setFront_errs (s : State) (f : Front → Front) : (s.setFront f).errs = s.errs := rfl
@[simp] theorem State.setFront_fw (s : State) (f : Front → Front) : (s.setFront f).fw = s.fw := rfl
@[simp] theorem State.setFront_shadow (s : State) (f : Front → Front) : (s.setFront f).shadow = s.shadow := rfl
@[simp] theorem State.setFront_shadowWas (s : State) (f : Front → Front) : (s.setFront f).shadowWas = s.shadowWas := rfl
@[simp] theorem State.setFront_migThresh (s : State) (f : Front → Front) : (s.setFront f).migThresh = s.migThresh := rfl
@[simp] theorem State.setFront_qIdle (s : State) (f : Front → Front) : (s.setFront f).qIdle = s.qIdle := rfl
@[simp] theorem State.setFront_wgTimer (s : State) (f : Front → Front) : (s.setFront f).wgTimer = s.wgTimer := rfl

@[simp] theorem State.setFab_cur (s : State) (f : Fabric → Fabric) : (s.setFab f).cur = s.cur := rfl
@[simp] theorem State.setFab_agenda (s : State) (f : Fabric → Fabric) : (s.setFab f).agenda = s.agenda := rfl
@[simp] theorem State.setFab_tick (s : State) (f : Fabric → Fabric) : (s.setFab f).tick = s.tick := rfl
@[simp] theorem State.setFab_cycles (s : State) (f : Fabric → Fabric) : (s.setFab f).cycles = s.cycles := rfl
@[simp] theorem State.setFab_phase (s : State) (f : Fabric → Fabric) : (s.setFab f).phase = s.phase := rfl
@[simp] theorem State.setFab_nanos (s : State) (f : Fabric → Fabric) : (s.setFab f).nanos = s.nanos := rfl
@[simp] theorem State.setFab_cores (s : State) (f : Fabric → Fabric) : (s.setFab f).cores = s.cores := rfl
@[simp] theorem State.setFab_launches (s : State) (f : Fabric → Fabric) : (s.setFab f).launches = s.launches := rfl
@[simp] theorem State.setFab_nextLid (s : State) (f : Fabric → Fabric) : (s.setFab f).nextLid = s.nextLid := rfl
@[simp] theorem State.setFab_mem (s : State) (f : Fabric → Fabric) : (s.setFab f).mem = s.mem := rfl
@[simp] theorem State.setFab_front (s : State) (f : Fabric → Fabric) : (s.setFab f).front = s.front := rfl
@[simp] theorem State.setFab_parts (s : State) (f : Fabric → Fabric) : (s.setFab f).parts = s.parts := rfl
@[simp] theorem State.setFab_errs (s : State) (f : Fabric → Fabric) : (s.setFab f).errs = s.errs := rfl
@[simp] theorem State.setFab_fw (s : State) (f : Fabric → Fabric) : (s.setFab f).fw = s.fw := rfl
@[simp] theorem State.setFab_shadow (s : State) (f : Fabric → Fabric) : (s.setFab f).shadow = s.shadow := rfl
@[simp] theorem State.setFab_shadowWas (s : State) (f : Fabric → Fabric) : (s.setFab f).shadowWas = s.shadowWas := rfl
@[simp] theorem State.setFab_migThresh (s : State) (f : Fabric → Fabric) : (s.setFab f).migThresh = s.migThresh := rfl
@[simp] theorem State.setFab_qIdle (s : State) (f : Fabric → Fabric) : (s.setFab f).qIdle = s.qIdle := rfl
@[simp] theorem State.setFab_wgTimer (s : State) (f : Fabric → Fabric) : (s.setFab f).wgTimer = s.wgTimer := rfl

@[simp] theorem State.setErrs_cur (s : State) (f : Errs → Errs) : (s.setErrs f).cur = s.cur := rfl
@[simp] theorem State.setErrs_agenda (s : State) (f : Errs → Errs) : (s.setErrs f).agenda = s.agenda := rfl
@[simp] theorem State.setErrs_tick (s : State) (f : Errs → Errs) : (s.setErrs f).tick = s.tick := rfl
@[simp] theorem State.setErrs_cycles (s : State) (f : Errs → Errs) : (s.setErrs f).cycles = s.cycles := rfl
@[simp] theorem State.setErrs_phase (s : State) (f : Errs → Errs) : (s.setErrs f).phase = s.phase := rfl
@[simp] theorem State.setErrs_nanos (s : State) (f : Errs → Errs) : (s.setErrs f).nanos = s.nanos := rfl
@[simp] theorem State.setErrs_cores (s : State) (f : Errs → Errs) : (s.setErrs f).cores = s.cores := rfl
@[simp] theorem State.setErrs_launches (s : State) (f : Errs → Errs) : (s.setErrs f).launches = s.launches := rfl
@[simp] theorem State.setErrs_nextLid (s : State) (f : Errs → Errs) : (s.setErrs f).nextLid = s.nextLid := rfl
@[simp] theorem State.setErrs_mem (s : State) (f : Errs → Errs) : (s.setErrs f).mem = s.mem := rfl
@[simp] theorem State.setErrs_front (s : State) (f : Errs → Errs) : (s.setErrs f).front = s.front := rfl
@[simp] theorem State.setErrs_fabric (s : State) (f : Errs → Errs) : (s.setErrs f).fabric = s.fabric := rfl
@[simp] theorem State.setErrs_parts (s : State) (f : Errs → Errs) : (s.setErrs f).parts = s.parts := rfl
@[simp] theorem State.setErrs_fw (s : State) (f : Errs → Errs) : (s.setErrs f).fw = s.fw := rfl
@[simp] theorem State.setErrs_shadow (s : State) (f : Errs → Errs) : (s.setErrs f).shadow = s.shadow := rfl
@[simp] theorem State.setErrs_shadowWas (s : State) (f : Errs → Errs) : (s.setErrs f).shadowWas = s.shadowWas := rfl
@[simp] theorem State.setErrs_migThresh (s : State) (f : Errs → Errs) : (s.setErrs f).migThresh = s.migThresh := rfl
@[simp] theorem State.setErrs_qIdle (s : State) (f : Errs → Errs) : (s.setErrs f).qIdle = s.qIdle := rfl
@[simp] theorem State.setErrs_wgTimer (s : State) (f : Errs → Errs) : (s.setErrs f).wgTimer = s.wgTimer := rfl

@[simp] theorem State.setFw_cur (s : State) (f : Fw → Fw) : (s.setFw f).cur = s.cur := rfl
@[simp] theorem State.setFw_agenda (s : State) (f : Fw → Fw) : (s.setFw f).agenda = s.agenda := rfl
@[simp] theorem State.setFw_tick (s : State) (f : Fw → Fw) : (s.setFw f).tick = s.tick := rfl
@[simp] theorem State.setFw_cycles (s : State) (f : Fw → Fw) : (s.setFw f).cycles = s.cycles := rfl
@[simp] theorem State.setFw_phase (s : State) (f : Fw → Fw) : (s.setFw f).phase = s.phase := rfl
@[simp] theorem State.setFw_nanos (s : State) (f : Fw → Fw) : (s.setFw f).nanos = s.nanos := rfl
@[simp] theorem State.setFw_cores (s : State) (f : Fw → Fw) : (s.setFw f).cores = s.cores := rfl
@[simp] theorem State.setFw_launches (s : State) (f : Fw → Fw) : (s.setFw f).launches = s.launches := rfl
@[simp] theorem State.setFw_nextLid (s : State) (f : Fw → Fw) : (s.setFw f).nextLid = s.nextLid := rfl
@[simp] theorem State.setFw_mem (s : State) (f : Fw → Fw) : (s.setFw f).mem = s.mem := rfl
@[simp] theorem State.setFw_front (s : State) (f : Fw → Fw) : (s.setFw f).front = s.front := rfl
@[simp] theorem State.setFw_fabric (s : State) (f : Fw → Fw) : (s.setFw f).fabric = s.fabric := rfl
@[simp] theorem State.setFw_parts (s : State) (f : Fw → Fw) : (s.setFw f).parts = s.parts := rfl
@[simp] theorem State.setFw_errs (s : State) (f : Fw → Fw) : (s.setFw f).errs = s.errs := rfl
@[simp] theorem State.setFw_shadow (s : State) (f : Fw → Fw) : (s.setFw f).shadow = s.shadow := rfl
@[simp] theorem State.setFw_shadowWas (s : State) (f : Fw → Fw) : (s.setFw f).shadowWas = s.shadowWas := rfl
@[simp] theorem State.setFw_migThresh (s : State) (f : Fw → Fw) : (s.setFw f).migThresh = s.migThresh := rfl
@[simp] theorem State.setFw_qIdle (s : State) (f : Fw → Fw) : (s.setFw f).qIdle = s.qIdle := rfl
@[simp] theorem State.setFw_wgTimer (s : State) (f : Fw → Fw) : (s.setFw f).wgTimer = s.wgTimer := rfl

@[simp] theorem State.updPart_cur (s : State) (n : Nat) (f : PartSt → PartSt) : (s.updPart n f).cur = s.cur := rfl
@[simp] theorem State.updPart_agenda (s : State) (n : Nat) (f : PartSt → PartSt) : (s.updPart n f).agenda = s.agenda := rfl
@[simp] theorem State.updPart_tick (s : State) (n : Nat) (f : PartSt → PartSt) : (s.updPart n f).tick = s.tick := rfl
@[simp] theorem State.updPart_cycles (s : State) (n : Nat) (f : PartSt → PartSt) : (s.updPart n f).cycles = s.cycles := rfl
@[simp] theorem State.updPart_phase (s : State) (n : Nat) (f : PartSt → PartSt) : (s.updPart n f).phase = s.phase := rfl
@[simp] theorem State.updPart_nanos (s : State) (n : Nat) (f : PartSt → PartSt) : (s.updPart n f).nanos = s.nanos := rfl
@[simp] theorem State.updPart_cores (s : State) (n : Nat) (f : PartSt → PartSt) : (s.updPart n f).cores = s.cores := rfl
@[simp] theorem State.updPart_launches (s : State) (n : Nat) (f : PartSt → PartSt) : (s.updPart n f).launches = s.launches := rfl
@[simp] theorem State.updPart_nextLid (s : State) (n : Nat) (f : PartSt → PartSt) : (s.updPart n f).nextLid = s.nextLid := rfl
@[simp] theorem State.updPart_mem (s : State) (n : Nat) (f : PartSt → PartSt) : (s.updPart n f).mem = s.mem := rfl
@[simp] theorem State.updPart_front (s : State) (n : Nat) (f : PartSt → PartSt) : (s.updPart n f).front = s.front := rfl
@[simp] theorem State.updPart_fabric (s : State) (n : Nat) (f : PartSt → PartSt) : (s.updPart n f).fabric = s.fabric := rfl
@[simp] theorem State.updPart_errs (s : State) (n : Nat) (f : PartSt → PartSt) : (s.updPart n f).errs = s.errs := rfl
@[simp] theorem State.updPart_fw (s : State) (n : Nat) (f : PartSt → PartSt) : (s.updPart n f).fw = s.fw := rfl
@[simp] theorem State.updPart_shadow (s : State) (n : Nat) (f : PartSt → PartSt) : (s.updPart n f).shadow = s.shadow := rfl
@[simp] theorem State.updPart_shadowWas (s : State) (n : Nat) (f : PartSt → PartSt) : (s.updPart n f).shadowWas = s.shadowWas := rfl
@[simp] theorem State.updPart_migThresh (s : State) (n : Nat) (f : PartSt → PartSt) : (s.updPart n f).migThresh = s.migThresh := rfl
@[simp] theorem State.updPart_qIdle (s : State) (n : Nat) (f : PartSt → PartSt) : (s.updPart n f).qIdle = s.qIdle := rfl
@[simp] theorem State.updPart_wgTimer (s : State) (n : Nat) (f : PartSt → PartSt) : (s.updPart n f).wgTimer = s.wgTimer := rfl

@[simp] theorem State.advance_cur (s : State) : (s.advance).cur = s.cur := rfl
@[simp] theorem State.advance_agenda (s : State) : (s.advance).agenda = s.agenda := rfl
@[simp] theorem State.advance_cores (s : State) : (s.advance).cores = s.cores := rfl
@[simp] theorem State.advance_launches (s : State) : (s.advance).launches = s.launches := rfl
@[simp] theorem State.advance_nextLid (s : State) : (s.advance).nextLid = s.nextLid := rfl
@[simp] theorem State.advance_mem (s : State) : (s.advance).mem = s.mem := rfl
@[simp] theorem State.advance_front (s : State) : (s.advance).front = s.front := rfl
@[simp] theorem State.advance_fabric (s : State) : (s.advance).fabric = s.fabric := rfl
@[simp] theorem State.advance_parts (s : State) : (s.advance).parts = s.parts := rfl
@[simp] theorem State.advance_errs (s : State) : (s.advance).errs = s.errs := rfl
@[simp] theorem State.advance_fw (s : State) : (s.advance).fw = s.fw := rfl
@[simp] theorem State.advance_shadow (s : State) : (s.advance).shadow = s.shadow := rfl
@[simp] theorem State.advance_shadowWas (s : State) : (s.advance).shadowWas = s.shadowWas := rfl
@[simp] theorem State.advance_migThresh (s : State) : (s.advance).migThresh = s.migThresh := rfl
@[simp] theorem State.advance_qIdle (s : State) : (s.advance).qIdle = s.qIdle := rfl
@[simp] theorem State.advance_wgTimer (s : State) : (s.advance).wgTimer = s.wgTimer := rfl

/-! ### Reading after an update -/

theorem State.core_setCore (s : State) (c d : Nat) (v : Core) :
    (s.setCore c v).core d = if d = c then v else s.core d := Tab.getD_set s.cores c d v Core.empty

@[simp] theorem State.core_updCore_self (s : State) (c : Nat) (f : Core → Core) :
    (s.updCore c f).core c = f (s.core c) := by simp [State.updCore, State.core_setCore]

theorem State.core_updCore_ne (s : State) {c d : Nat} (f : Core → Core) (h : d ≠ c) :
    (s.updCore c f).core d = s.core d := by simp [State.updCore, State.core_setCore, h]

theorem State.core_of_cores {s t : State} (h : t.cores = s.cores) (c : Nat) : t.core c = s.core c := by
  simp only [State.core, h]
theorem State.agentD_of_cores {s t : State} (h : t.cores = s.cores) (r : AgentRef) : t.agentD r = s.agentD r := by
  simp only [State.agentD, State.core_of_cores h]
theorem State.launchD_of_launches {s t : State} (h : t.launches = s.launches) (lid : Nat) :
    t.launchD lid = s.launchD lid := by simp only [State.launchD, h]
theorem State.reg_of_front {s t : State} (h : t.front = s.front) (off : Nat) : t.reg off = s.reg off := by
  simp only [State.reg, h]

@[simp] theorem State.launchD_updCore (s : State) (c : Nat) (f : Core → Core) (lid : Nat) :
    (s.updCore c f).launchD lid = s.launchD lid := rfl
@[simp] theorem State.launchD_updAgent (s : State) (r : AgentRef) (f : Agent → Agent) (lid : Nat) :
    (s.updAgent r f).launchD lid = s.launchD lid := rfl
@[simp] theorem State.launchD_updThread (s : State) (c l t : Nat) (f : Thread → Thread) (lid : Nat) :
    (s.updThread c l t f).launchD lid = s.launchD lid := rfl
@[simp] theorem State.launchD_updRes (s : State) (c l : Nat) (f : Res → Res) (lid : Nat) :
    (s.updRes c l f).launchD lid = s.launchD lid := rfl

/-- An agent that is there takes an update. -/
theorem State.agent?_updAgent (s : State) (r : AgentRef) (f : Agent → Agent) :
    (s.updAgent r f).agent? r = (s.agent? r).map f := by
  simp [State.updAgent, State.agent?, Tab.get?_upd]

theorem State.agentD_updAgent (s : State) (r : AgentRef) (f : Agent → Agent) {a : Agent} (h : s.agent? r = some a) :
    (s.updAgent r f).agentD r = f a := by
  have h' := State.agent?_updAgent s r f
  simp only [State.agent?, State.agentD, Tab.getD] at *
  simp [h', h]

theorem State.agentD_of_agent? (s : State) (r : AgentRef) {a : Agent} (h : s.agent? r = some a) : s.agentD r = a := by
  simp only [State.agent?, State.agentD, Tab.getD] at *
  simp [h]

/-- Another agent is untouched. -/
theorem State.agent?_updAgent_ne (s : State) {r q : AgentRef} (f : Agent → Agent) (h : q ≠ r) :
    (s.updAgent r f).agent? q = s.agent? q := by
  simp only [State.updAgent, State.agent?]
  by_cases hc : q.core = r.core
  · rw [hc, State.core_updCore_self]
    have : q.id ≠ r.id := fun e => h (by cases q; cases r; simp_all)
    simp [Tab.get?_upd, this]
  · rw [State.core_updCore_ne s _ hc]

@[simp] theorem State.core_res_updAgent (s : State) (r : AgentRef) (f : Agent → Agent) (c : Nat) :
    ((s.updAgent r f).core c).res = (s.core c).res := by
  simp only [State.updAgent, State.updCore, State.core_setCore]
  split <;> simp [*]
@[simp] theorem State.core_threads_updAgent (s : State) (r : AgentRef) (f : Agent → Agent) (c : Nat) :
    ((s.updAgent r f).core c).threads = (s.core c).threads := by
  simp only [State.updAgent, State.updCore, State.core_setCore]
  split <;> simp [*]
@[simp] theorem State.core_agents_updThread (s : State) (c l t : Nat) (f : Thread → Thread) (d : Nat) :
    ((s.updThread c l t f).core d).agents = (s.core d).agents := by
  simp only [State.updThread, State.updCore, State.core_setCore]
  split <;> simp [*]
@[simp] theorem State.core_agents_updRes (s : State) (c l : Nat) (f : Res → Res) (d : Nat) :
    ((s.updRes c l f).core d).agents = (s.core d).agents := by
  simp only [State.updRes, State.updCore, State.core_setCore]
  split <;> simp [*]

@[simp] theorem State.agentD_updThread (s : State) (c l t : Nat) (f : Thread → Thread) (r : AgentRef) :
    (s.updThread c l t f).agentD r = s.agentD r := by simp [State.agentD]
@[simp] theorem State.agent?_updThread (s : State) (c l t : Nat) (f : Thread → Thread) (r : AgentRef) :
    (s.updThread c l t f).agent? r = s.agent? r := by simp [State.agent?]
@[simp] theorem State.agentD_updRes (s : State) (c l : Nat) (f : Res → Res) (r : AgentRef) :
    (s.updRes c l f).agentD r = s.agentD r := by simp [State.agentD]
@[simp] theorem State.agent?_updRes (s : State) (c l : Nat) (f : Res → Res) (r : AgentRef) :
    (s.updRes c l f).agent? r = s.agent? r := by simp [State.agent?]

theorem State.res_updRes (s : State) (c l : Nat) (f : Res → Res) (d m : Nat) :
    (s.updRes c l f).res d m = if d = c ∧ m = l then f (s.res c l) else s.res d m := by
  simp only [State.res, State.updRes, State.updCore, State.core_setCore]
  by_cases hd : d = c
  · subst hd; simp only [if_true, true_and, Tab.getD_set]
  · simp [hd]

/-! ### The host's registers -/

theorem State.reg_setReg_ne (s : State) {a b : Nat} (v : Word) (h : b ≠ a) : (s.setReg a v).reg b = s.reg b := by
  simp only [State.reg, State.setReg]
  split
  · simp only [Tab.getD, Tab.get?_erase_ne _ h]
  · simp only [Tab.getD_set, if_neg h]

/-- A register reads as it was written, in a state whose registers are a table of canonical form. -/
theorem State.reg_setReg_self (s : State) (a : Nat) (v : Word) (hw : s.front.regs.wf = true) :
    (s.setReg a v).reg a = v := by
  simp only [State.reg, State.setReg]
  split
  · simp [Tab.getD, Tab.get?_erase_self _ _ hw, *]
  · simp [Tab.getD_set]

end Sys2Proof.Machine
end

