-- ==== Sys2Proof/Laws/Core.lean ====
section
/-! SUPPORT. The tables of a core that a change of one of them leaves alone: one lemma per table per change. -/

namespace Sys2Proof.Machine

/-- What a change of one core keeps of it, it keeps of every core. -/
theorem State.core_updCore_keep {β : Type} (p : Core → β) (s : State) (c : Nat) (f : Core → Core) (h : ∀ k, p (f k) = p k)
    (d : Nat) : p ((s.updCore c f).core d) = p (s.core d) := by
  simp only [State.updCore, State.core_setCore]
  split
  · next hd => rw [h, hd]
  · rfl


@[simp] theorem State.core_nextAg_updAgent (s : State) (r : AgentRef) (f : Agent → Agent) (d : Nat) :
    ((s.updAgent r f).core d).nextAg = (s.core d).nextAg := by
  unfold State.updAgent; apply State.core_updCore_keep Core.nextAg; intro; rfl
@[simp] theorem State.core_quads_updAgent (s : State) (r : AgentRef) (f : Agent → Agent) (d : Nat) :
    ((s.updAgent r f).core d).quads = (s.core d).quads := by
  unfold State.updAgent; apply State.core_updCore_keep Core.quads; intro; rfl
@[simp] theorem State.core_queue_updAgent (s : State) (r : AgentRef) (f : Agent → Agent) (d : Nat) :
    ((s.updAgent r f).core d).queue = (s.core d).queue := by
  unfold State.updAgent; apply State.core_updCore_keep Core.queue; intro; rfl
@[simp] theorem State.core_nextMat_updAgent (s : State) (r : AgentRef) (f : Agent → Agent) (d : Nat) :
    ((s.updAgent r f).core d).nextMat = (s.core d).nextMat := by
  unfold State.updAgent; apply State.core_updCore_keep Core.nextMat; intro; rfl
@[simp] theorem State.core_gather_updAgent (s : State) (r : AgentRef) (f : Agent → Agent) (d : Nat) :
    ((s.updAgent r f).core d).gather = (s.core d).gather := by
  unfold State.updAgent; apply State.core_updCore_keep Core.gather; intro; rfl
@[simp] theorem State.core_copies_updAgent (s : State) (r : AgentRef) (f : Agent → Agent) (d : Nat) :
    ((s.updAgent r f).core d).copies = (s.core d).copies := by
  unfold State.updAgent; apply State.core_updCore_keep Core.copies; intro; rfl
@[simp] theorem State.core_tracker_updAgent (s : State) (r : AgentRef) (f : Agent → Agent) (d : Nat) :
    ((s.updAgent r f).core d).tracker = (s.core d).tracker := by
  unfold State.updAgent; apply State.core_updCore_keep Core.tracker; intro; rfl
@[simp] theorem State.core_l1_updAgent (s : State) (r : AgentRef) (f : Agent → Agent) (d : Nat) :
    ((s.updAgent r f).core d).l1 = (s.core d).l1 := by
  unfold State.updAgent; apply State.core_updCore_keep Core.l1; intro; rfl
@[simp] theorem State.core_outst_updAgent (s : State) (r : AgentRef) (f : Agent → Agent) (d : Nat) :
    ((s.updAgent r f).core d).outst = (s.core d).outst := by
  unfold State.updAgent; apply State.core_updCore_keep Core.outst; intro; rfl
@[simp] theorem State.core_nextOut_updAgent (s : State) (r : AgentRef) (f : Agent → Agent) (d : Nat) :
    ((s.updAgent r f).core d).nextOut = (s.core d).nextOut := by
  unfold State.updAgent; apply State.core_updCore_keep Core.nextOut; intro; rfl
@[simp] theorem State.core_icache_updAgent (s : State) (r : AgentRef) (f : Agent → Agent) (d : Nat) :
    ((s.updAgent r f).core d).icache = (s.core d).icache := by
  unfold State.updAgent; apply State.core_updCore_keep Core.icache; intro; rfl
@[simp] theorem State.core_tlb_updAgent (s : State) (r : AgentRef) (f : Agent → Agent) (d : Nat) :
    ((s.updAgent r f).core d).tlb = (s.core d).tlb := by
  unfold State.updAgent; apply State.core_updCore_keep Core.tlb; intro; rfl
@[simp] theorem State.core_frozen_updAgent (s : State) (r : AgentRef) (f : Agent → Agent) (d : Nat) :
    ((s.updAgent r f).core d).frozen = (s.core d).frozen := by
  unfold State.updAgent; apply State.core_updCore_keep Core.frozen; intro; rfl

@[simp] theorem State.core_res_updThread (s : State) (c l t : Nat) (f : Thread → Thread) (d : Nat) :
    ((s.updThread c l t f).core d).res = (s.core d).res := by
  unfold State.updThread; apply State.core_updCore_keep Core.res; intro; rfl
@[simp] theorem State.core_nextAg_updThread (s : State) (c l t : Nat) (f : Thread → Thread) (d : Nat) :
    ((s.updThread c l t f).core d).nextAg = (s.core d).nextAg := by
  unfold State.updThread; apply State.core_updCore_keep Core.nextAg; intro; rfl
@[simp] theorem State.core_quads_updThread (s : State) (c l t : Nat) (f : Thread → Thread) (d : Nat) :
    ((s.updThread c l t f).core d).quads = (s.core d).quads := by
  unfold State.updThread; apply State.core_updCore_keep Core.quads; intro; rfl
@[simp] theorem State.core_queue_updThread (s : State) (c l t : Nat) (f : Thread → Thread) (d : Nat) :
    ((s.updThread c l t f).core d).queue = (s.core d).queue := by
  unfold State.updThread; apply State.core_updCore_keep Core.queue; intro; rfl
@[simp] theorem State.core_nextMat_updThread (s : State) (c l t : Nat) (f : Thread → Thread) (d : Nat) :
    ((s.updThread c l t f).core d).nextMat = (s.core d).nextMat := by
  unfold State.updThread; apply State.core_updCore_keep Core.nextMat; intro; rfl
@[simp] theorem State.core_gather_updThread (s : State) (c l t : Nat) (f : Thread → Thread) (d : Nat) :
    ((s.updThread c l t f).core d).gather = (s.core d).gather := by
  unfold State.updThread; apply State.core_updCore_keep Core.gather; intro; rfl
@[simp] theorem State.core_copies_updThread (s : State) (c l t : Nat) (f : Thread → Thread) (d : Nat) :
    ((s.updThread c l t f).core d).copies = (s.core d).copies := by
  unfold State.updThread; apply State.core_updCore_keep Core.copies; intro; rfl
@[simp] theorem State.core_tracker_updThread (s : State) (c l t : Nat) (f : Thread → Thread) (d : Nat) :
    ((s.updThread c l t f).core d).tracker = (s.core d).tracker := by
  unfold State.updThread; apply State.core_updCore_keep Core.tracker; intro; rfl
@[simp] theorem State.core_l1_updThread (s : State) (c l t : Nat) (f : Thread → Thread) (d : Nat) :
    ((s.updThread c l t f).core d).l1 = (s.core d).l1 := by
  unfold State.updThread; apply State.core_updCore_keep Core.l1; intro; rfl
@[simp] theorem State.core_outst_updThread (s : State) (c l t : Nat) (f : Thread → Thread) (d : Nat) :
    ((s.updThread c l t f).core d).outst = (s.core d).outst := by
  unfold State.updThread; apply State.core_updCore_keep Core.outst; intro; rfl
@[simp] theorem State.core_nextOut_updThread (s : State) (c l t : Nat) (f : Thread → Thread) (d : Nat) :
    ((s.updThread c l t f).core d).nextOut = (s.core d).nextOut := by
  unfold State.updThread; apply State.core_updCore_keep Core.nextOut; intro; rfl
@[simp] theorem State.core_icache_updThread (s : State) (c l t : Nat) (f : Thread → Thread) (d : Nat) :
    ((s.updThread c l t f).core d).icache = (s.core d).icache := by
  unfold State.updThread; apply State.core_updCore_keep Core.icache; intro; rfl
@[simp] theorem State.core_tlb_updThread (s : State) (c l t : Nat) (f : Thread → Thread) (d : Nat) :
    ((s.updThread c l t f).core d).tlb = (s.core d).tlb := by
  unfold State.updThread; apply State.core_updCore_keep Core.tlb; intro; rfl
@[simp] theorem State.core_frozen_updThread (s : State) (c l t : Nat) (f : Thread → Thread) (d : Nat) :
    ((s.updThread c l t f).core d).frozen = (s.core d).frozen := by
  unfold State.updThread; apply State.core_updCore_keep Core.frozen; intro; rfl

@[simp] theorem State.core_nextAg_updRes (s : State) (c l : Nat) (f : Res → Res) (d : Nat) :
    ((s.updRes c l f).core d).nextAg = (s.core d).nextAg := by
  unfold State.updRes; apply State.core_updCore_keep Core.nextAg; intro; rfl
@[simp] theorem State.core_threads_updRes (s : State) (c l : Nat) (f : Res → Res) (d : Nat) :
    ((s.updRes c l f).core d).threads = (s.core d).threads := by
  unfold State.updRes; apply State.core_updCore_keep Core.threads; intro; rfl
@[simp] theorem State.core_quads_updRes (s : State) (c l : Nat) (f : Res → Res) (d : Nat) :
    ((s.updRes c l f).core d).quads = (s.core d).quads := by
  unfold State.updRes; apply State.core_updCore_keep Core.quads; intro; rfl
@[simp] theorem State.core_queue_updRes (s : State) (c l : Nat) (f : Res → Res) (d : Nat) :
    ((s.updRes c l f).core d).queue = (s.core d).queue := by
  unfold State.updRes; apply State.core_updCore_keep Core.queue; intro; rfl
@[simp] theorem State.core_nextMat_updRes (s : State) (c l : Nat) (f : Res → Res) (d : Nat) :
    ((s.updRes c l f).core d).nextMat = (s.core d).nextMat := by
  unfold State.updRes; apply State.core_updCore_keep Core.nextMat; intro; rfl
@[simp] theorem State.core_gather_updRes (s : State) (c l : Nat) (f : Res → Res) (d : Nat) :
    ((s.updRes c l f).core d).gather = (s.core d).gather := by
  unfold State.updRes; apply State.core_updCore_keep Core.gather; intro; rfl
@[simp] theorem State.core_copies_updRes (s : State) (c l : Nat) (f : Res → Res) (d : Nat) :
    ((s.updRes c l f).core d).copies = (s.core d).copies := by
  unfold State.updRes; apply State.core_updCore_keep Core.copies; intro; rfl
@[simp] theorem State.core_tracker_updRes (s : State) (c l : Nat) (f : Res → Res) (d : Nat) :
    ((s.updRes c l f).core d).tracker = (s.core d).tracker := by
  unfold State.updRes; apply State.core_updCore_keep Core.tracker; intro; rfl
@[simp] theorem State.core_l1_updRes (s : State) (c l : Nat) (f : Res → Res) (d : Nat) :
    ((s.updRes c l f).core d).l1 = (s.core d).l1 := by
  unfold State.updRes; apply State.core_updCore_keep Core.l1; intro; rfl
@[simp] theorem State.core_outst_updRes (s : State) (c l : Nat) (f : Res → Res) (d : Nat) :
    ((s.updRes c l f).core d).outst = (s.core d).outst := by
  unfold State.updRes; apply State.core_updCore_keep Core.outst; intro; rfl
@[simp] theorem State.core_nextOut_updRes (s : State) (c l : Nat) (f : Res → Res) (d : Nat) :
    ((s.updRes c l f).core d).nextOut = (s.core d).nextOut := by
  unfold State.updRes; apply State.core_updCore_keep Core.nextOut; intro; rfl
@[simp] theorem State.core_icache_updRes (s : State) (c l : Nat) (f : Res → Res) (d : Nat) :
    ((s.updRes c l f).core d).icache = (s.core d).icache := by
  unfold State.updRes; apply State.core_updCore_keep Core.icache; intro; rfl
@[simp] theorem State.core_tlb_updRes (s : State) (c l : Nat) (f : Res → Res) (d : Nat) :
    ((s.updRes c l f).core d).tlb = (s.core d).tlb := by
  unfold State.updRes; apply State.core_updCore_keep Core.tlb; intro; rfl
@[simp] theorem State.core_frozen_updRes (s : State) (c l : Nat) (f : Res → Res) (d : Nat) :
    ((s.updRes c l f).core d).frozen = (s.core d).frozen := by
  unfold State.updRes; apply State.core_updCore_keep Core.frozen; intro; rfl

@[simp] theorem State.core_res_setQuad (s : State) (c q : Nat) (v : Quad) (d : Nat) :
    ((s.setQuad c q v).core d).res = (s.core d).res := by
  unfold State.setQuad; apply State.core_updCore_keep Core.res; intro; rfl
@[simp] theorem State.core_agents_setQuad (s : State) (c q : Nat) (v : Quad) (d : Nat) :
    ((s.setQuad c q v).core d).agents = (s.core d).agents := by
  unfold State.setQuad; apply State.core_updCore_keep Core.agents; intro; rfl
@[simp] theorem State.core_nextAg_setQuad (s : State) (c q : Nat) (v : Quad) (d : Nat) :
    ((s.setQuad c q v).core d).nextAg = (s.core d).nextAg := by
  unfold State.setQuad; apply State.core_updCore_keep Core.nextAg; intro; rfl
@[simp] theorem State.core_threads_setQuad (s : State) (c q : Nat) (v : Quad) (d : Nat) :
    ((s.setQuad c q v).core d).threads = (s.core d).threads := by
  unfold State.setQuad; apply State.core_updCore_keep Core.threads; intro; rfl
@[simp] theorem State.core_queue_setQuad (s : State) (c q : Nat) (v : Quad) (d : Nat) :
    ((s.setQuad c q v).core d).queue = (s.core d).queue := by
  unfold State.setQuad; apply State.core_updCore_keep Core.queue; intro; rfl
@[simp] theorem State.core_nextMat_setQuad (s : State) (c q : Nat) (v : Quad) (d : Nat) :
    ((s.setQuad c q v).core d).nextMat = (s.core d).nextMat := by
  unfold State.setQuad; apply State.core_updCore_keep Core.nextMat; intro; rfl
@[simp] theorem State.core_gather_setQuad (s : State) (c q : Nat) (v : Quad) (d : Nat) :
    ((s.setQuad c q v).core d).gather = (s.core d).gather := by
  unfold State.setQuad; apply State.core_updCore_keep Core.gather; intro; rfl
@[simp] theorem State.core_copies_setQuad (s : State) (c q : Nat) (v : Quad) (d : Nat) :
    ((s.setQuad c q v).core d).copies = (s.core d).copies := by
  unfold State.setQuad; apply State.core_updCore_keep Core.copies; intro; rfl
@[simp] theorem State.core_tracker_setQuad (s : State) (c q : Nat) (v : Quad) (d : Nat) :
    ((s.setQuad c q v).core d).tracker = (s.core d).tracker := by
  unfold State.setQuad; apply State.core_updCore_keep Core.tracker; intro; rfl
@[simp] theorem State.core_l1_setQuad (s : State) (c q : Nat) (v : Quad) (d : Nat) :
    ((s.setQuad c q v).core d).l1 = (s.core d).l1 := by
  unfold State.setQuad; apply State.core_updCore_keep Core.l1; intro; rfl
@[simp] theorem State.core_outst_setQuad (s : State) (c q : Nat) (v : Quad) (d : Nat) :
    ((s.setQuad c q v).core d).outst = (s.core d).outst := by
  unfold State.setQuad; apply State.core_updCore_keep Core.outst; intro; rfl
@[simp] theorem State.core_nextOut_setQuad (s : State) (c q : Nat) (v : Quad) (d : Nat) :
    ((s.setQuad c q v).core d).nextOut = (s.core d).nextOut := by
  unfold State.setQuad; apply State.core_updCore_keep Core.nextOut; intro; rfl
@[simp] theorem State.core_icache_setQuad (s : State) (c q : Nat) (v : Quad) (d : Nat) :
    ((s.setQuad c q v).core d).icache = (s.core d).icache := by
  unfold State.setQuad; apply State.core_updCore_keep Core.icache; intro; rfl
@[simp] theorem State.core_tlb_setQuad (s : State) (c q : Nat) (v : Quad) (d : Nat) :
    ((s.setQuad c q v).core d).tlb = (s.core d).tlb := by
  unfold State.setQuad; apply State.core_updCore_keep Core.tlb; intro; rfl
@[simp] theorem State.core_frozen_setQuad (s : State) (c q : Nat) (v : Quad) (d : Nat) :
    ((s.setQuad c q v).core d).frozen = (s.core d).frozen := by
  unfold State.setQuad; apply State.core_updCore_keep Core.frozen; intro; rfl

end Sys2Proof.Machine
end

