-- ==== Sys2Proof/Laws/Memory.lean ====
section
/-! SUPPORT. Device memory: the canonical form, reading after writing, and that equal contents are equal lists. -/

namespace Sys2Proof.Machine

theorem memRising_mono {m : List Host.Cell} {lo lo' : Nat} (h : lo' ≤ lo) (hm : memRising lo m = true) :
    memRising lo' m = true := by
  cases m with
  | nil => rfl
  | cons e t =>
    obtain ⟨k, v⟩ := e
    simp only [memRising, Bool.and_eq_true, decide_eq_true_eq] at hm ⊢
    exact ⟨⟨by omega, hm.1.2⟩, hm.2⟩

theorem memRising_put {m : List Host.Cell} (a : Nat) (b : Byte) {lo : Nat} (ha : lo ≤ a) (hm : memRising lo m = true) :
    memRising lo (memPut m a b) = true := by
  induction m generalizing lo with
  | nil => simp only [memPut]; split <;> simp_all [memRising]
  | cons e t ih =>
    obtain ⟨k, v⟩ := e
    have hm' := hm
    simp only [memRising, Bool.and_eq_true, decide_eq_true_eq] at hm
    simp only [memPut]
    split
    · split
      · exact hm'
      · simp only [memRising, Bool.and_eq_true, decide_eq_true_eq]
        exact ⟨⟨ha, by simpa using ‹¬b = 0›⟩, ⟨⟨by omega, hm.1.2⟩, hm.2⟩⟩
    · split
      · subst_vars
        split
        · exact memRising_mono (by omega) hm.2
        · simp only [memRising, Bool.and_eq_true, decide_eq_true_eq]
          exact ⟨⟨ha, by simpa using ‹¬b = 0›⟩, hm.2⟩
      · simp only [memRising, Bool.and_eq_true, decide_eq_true_eq]
        exact ⟨hm.1, ih (by omega) hm.2⟩

/-- Writing a byte keeps the canonical form. -/
theorem Memory.wf_put {m : List Host.Cell} (a : Nat) (b : Byte) (hm : Memory.wf m = true) :
    Memory.wf (memPut m a b) = true := memRising_put a b (Nat.zero_le a) hm

/-- Writing bytes keeps the canonical form. -/
theorem Memory.wf_write {m : List Host.Cell} (a : Nat) (bs : List Byte) (hm : Memory.wf m = true) :
    Memory.wf (memWrite m a bs) = true := by
  induction bs generalizing m a with
  | nil => exact hm
  | cons b bs ih => exact ih (a + 1) (Memory.wf_put a b hm)

theorem memGet_lt {m : List Host.Cell} {lo a : Nat} (ha : a < lo) (hm : memRising lo m = true) : memGet m a = 0 := by
  cases m with
  | nil => rfl
  | cons e t =>
    obtain ⟨k, v⟩ := e
    simp only [memRising, Bool.and_eq_true, decide_eq_true_eq] at hm
    simp only [memGet]
    rw [if_neg (by omega), if_pos (by omega)]

theorem memGet_put_rising {m : List Host.Cell} (a x : Nat) (b : Byte) {lo : Nat} (hm : memRising lo m = true) :
    memGet (memPut m a b) x = if x = a then b else memGet m x := by
  induction m generalizing lo with
  | nil =>
    simp only [memPut]
    split
    · simp_all [memGet]
    · simp only [memGet]; split <;> simp
  | cons e t ih =>
    obtain ⟨k, v⟩ := e
    simp only [memRising, Bool.and_eq_true, decide_eq_true_eq] at hm
    simp only [memPut]
    split
    · split
      · simp only [memGet]
        by_cases hx : x = a
        · subst hx; rw [if_neg (by omega), if_pos (by omega), if_pos rfl]; simp_all
        · rw [if_neg hx]
      · simp only [memGet]
        by_cases hx : x = a
        · simp [hx]
        · simp only [if_neg hx]
          by_cases h2 : x < a
          · rw [if_pos h2, if_neg (by omega), if_pos (by omega)]
          · rw [if_neg h2]
    · split
      · rename_i h2; subst h2
        split
        · by_cases hx : x = a
          · subst hx; rw [memGet_lt (Nat.lt_succ_self _) hm.2, if_pos rfl]; simp_all
          · rw [if_neg hx]
            simp only [memGet, if_neg hx]
            by_cases h3 : x < a
            · rw [if_pos h3, memGet_lt (by omega) hm.2]
            · rw [if_neg h3]
        · simp only [memGet]
          by_cases hx : x = a <;> simp [hx]
      · simp only [memGet]
        by_cases hk : x = k
        · subst hk; rw [if_pos rfl, if_neg (by omega), if_pos rfl]
        · simp only [if_neg hk]
          by_cases h3 : x < k
          · rw [if_pos h3, if_neg (by omega), if_pos h3]
          · rw [if_neg h3, if_neg h3]; exact ih hm.2

/-- A byte reads as it was written, and every other byte as before. -/
theorem memGet_put {m : List Host.Cell} (a x : Nat) (b : Byte) (hm : Memory.wf m = true) :
    memGet (memPut m a b) x = if x = a then b else memGet m x := memGet_put_rising a x b hm

/-- Bytes outside a write read as before. -/
theorem memGet_write_outside {m : List Host.Cell} (a x : Nat) (bs : List Byte) (hm : Memory.wf m = true)
    (hx : x < a ∨ a + bs.length ≤ x) : memGet (memWrite m a bs) x = memGet m x := by
  induction bs generalizing m a with
  | nil => rfl
  | cons b bs ih =>
    simp only [List.length_cons] at hx
    rw [memWrite, ih (a + 1) (Memory.wf_put a b hm) (by omega), memGet_put a x b hm, if_neg (by omega)]

/-- Bytes inside a write read as they were written. -/
theorem memGet_write_inside {m : List Host.Cell} (a i : Nat) (bs : List Byte) (hm : Memory.wf m = true)
    (hi : i < bs.length) : memGet (memWrite m a bs) (a + i) = bs[i] := by
  induction bs generalizing m a i with
  | nil => simp at hi
  | cons b bs ih =>
    rw [memWrite]
    cases i with
    | zero =>
      rw [memGet_write_outside (a + 1) (a + 0) bs (Memory.wf_put a b hm) (by omega), memGet_put a _ b hm]
      simp
    | succ i =>
      have h := ih (m := memPut m a b) (a + 1) i (Memory.wf_put a b hm) (by simpa using hi)
      rw [show a + (i + 1) = a + 1 + i by omega, h]
      simp

theorem memRead_length (m : List Host.Cell) (a n : Nat) : (memRead m a n).length = n := by
  induction n generalizing a with
  | zero => rfl
  | succ n ih => simp [memRead, ih]

theorem memRead_get (m : List Host.Cell) (a n i : Nat) (hi : i < (memRead m a n).length) :
    (memRead m a n)[i] = memGet m (a + i) := by
  induction n generalizing a i with
  | zero => simp [memRead] at hi
  | succ n ih =>
    cases i with
    | zero => simp [memRead]
    | succ i =>
      simp only [memRead, List.getElem_cons_succ]
      rw [ih (a + 1) i (by simpa [memRead] using hi)]
      congr 1; omega

/-- Bytes read after a write to the same place are the bytes written. -/
theorem memRead_write {m : List Host.Cell} (a : Nat) (bs : List Byte) (hm : Memory.wf m = true) :
    memRead (memWrite m a bs) a bs.length = bs := by
  apply List.ext_getElem
  · exact memRead_length _ _ _
  · intro i h1 h2
    rw [memRead_get, memGet_write_inside a i bs hm h2]

/-- Lists of canonical form that read alike are equal. -/
theorem mem_ext_rising {m n : List Host.Cell} {lo lo' : Nat} (hm : memRising lo m = true) (hn : memRising lo' n = true)
    (h : ∀ a, memGet m a = memGet n a) : m = n := by
  induction m generalizing n lo lo' with
  | nil =>
    cases n with
    | nil => rfl
    | cons e t =>
      obtain ⟨k, v⟩ := e
      simp only [memRising, Bool.and_eq_true, decide_eq_true_eq, bne_iff_ne] at hn
      exact absurd (h k).symm (by simpa [memGet] using hn.1.2)
  | cons e t ih =>
    obtain ⟨k, v⟩ := e
    simp only [memRising, Bool.and_eq_true, decide_eq_true_eq, bne_iff_ne] at hm
    cases n with
    | nil => exact absurd (h k) (by simpa [memGet] using hm.1.2)
    | cons e' t' =>
      obtain ⟨k', v'⟩ := e'
      simp only [memRising, Bool.and_eq_true, decide_eq_true_eq, bne_iff_ne] at hn
      have hk : k = k' := by
        rcases Nat.lt_trichotomy k k' with hlt | heq | hgt
        · have := h k
          simp only [memGet, if_true] at this
          rw [if_neg (by omega), if_pos hlt] at this
          exact absurd this hm.1.2
        · exact heq
        · have := h k'
          simp only [memGet, if_true] at this
          rw [if_neg (by omega), if_pos hgt] at this
          exact absurd this.symm hn.1.2
      subst hk
      have hv : v = v' := by simpa [memGet] using h k
      subst hv
      rw [ih hm.2 hn.2 (fun a => ?_)]
      by_cases ha : a < k + 1
      · rw [memGet_lt ha hm.2, memGet_lt ha hn.2]
      · have := h a
        simp only [memGet] at this
        rwa [if_neg (by omega), if_neg (by omega), if_neg (by omega), if_neg (by omega)] at this

/-- Equal memories are equal data. -/
theorem mem_ext {m n : List Host.Cell} (hm : Memory.wf m = true) (hn : Memory.wf n = true)
    (h : ∀ a, memGet m a = memGet n a) : m = n := mem_ext_rising hm hn h

/-! ### The one place that writes device memory -/

theorem State.devWrite_wf (s : State) (pa : Nat) (bs : List Byte) (h : Memory.wf s.mem = true) :
    Memory.wf (s.devWrite pa bs).mem = true := by
  unfold State.devWrite
  dsimp only
  split
  · exact h
  · exact Memory.wf_write pa bs h

/-- Where no sector of the range is uncorrectable, the bytes are written. -/
theorem State.devWrite_mem (s : State) (pa : Nat) (bs : List Byte) (h : s.errs.bad = []) :
    (s.devWrite pa bs).mem = memWrite s.mem pa bs := by
  unfold State.devWrite
  simp [h, State.partBad]

theorem State.hubPut_wf (s : State) (l : Loc) (bs : List Byte) (h : Memory.wf s.mem = true) :
    Memory.wf (s.hubPut l bs).mem = true := by
  cases l with
  | dev pa => exact s.devWrite_wf pa bs h
  | _ => exact h

end Sys2Proof.Machine
end

