-- ==== Sys2Proof/Laws/Ops.lean ====
section
/-! SUPPORT. What the shared operations of the instructions do: latching the cycle counter, raising flags, completing
an instruction whose lanes meet no trap. -/

namespace Sys2Proof.Machine

/-- What every step of a fold keeps, the fold keeps. -/
theorem foldl_keep {α β σ : Type} (p : σ → β) (f : σ → α → σ) (h : ∀ s x, p (f s x) = p s) (l : List α) (s : σ) :
    p (l.foldl f s) = p s := by
  induction l generalizing s with
  | nil => rfl
  | cons x l ih => rw [List.foldl_cons, ih, h]

/-! ### Latching -/

/-- Where no source names CYCLELO nothing is latched. -/
theorem State.latch_none (s : State) (r : AgentRef) (o : Op) (ha : o.a ≠ .spec .cyclelo) (hb : o.b ≠ .spec .cyclelo)
    (hc : o.c ≠ .spec .cyclelo) : s.latch r o = s := by
  unfold State.latch State.latchFor
  rw [if_neg]
  simp [ha, hb, hc]

theorem State.latch_keep {β : Type} (p : State → β) (h : ∀ s c l t f, p (State.updThread s c l t f) = p s)
    (s : State) (r : AgentRef) (o : Op) : p (s.latch r o) = p s := by
  unfold State.latch State.latchFor
  split
  · exact foldl_keep p _ (fun s x => h ..) _ _
  · rfl

@[simp] theorem State.latch_cur (s : State) (r : AgentRef) (o : Op) : (s.latch r o).cur = s.cur :=
  State.latch_keep State.cur (fun _ _ _ _ _ => rfl) s r o
@[simp] theorem State.latch_cycles (s : State) (r : AgentRef) (o : Op) : (s.latch r o).cycles = s.cycles :=
  State.latch_keep State.cycles (fun _ _ _ _ _ => rfl) s r o
@[simp] theorem State.latch_tick (s : State) (r : AgentRef) (o : Op) : (s.latch r o).tick = s.tick :=
  State.latch_keep State.tick (fun _ _ _ _ _ => rfl) s r o
@[simp] theorem State.latch_launches (s : State) (r : AgentRef) (o : Op) : (s.latch r o).launches = s.launches :=
  State.latch_keep State.launches (fun _ _ _ _ _ => rfl) s r o
@[simp] theorem State.latch_mem (s : State) (r : AgentRef) (o : Op) : (s.latch r o).mem = s.mem :=
  State.latch_keep State.mem (fun _ _ _ _ _ => rfl) s r o
@[simp] theorem State.latch_front (s : State) (r : AgentRef) (o : Op) : (s.latch r o).front = s.front :=
  State.latch_keep State.front (fun _ _ _ _ _ => rfl) s r o
@[simp] theorem State.latch_fabric (s : State) (r : AgentRef) (o : Op) : (s.latch r o).fabric = s.fabric :=
  State.latch_keep State.fabric (fun _ _ _ _ _ => rfl) s r o
@[simp] theorem State.latch_errs (s : State) (r : AgentRef) (o : Op) : (s.latch r o).errs = s.errs :=
  State.latch_keep State.errs (fun _ _ _ _ _ => rfl) s r o
@[simp] theorem State.latch_fw (s : State) (r : AgentRef) (o : Op) : (s.latch r o).fw = s.fw :=
  State.latch_keep State.fw (fun _ _ _ _ _ => rfl) s r o
@[simp] theorem State.latch_agents (s : State) (r : AgentRef) (o : Op) (c : Nat) :
    ((s.latch r o).core c).agents = (s.core c).agents :=
  State.latch_keep (fun s => (State.core s c).agents) (fun s c' l t f => by simp) s r o
@[simp] theorem State.latch_agentD (s : State) (r q : AgentRef) (o : Op) : (s.latch r o).agentD q = s.agentD q := by
  simp [State.agentD]
@[simp] theorem State.latch_agent? (s : State) (r q : AgentRef) (o : Op) : (s.latch r o).agent? q = s.agent? q := by
  simp [State.agent?]
@[simp] theorem State.latch_launchD (s : State) (r : AgentRef) (o : Op) (lid : Nat) :
    (s.latch r o).launchD lid = s.launchD lid := by simp [State.launchD]
theorem State.updThread_core (s : State) (c l t : Nat) (f : Thread → Thread) (d : Nat) :
    ∃ ts, (s.updThread c l t f).core d = { s.core d with threads := ts } := by
  simp only [State.updThread, State.updCore, State.core_setCore]
  split
  · subst_vars; exact ⟨_, rfl⟩
  · exact ⟨_, rfl⟩
@[simp] theorem State.latch_res (s : State) (r : AgentRef) (o : Op) (c lid : Nat) :
    (s.latch r o).res c lid = s.res c lid :=
  State.latch_keep (fun s => s.res c lid) (fun s c' l t f => by
    obtain ⟨ts, h⟩ := State.updThread_core s c' l t f c
    simp only [State.res, h]) s r o
@[simp] theorem State.latch_enables (s : State) (r : AgentRef) (o : Op) (c lid : Nat) :
    (s.latch r o).enables c lid = s.enables c lid := by simp [State.enables]

theorem State.latch_core_keep {β : Type} (p : Core → β) (h : ∀ k t, p { k with threads := t } = p k) (s : State)
    (r : AgentRef) (o : Op) (d : Nat) : p ((s.latch r o).core d) = p (s.core d) := by
  apply State.latch_keep fun s => p (s.core d)
  intro s c l t f
  exact State.core_updCore_keep p s c _ (fun k => h k _) d
@[simp] theorem State.core_nextAg_latch (s : State) (r : AgentRef) (o : Op) (d : Nat) :
    ((s.latch r o).core d).nextAg = (s.core d).nextAg := State.latch_core_keep Core.nextAg (fun _ _ => rfl) s r o d
@[simp] theorem State.core_quads_latch (s : State) (r : AgentRef) (o : Op) (d : Nat) :
    ((s.latch r o).core d).quads = (s.core d).quads := State.latch_core_keep Core.quads (fun _ _ => rfl) s r o d
@[simp] theorem State.core_queue_latch (s : State) (r : AgentRef) (o : Op) (d : Nat) :
    ((s.latch r o).core d).queue = (s.core d).queue := State.latch_core_keep Core.queue (fun _ _ => rfl) s r o d
@[simp] theorem State.core_nextMat_latch (s : State) (r : AgentRef) (o : Op) (d : Nat) :
    ((s.latch r o).core d).nextMat = (s.core d).nextMat := State.latch_core_keep Core.nextMat (fun _ _ => rfl) s r o d
@[simp] theorem State.core_gather_latch (s : State) (r : AgentRef) (o : Op) (d : Nat) :
    ((s.latch r o).core d).gather = (s.core d).gather := State.latch_core_keep Core.gather (fun _ _ => rfl) s r o d
@[simp] theorem State.core_copies_latch (s : State) (r : AgentRef) (o : Op) (d : Nat) :
    ((s.latch r o).core d).copies = (s.core d).copies := State.latch_core_keep Core.copies (fun _ _ => rfl) s r o d
@[simp] theorem State.core_tracker_latch (s : State) (r : AgentRef) (o : Op) (d : Nat) :
    ((s.latch r o).core d).tracker = (s.core d).tracker := State.latch_core_keep Core.tracker (fun _ _ => rfl) s r o d
@[simp] theorem State.core_l1_latch (s : State) (r : AgentRef) (o : Op) (d : Nat) :
    ((s.latch r o).core d).l1 = (s.core d).l1 := State.latch_core_keep Core.l1 (fun _ _ => rfl) s r o d
@[simp] theorem State.core_outst_latch (s : State) (r : AgentRef) (o : Op) (d : Nat) :
    ((s.latch r o).core d).outst = (s.core d).outst := State.latch_core_keep Core.outst (fun _ _ => rfl) s r o d
@[simp] theorem State.core_nextOut_latch (s : State) (r : AgentRef) (o : Op) (d : Nat) :
    ((s.latch r o).core d).nextOut = (s.core d).nextOut := State.latch_core_keep Core.nextOut (fun _ _ => rfl) s r o d
@[simp] theorem State.core_icache_latch (s : State) (r : AgentRef) (o : Op) (d : Nat) :
    ((s.latch r o).core d).icache = (s.core d).icache := State.latch_core_keep Core.icache (fun _ _ => rfl) s r o d
@[simp] theorem State.core_tlb_latch (s : State) (r : AgentRef) (o : Op) (d : Nat) :
    ((s.latch r o).core d).tlb = (s.core d).tlb := State.latch_core_keep Core.tlb (fun _ _ => rfl) s r o d
@[simp] theorem State.core_frozen_latch (s : State) (r : AgentRef) (o : Op) (d : Nat) :
    ((s.latch r o).core d).frozen = (s.core d).frozen := State.latch_core_keep Core.frozen (fun _ _ => rfl) s r o d

/-! ### Flags -/

@[simp] theorem State.raise_zero (s : State) (c lid : Nat) : s.raise c lid 0#32 = s := by simp [State.raise]

theorem State.raise_keep {β : Type} (p : State → β) (h : ∀ s c l f, p (State.updRes s c l f) = p s) (s : State)
    (c lid : Nat) (w : Word) : p (s.raise c lid w) = p s := by
  unfold State.raise
  split
  · rfl
  · exact h ..

@[simp] theorem State.raise_cur (s : State) (c lid : Nat) (w : Word) : (s.raise c lid w).cur = s.cur :=
  State.raise_keep State.cur (fun _ _ _ _ => rfl) s c lid w
@[simp] theorem State.raise_cycles (s : State) (c lid : Nat) (w : Word) : (s.raise c lid w).cycles = s.cycles :=
  State.raise_keep State.cycles (fun _ _ _ _ => rfl) s c lid w
@[simp] theorem State.raise_mem (s : State) (c lid : Nat) (w : Word) : (s.raise c lid w).mem = s.mem :=
  State.raise_keep State.mem (fun _ _ _ _ => rfl) s c lid w
@[simp] theorem State.raise_launches (s : State) (c lid : Nat) (w : Word) : (s.raise c lid w).launches = s.launches :=
  State.raise_keep State.launches (fun _ _ _ _ => rfl) s c lid w
@[simp] theorem State.raise_agentD (s : State) (c lid : Nat) (w : Word) (r : AgentRef) :
    (s.raise c lid w).agentD r = s.agentD r :=
  State.raise_keep (fun s => State.agentD s r) (fun _ _ _ _ => by simp) s c lid w
@[simp] theorem State.raise_agent? (s : State) (c lid : Nat) (w : Word) (r : AgentRef) :
    (s.raise c lid w).agent? r = s.agent? r :=
  State.raise_keep (fun s => State.agent? s r) (fun _ _ _ _ => by simp) s c lid w

/-- No flags take no trap, whatever is enabled. -/
@[simp] theorem flagTrap_zero (e : Word) : flagTrap e 0#32 = none := by simp [flagTrap]

/-- Nothing enabled, no trap. -/
@[simp] theorem flagTrap_disabled (f : Word) : flagTrap 0 f = none := by simp [flagTrap]

@[simp] theorem State.trapLanes_nil (s : State) (r : AgentRef) : s.trapLanes r [] = s := rfl

/-! ### An instruction whose lanes meet no trap -/

/-- The registers that some lanes' results are bound for, and the writes. -/
def cleanRegs (o : Op) (k : Nat) (rs : List (Nat × LaneRes)) : List Reg :=
  if rs.isEmpty then [] else destRegs o.d k ++ rs.flatMap fun x => x.2.extra.map (·.1)
def cleanWrites (o : Op) (rs : List (Nat × LaneRes)) : List LaneWrite :=
  rs.flatMap fun x => destWrites x.1 o.d x.2.vals ++ x.2.extra.map fun e => { lane := x.1, reg := e.1, val := e.2 }

/-- What completing an instruction does where no lane traps: the flags join the status word, and the agent has issued,
with its results outstanding. -/
theorem State.commit_clean (s : State) (r : AgentRef) (o : Op) (lat : Latency) (k : Nat) (rs : List (Nat × LaneRes))
    (h : ∀ x ∈ rs, x.2.trap = none ∧ flagTrap (s.enables r.core (s.agentD r).lid) x.2.flags = none) :
    s.commit r o lat k rs =
      (s.raise r.core (s.agentD r).lid (rs.foldl (fun f x => f ||| x.2.flags) 0)).updAgent r fun a =>
        a.issued s.cycles o.ctl lat (cleanRegs o k rs) (cleanWrites o rs) [] := by
  have hchk : rs.map (fun x => (x.1, x.2.checked (s.enables r.core (s.agentD r).lid))) = rs := by
    conv => rhs; rw [← List.map_id rs]
    apply List.map_congr_left
    intro x hx
    have hx' := h x hx
    simp [LaneRes.checked, hx'.1, hx'.2]
  have hgood : rs.filter (fun x => x.2.trap.isNone) = rs := by
    rw [List.filter_eq_self]
    intro x hx
    simp [(h x hx).1]
  have htraps : rs.filterMap (fun x => x.2.trap.map fun t => (x.1, t)) = [] := by
    rw [List.filterMap_eq_nil_iff]
    intro x hx
    simp [(h x hx).1]
  unfold State.commit State.commitAwait
  simp only [hchk, hgood, htraps, State.trapLanes_nil, List.isEmpty_nil, Bool.not_true, Bool.and_false, Bool.and_true,
    State.raise_cycles, Bool.false_eq_true, if_false]
  rfl

/-- What an instruction of one lane at a time does where no lane traps. -/
theorem laneOp_clean (o : Op) (lat : Latency) (k : Nat) (f : Env → LaneRes) (s : State) (r : AgentRef) (hr : s.cur = some r)
    (h : ∀ e ∈ (s.latch r o).envs r o, (f e).trap = none ∧
      flagTrap (s.enables r.core (s.agentD r).lid) (f e).flags = none) :
    laneOp o lat k f s = .next
      (((s.latch r o).raise r.core (s.agentD r).lid
          (((s.latch r o).envs r o).foldl (fun w e => w ||| (f e).flags) 0)).updAgent r fun a =>
        a.issued s.cycles o.ctl lat (cleanRegs o k (((s.latch r o).envs r o).map fun e => (e.n, f e)))
          (cleanWrites o (((s.latch r o).envs r o).map fun e => (e.n, f e))) []) := by
  unfold laneOp
  rw [hr]
  simp only
  rw [State.commit_clean]
  · simp [List.foldl_map]
  · intro x hx
    obtain ⟨e, he, rfl⟩ := List.mem_map.1 hx
    simpa using h e he

/-- An instruction that acts on the state for its agent, where one is granted issue. -/
theorem agentOp_next (f : AgentRef → State → State) (s : State) (r : AgentRef) (h : s.cur = some r) :
    agentOp f s = .next (f r s) := by simp [agentOp, h]

/-! ### An instruction with one active lane -/

/-- A lane's result that neither traps nor raises a flag: the agent has issued, the result outstanding. -/
theorem State.commit_one (s : State) (r : AgentRef) (o : Op) (lat : Latency) (k n : Nat) (vals : List Word) :
    s.commit r o lat k [(n, LaneRes.of vals)] =
      s.updAgent r fun a => a.issued s.cycles o.ctl lat (destRegs o.d k) (destWrites n o.d vals) [] := by
  rw [State.commit_clean]
  · simp [LaneRes.of, cleanRegs, cleanWrites]
  · intro x hx
    simp only [List.mem_singleton] at hx
    subst hx
    simp [LaneRes.of]

/-- What the environment of an active lane is. -/
theorem State.mem_envs {s : State} {r : AgentRef} {o : Op} {e : Env} (h : e ∈ s.envs r o) :
    e.s = s ∧ e.r = r ∧ e.a = s.agentD r ∧ e.l = s.launchD (s.agentD r).lid
      ∧ (∃ x ∈ (s.agentD r).live, e.n = x.1 ∧ e.lane = (s.agentD r).source x) ∧ e.lane.guard o.guard = true := by
  simp only [State.envs, List.mem_map, List.mem_filter] at h
  obtain ⟨x, hx, rfl⟩ := h
  exact ⟨rfl, rfl, rfl, rfl, ⟨x, hx.1, rfl, rfl⟩, hx.2⟩

/-- An agent that has an active lane is there. -/
theorem State.agent_of_envs {s : State} {r : AgentRef} {o : Op} {e : Env} (h : e ∈ s.envs r o) :
    s.agent? r = some (s.agentD r) := by
  obtain ⟨-, -, -, -, ⟨x, hl, -, -⟩, -⟩ := State.mem_envs h
  unfold State.agentD Tab.getD at hl ⊢
  unfold State.agent?
  cases hg : Tab.get? (s.core r.core).agents r.id with
  | some a => rfl
  | none =>
    rw [hg] at hl
    simp [Agent.live] at hl
    exact absurd hl.1 (by simp [default, instInhabitedAgent.default])

theorem seqOp_one (o : Op) (k : Nat) (f : State → Env → State × LaneRes) (s s' : State) (r : AgentRef) (e : Env)
    (vals : List Word) (hr : s.cur = some r) (he : (s.latch r o).envs r o = [e])
    (hf : f (s.latch r o) e = (s', LaneRes.of vals)) :
    seqOp o k f s = .next (s'.updAgent r fun a =>
      a.issued s'.cycles o.ctl .v (destRegs o.d k) (destWrites e.n o.d vals) []) := by
  simp only [seqOp, hr, he, foldLanes, List.foldl_cons, List.foldl_nil, hf, List.nil_append, State.commit_one]

theorem memOp_one (o : Op) (k : Nat) (addr : Env → Option DWord) (f : State → Env → State × MemOut) (s s' : State)
    (r : AgentRef) (e : Env) (vals : List Word) (hr : s.cur = some r) (he : (s.latch r o).envs r o = [e])
    (hb : s.fabric.biasJob = none) (hf : f (s.latch r o) e = (s', .done (LaneRes.of vals))) :
    memOp o k addr f s = .next (s'.updAgent r fun a =>
      a.issued s'.cycles o.ctl .v (destRegs o.d k) (destWrites e.n o.d vals) []) := by
  have hnb : ∀ (e : Env) (a : DWord), (s.latch r o).biasHeld e a = false := by
    intro e a; simp [State.biasHeld, hb]
  simp only [memOp, agentOp_next _ _ _ hr, he, List.any_cons, List.any_nil, Bool.or_false, foldMem, List.foldl_cons,
    List.foldl_nil, hf, List.nil_append]
  rw [if_neg]
  · exact congrArg _ (State.commit_one ..)
  · split <;> simp [hnb]

end Sys2Proof.Machine
end

