-- ==== Sys2Proof/Laws/Access.lean ====
section
/-! SUPPORT. What a translation, an acquire and the reads and writes of bytes leave alone, and what a read through the L1 gives. -/

namespace Sys2Proof.Machine

/-- The fabric changes, and nothing else. -/
def State.withFab (s : State) (f : Fabric) : State := { s with fabric := f }

theorem State.walkVia_keep {β : Type} (p : State → β) (h : ∀ s f, f.bias = s.fabric.bias → p (State.withFab s f) = p s) (part va level tbl : Nat)
    (s : State) : p (State.walkVia part va level tbl s).1 = p s := by
  induction level generalizing tbl s with
  | zero => rfl
  | succ level ih =>
    unfold State.walkVia
    dsimp only
    repeat' split
    all_goals first
      | rfl
      | exact ih ..
      | exact (ih ..).trans (h _ _ rfl)

/-- What changes of one TLB and of the fabric keep, the leaf's use keeps. -/
theorem State.leaf_keep {β : Type} (p : State → β) (c : Option Nat) (h : ∀ s t, p (State.setTlb s c t) = p s)
    (hw : ∀ s f, f.bias = s.fabric.bias → p (State.withFab s f) = p s) (s : State) (path part : Nat) (va : DWord) :
    p (s.leaf c path part va).1 = p s := by
  have hk : ∀ s : State, p s.tlbTick = p s := fun s => hw s _ rfl
  have hf : ∀ (s : State) x, p (s.tlbFill c path part va x) = p s := fun s x => by
    unfold State.tlbFill
    dsimp only
    cases x with
    | none => exact h ..
    | some x => exact (hk _).trans (h ..)
  unfold State.leaf
  dsimp only
  split
  · exact (hk _).trans (h ..)
  · exact (hf ..).trans (State.walkVia_keep p hw ..)

/-- What changes of one TLB and of the fabric keep, a translation keeps. -/
theorem State.xlate_keep {β : Type} (p : State → β) (c : Option Nat) (h : ∀ s t, p (State.setTlb s c t) = p s)
    (hw : ∀ s f, f.bias = s.fabric.bias → p (State.withFab s f) = p s) (s : State) (path part : Nat) (va : DWord) (acc : Acc) :
    p (s.xlate c path part va acc).1 = p s := by
  have hl := State.leaf_keep p c h hw s path part va
  have hn : ∀ (s : State) l, p (s.noteHeld l) = p s := fun s l => by
    cases l with
    | dev pa =>
      unfold State.noteHeld
      dsimp only
      split
      · exact hw _ _ rfl
      · rfl
    | _ => rfl
  unfold State.xlate
  split
  · revert hl
    split <;> rename_i heq <;> rw [heq] <;> intro hl
    · split
      · exact (hn ..).trans hl
      · exact hl
    · exact hl
  · rfl

/-- What a walk through the walk caches finds depends on memory and on what they hold. -/
theorem State.walkVia_congr {s t : State} (hm : t.mem = s.mem) (hw : t.fabric.walks = s.fabric.walks) (ht : t.tick = s.tick)
    (part va level tbl : Nat) : (State.walkVia part va level tbl t).2 = (State.walkVia part va level tbl s).2 := by
  induction level generalizing tbl s t with
  | zero => rfl
  | succ level ih =>
    simp only [State.walkVia, hm, hw, ht]
    repeat' split
    all_goals first
      | rfl
      | exact ih hm hw ht ..
      | (apply ih <;> rfl)

/-- Where a translation leads depends on memory, the walk caches, the TLB and the registers. -/
theorem State.xlate_congr {s t : State} {c : Option Nat} (hm : t.mem = s.mem) (hw : t.fabric.walks = s.fabric.walks) (ht : t.tick = s.tick)
    (hr : t.front.regs = s.front.regs) (hc : t.tlbOf c = s.tlbOf c) (path part : Nat) (va : DWord) (acc : Acc) :
    (t.xlate c path part va acc).2 = (s.xlate c path part va acc).2 := by
  have hroot : t.root part = s.root part := by simp only [State.root, State.reg64, State.reg, hr]
  have hspace : ∀ s : State, (s.leaf c path part va).1.space part = s.space part := fun s =>
    State.leaf_keep (fun s => s.space part) c (fun _ _ => by cases c <;> rfl) (fun _ _ _ => rfl) s path part va
  have hl : (t.leaf c path part va).2 = (s.leaf c path part va).2 := by
    have h := State.walkVia_congr hm hw ht part (va57 va) 5 (s.root part)
    simp only [State.leaf, hroot, h, State.tlbHit?, hc, ht]
    split <;> rfl
  have hsp : t.space part = s.space part := by simp only [State.space, State.reg, hr]
  have h1 := hspace s
  have h2 := hspace t
  unfold State.xlate
  split
  · generalize t.leaf c path part va = y at hl h2 ⊢
    generalize s.leaf c path part va = x at hl h1 ⊢
    obtain ⟨t', y⟩ := y
    obtain ⟨s', x⟩ := x
    dsimp only at hl h1 h2
    subst hl
    cases y with
    | none => rfl
    | some e =>
      dsimp only
      rw [h1, h2, hsp]
      split <;> rfl
  · rfl

/-- A core but for its TLB. -/
def Core.noTlb (k : Core) : Core := { k with tlb := [] }

theorem State.core_noTlb_setTlb (s : State) (c : Option Nat) (t : Tab TlbEntry) (d : Nat) :
    ((s.setTlb c t).core d).noTlb = (s.core d).noTlb := by
  cases c with
  | none => rfl
  | some c =>
    simp only [State.setTlb, State.updCore, State.core_setCore]
    split
    · next h => rw [h]; rfl
    · rfl

@[simp] theorem State.xlate_core (s : State) (c : Option Nat) (path part : Nat) (va : DWord) (acc : Acc) (d : Nat) :
    ((s.xlate c path part va acc).1.core d).noTlb = (s.core d).noTlb :=
  State.xlate_keep (fun s => (s.core d).noTlb) c (fun s t => State.core_noTlb_setTlb s c t d) (fun _ _ _ => rfl) s path part va acc
theorem State.xlate_core_of {β : Type} (f : Core → β) (h : ∀ k, f k = f k.noTlb) (s : State) (c : Option Nat) (path part : Nat)
    (va : DWord) (acc : Acc) (d : Nat) : f ((s.xlate c path part va acc).1.core d) = f (s.core d) := by
  rw [h, State.xlate_core, ← h]
@[simp] theorem State.xlate_agents (s : State) (c : Option Nat) (path part : Nat) (va : DWord) (acc : Acc) (d : Nat) :
    ((s.xlate c path part va acc).1.core d).agents = (s.core d).agents :=
  State.xlate_core_of Core.agents (fun _ => rfl) ..
@[simp] theorem State.xlate_l1 (s : State) (c : Option Nat) (path part : Nat) (va : DWord) (acc : Acc) (d : Nat) :
    ((s.xlate c path part va acc).1.core d).l1 = (s.core d).l1 :=
  State.xlate_core_of Core.l1 (fun _ => rfl) ..
@[simp] theorem State.xlate_outst (s : State) (c : Option Nat) (path part : Nat) (va : DWord) (acc : Acc) (d : Nat) :
    ((s.xlate c path part va acc).1.core d).outst = (s.core d).outst :=
  State.xlate_core_of Core.outst (fun _ => rfl) ..
@[simp] theorem State.xlate_nextOut (s : State) (c : Option Nat) (path part : Nat) (va : DWord) (acc : Acc) (d : Nat) :
    ((s.xlate c path part va acc).1.core d).nextOut = (s.core d).nextOut :=
  State.xlate_core_of Core.nextOut (fun _ => rfl) ..
@[simp] theorem State.xlate_agentD (s : State) (c : Option Nat) (path part : Nat) (va : DWord) (acc : Acc) (r : AgentRef) :
    (s.xlate c path part va acc).1.agentD r = s.agentD r := by simp [State.agentD]
@[simp] theorem State.xlate_mem (s : State) (c : Option Nat) (path part : Nat) (va : DWord) (acc : Acc) :
    (s.xlate c path part va acc).1.mem = s.mem := State.xlate_keep State.mem c (fun _ _ => by cases c <;> rfl) (fun _ _ _ => rfl) ..
@[simp] theorem State.xlate_tick (s : State) (c : Option Nat) (path part : Nat) (va : DWord) (acc : Acc) :
    (s.xlate c path part va acc).1.tick = s.tick := State.xlate_keep State.tick c (fun _ _ => by cases c <;> rfl) (fun _ _ _ => rfl) ..
@[simp] theorem State.xlate_cycles (s : State) (c : Option Nat) (path part : Nat) (va : DWord) (acc : Acc) :
    (s.xlate c path part va acc).1.cycles = s.cycles := State.xlate_keep State.cycles c (fun _ _ => by cases c <;> rfl) (fun _ _ _ => rfl) ..
@[simp] theorem State.xlate_launches (s : State) (c : Option Nat) (path part : Nat) (va : DWord) (acc : Acc) :
    (s.xlate c path part va acc).1.launches = s.launches := State.xlate_keep State.launches c (fun _ _ => by cases c <;> rfl) (fun _ _ _ => rfl) ..
@[simp] theorem State.xlate_errs (s : State) (c : Option Nat) (path part : Nat) (va : DWord) (acc : Acc) :
    (s.xlate c path part va acc).1.errs = s.errs := State.xlate_keep State.errs c (fun _ _ => by cases c <;> rfl) (fun _ _ _ => rfl) ..
theorem State.xlate_core_ne (s : State) {c d : Nat} (path part : Nat) (va : DWord) (acc : Acc) (h : d ≠ c) :
    (s.xlate (some c) path part va acc).1.core d = s.core d :=
  State.xlate_keep (fun s => s.core d) (some c) (fun s _ => State.core_updCore_ne s _ h) (fun _ _ _ => rfl) s path part va acc

@[simp] theorem State.xlate_bias (s : State) (c : Option Nat) (path part : Nat) (va : DWord) (acc : Acc) :
    (s.xlate c path part va acc).1.fabric.bias = s.fabric.bias :=
  State.xlate_keep (fun s => s.fabric.bias) c (fun _ _ => by cases c <;> rfl) (fun _ _ h => h) ..
@[simp] theorem State.xlate_late (s : State) (c : Option Nat) (path part : Nat) (va : DWord) (acc : Acc) (d : Nat) :
    ((s.xlate c path part va acc).1.core d).late = (s.core d).late :=
  State.xlate_core_of Core.late (fun _ => rfl) ..

/-- Where race detection is off an access is not checked. -/
theorem State.raced_off (s : State) (w : Racer) (x : RaceAcc) (l : Loc) (n : Nat) (h : (s.launchD w.lid).race = false) :
    s.raced w x l n = (s, false) := by
  cases l <;> simp [State.raced, h]
theorem State.acquireEpoch_off (s : State) (c lid tid scope : Nat) (h : (s.launchD lid).race = false) :
    s.acquireEpoch c lid tid scope = s := by simp [State.acquireEpoch, h]

theorem listGen_congr {α : Type} {f g : Nat → α} {n : Nat} (h : ∀ i, i < n → f i = g i) : listGen f n = listGen g n := by
  induction n with
  | zero => rfl
  | succ n ih => simp only [listGen]; rw [ih fun i hi => h i (by omega), h n (by omega)]
theorem listGen_length {α : Type} (f : Nat → α) (n : Nat) : (listGen f n).length = n := by
  induction n with
  | zero => rfl
  | succ n ih => simp [listGen, ih]
theorem listGen_get? {α : Type} (f : Nat → α) {n i : Nat} (h : i < n) : (listGen f n)[i]? = some (f i) := by
  induction n with
  | zero => omega
  | succ n ih =>
    simp only [listGen]
    rcases Nat.lt_succ_iff_lt_or_eq.1 h with h | rfl
    · rw [List.getElem?_append_left (by rw [listGen_length]; exact h), ih h]
    · rw [List.getElem?_append_right (by simp [listGen_length]), listGen_length]; simp
theorem memRead_eq_listGen (m : List Host.Cell) (a n : Nat) : memRead m a n = listGen (fun i => memGet m (a + i)) n := by
  apply List.ext_getElem?
  intro i
  by_cases h : i < n
  · rw [listGen_get? _ h, List.getElem?_eq_getElem (by rw [memRead_length]; exact h), memRead_get]
  · rw [List.getElem?_eq_none (by rw [memRead_length]; omega), List.getElem?_eq_none (by rw [listGen_length]; omega)]

theorem Tab.mem_of_get? {α : Type} {t : Tab α} {k : Nat} {v : α} (h : Tab.get? t k = some v) : (k, v) ∈ t := by
  induction t with
  | nil => simp [Tab.get?] at h
  | cons x t ih =>
    obtain ⟨k', v'⟩ := x
    simp only [Tab.get?] at h
    split at h
    · simp_all
    · exact List.mem_cons_of_mem _ (ih h)

theorem Tab.mem_set {α : Type} {t : Tab α} {k : Nat} {v : α} {e : Nat × α} (h : e ∈ Tab.set t k v) : e = (k, v) ∨ e ∈ t := by
  induction t with
  | nil => simpa [Tab.set] using h
  | cons x t ih =>
    obtain ⟨k', v'⟩ := x
    simp only [Tab.set] at h
    split at h
    · simpa using h
    · split at h
      · exact (List.mem_cons.1 h).imp id (List.mem_cons_of_mem _)
      · rcases List.mem_cons.1 h with rfl | h
        · exact .inr List.mem_cons_self
        · exact (ih h).imp id (List.mem_cons_of_mem _)

/-- What a fill leaves in the L1: what it held, and bytes of the fill. -/
theorem mem_l1Fill {bs : List Byte} {t : Tab L1Byte} {k : Nat} {e : Nat × L1Byte} (h : e ∈ l1Fill t k bs) :
    e ∈ t ∨ ∃ i, bs[i]? = some e.2.val ∧ e.1 = k + i ∧ e.2.dirty = false := by
  induction bs generalizing t k with
  | nil => exact .inl h
  | cons b bs ih =>
    rcases ih h with h | ⟨i, hi, hk, hd⟩
    · split at h
      · exact .inl h
      · rcases Tab.mem_set h with rfl | h
        · exact .inr ⟨0, rfl, rfl, rfl⟩
        · exact .inl h
    · exact .inr ⟨i + 1, by simpa using hi, by omega, hd⟩

theorem l1Fill_keeps {bs : List Byte} {t : Tab L1Byte} {k j : Nat} (h : (Tab.get? t j).isSome = true) :
    (Tab.get? (l1Fill t k bs) j).isSome = true := by
  induction bs generalizing t k with
  | nil => exact h
  | cons b bs ih =>
    refine ih ?_
    split
    · exact h
    · rw [Tab.get?_set]; split
      · rfl
      · exact h

theorem l1Fill_has {bs : List Byte} {t : Tab L1Byte} {k i : Nat} (h : i < bs.length) :
    (Tab.get? (l1Fill t k bs) (k + i)).isSome = true := by
  induction bs generalizing t k i with
  | nil => simp at h
  | cons b bs ih =>
    cases i with
    | zero =>
      simp only [l1Fill]
      refine l1Fill_keeps ?_
      split
      · assumption
      · simp [Tab.get?_set]
    | succ i =>
      have := ih (t := if (Tab.get? t k).isSome then t else Tab.set t k { val := b, dirty := false }) (k := k + 1) (i := i) (by simpa using h)
      rwa [show k + (i + 1) = k + 1 + i by omega]

/-- A core's L1 holds no dirty byte and, of device memory, what memory holds; no frame is in host bias, and no load of the core is late. -/
def State.L1Agrees (s : State) (c : Nat) : Prop :=
  (∀ e ∈ (s.core c).l1, e.2.dirty = false ∧ (e.1 < 2 ^ 56 → e.2.val = memGet s.mem e.1)) ∧ s.fabric.bias = [] ∧ (s.core c).late = []

theorem State.l1Agrees_of {s t : State} {c : Nat} (hc : (t.core c).l1 = (s.core c).l1) (hm : t.mem = s.mem)
    (hb : t.fabric.bias = s.fabric.bias) (hl : (t.core c).late = (s.core c).late) (h : s.L1Agrees c) : t.L1Agrees c := by
  unfold State.L1Agrees; rw [hc, hm, hb, hl]; exact h

/-- Without frames in host bias an access of device memory recalls grants, and that is all. -/
theorem State.approach_dev {s : State} {who : Option Nat} {pa n : Nat} (h : s.fabric.bias = []) :
    ∃ g, s.approach who (.dev pa) n = { s with fabric := { s.fabric with grants := g } } := by
  have hb : ∀ (g : Tab Grant), ({ s with fabric := { s.fabric with grants := g } } : State).hostBiased pa = false := fun g => by
    simp only [State.hostBiased, h, List.any_nil]
  unfold State.approach
  dsimp only
  rw [if_neg (by rw [hb]; exact Bool.false_ne_true)]
  exact ⟨_, rfl⟩

theorem memRead_append (m : List Host.Cell) (a k n : Nat) : memRead m a k ++ memRead m (a + k) n = memRead m a (k + n) := by
  induction k generalizing a with
  | zero => simp [memRead]
  | succ k ih => rw [show k + 1 + n = (k + n) + 1 by omega]; simp only [memRead, List.cons_append, ← ih (a + 1)]; congr 3; omega

/-- A state after reads of a core through its L1: the L1 and the grants may be others. -/
def State.afterReads (s : State) (c : Nat) (g : Tab Grant) (l : Tab L1Byte) : State :=
  ({ s with fabric := { s.fabric with grants := g } } : State).updCore c fun k => { k with l1 := l }

theorem Tab.set_set {α : Type} (t : Tab α) (k : Nat) (v w : α) : Tab.set (Tab.set t k v) k w = Tab.set t k w := by
  induction t with
  | nil => simp [Tab.set]
  | cons e t ih => 
    obtain ⟨a, b⟩ := e
    simp only [Tab.set]
    by_cases h1 : k < a
    · simp [h1, Tab.set]
    · by_cases h2 : k = a
      · simp [h2, Tab.set]
      · simp [h1, h2, Tab.set, ih]
theorem State.afterReads_twice (s : State) (c : Nat) (g g' : Tab Grant) (l l' : Tab L1Byte) :
    (s.afterReads c g l).afterReads c g' l' = s.afterReads c g' l' := by
  have h : (s.afterReads c g l).core c = { s.core c with l1 := l } := State.core_updCore_self ..
  show ({ s with
    fabric := { s.fabric with grants := g' }
    cores := Tab.set (Tab.set s.cores c { s.core c with l1 := l }) c { (s.afterReads c g l).core c with l1 := l' } } : State) = _
  rw [h, Tab.set_set]; rfl
/-- Reads through the L1 leave alone where a translation leads. -/
theorem State.xlate_afterReads (s : State) (c : Nat) (g : Tab Grant) (l : Tab L1Byte) (path part : Nat) (va : DWord) (acc : Acc) :
    ((s.afterReads c g l).xlate (some c) path part va acc).2 = (s.xlate (some c) path part va acc).2 := by
  refine State.xlate_congr (s := s) (t := s.afterReads c g l) rfl rfl rfl rfl ?_ path part va acc
  rw [State.tlbOf, State.afterReads, State.core_updCore_self]; rfl

/-- A read of device memory through a core's L1 changes, where no frame is in host bias, the L1 and the grants, and nothing else. -/
theorem State.readL1_after {s : State} (c pa n : Nat) (h : s.fabric.bias = []) :
    ∃ g l, (s.readL1 c (.dev pa) n false true).1 = s.afterReads c g l := by
  have hat : (Loc.dev pa).at_ (-((pa % 32 : Nat) : Int)) = .dev (pa - pa % 32) := by
    simp only [Loc.at_]; congr 1; omega
  obtain ⟨g, hg⟩ := State.approach_dev (s := s.l1Lapse c (.dev pa)) (who := some c) (pa := pa - pa % 32) (n := 32) h
  simp only [State.readL1, Bool.false_eq_true, if_false, if_true, Loc.key, hat, hg]
  split
  · exact ⟨s.fabric.grants, _, State.afterReads_twice s c s.fabric.grants s.fabric.grants _ _⟩
  · exact ⟨g, _, State.afterReads_twice s c s.fabric.grants g _ _⟩
theorem State.readL1s_after {s : State} (c fuel pa n : Nat) (h : s.fabric.bias = []) :
    ∃ g l, (State.readL1s c (fuel + 1) (.dev pa) n s).1 = s.afterReads c g l := by
  induction fuel generalizing s pa n with
  | zero => exact State.readL1_after c pa (min n (32 - (Loc.dev pa).key % 32)) h
  | succ fuel ih =>
    rw [State.readL1s]
    obtain ⟨g, l, h1⟩ := State.readL1_after (s := s) c pa (min n (32 - (Loc.dev pa).key % 32)) h
    obtain ⟨g', l', h2⟩ := ih (s := s.afterReads c g l) (pa + min n (32 - (Loc.dev pa).key % 32)) (n - min n (32 - (Loc.dev pa).key % 32)) h
    dsimp only
    refine ⟨g', l', ?_⟩
    rw [h1, ← State.afterReads_twice s c g g' l l', ← h2]
    rfl

/-- What a read of one sector of device memory does where the L1 agrees with memory: it gives memory's bytes, and keeps that. -/
theorem State.readL1_dev {s : State} {c pa n : Nat} (ha : s.L1Agrees c) (hn : pa % 32 + n ≤ 32) (hp : pa + 32 < 2 ^ 56) :
    (s.readL1 c (.dev pa) n false true).2 = memRead s.mem pa n
      ∧ (s.readL1 c (.dev pa) n false true).1.mem = s.mem ∧ (s.readL1 c (.dev pa) n false true).1.L1Agrees c := by
  have hat : (Loc.dev pa).at_ (-((pa % 32 : Nat) : Int)) = .dev (pa - pa % 32) := by
    simp only [Loc.at_]; congr 1; omega
  obtain ⟨ha, hbias, hlate⟩ := ha
  -- the state in which the sector is read from below
  obtain ⟨u, hu, hum, huc, hub⟩ : ∃ u : State,
      (if (List.range 32).all fun i => (Tab.get? ((s.l1Lapse c (.dev pa)).core c).l1 ((Loc.dev pa).key - (Loc.dev pa).key % 32 + i)).isSome
        then s.l1Lapse c (.dev pa)
        else (s.l1Lapse c (.dev pa)).approach (some c) ((Loc.dev pa).at_ (-(((Loc.dev pa).key % 32 : Nat) : Int))) 32) = u
      ∧ u.mem = s.mem ∧ u.core c = (s.l1Lapse c (.dev pa)).core c ∧ u.fabric.bias = [] := by
    refine ⟨_, rfl, ?_⟩
    split
    · exact ⟨rfl, rfl, hbias⟩
    · obtain ⟨g, hg⟩ := State.approach_dev (s := s.l1Lapse c (.dev pa)) (who := some c) (pa := pa - pa % 32) (n := 32) hbias
      simp only [Loc.key, hat, hg]
      exact ⟨rfl, rfl, hbias⟩
  have hl : ∀ e ∈ (u.core c).l1, e.2.dirty = false ∧ (e.1 < 2 ^ 56 → e.2.val = memGet s.mem e.1) := fun e he => by
    rw [huc] at he
    simp only [State.l1Lapse, State.core_updCore_self, List.mem_filter] at he
    exact ha e he.1
  have hb : u.below (.dev (pa - pa % 32)) 32 = memRead s.mem (pa - pa % 32) 32 := by
    rw [← hum]
    simp only [State.below, State.hubBytes, State.hostBiased, hub, List.any_nil, Bool.false_eq_true, if_false]
  have hf : ∀ e ∈ l1Fill (u.core c).l1 (pa - pa % 32) (memRead s.mem (pa - pa % 32) 32),
      e.2.dirty = false ∧ (e.1 < 2 ^ 56 → e.2.val = memGet s.mem e.1) := fun e he => by
    rcases mem_l1Fill he with he | ⟨i, hi, hk, hd⟩
    · exact hl e he
    · have hi' : i < 32 := by
        have := (List.getElem?_eq_some_iff.1 hi).1; rwa [memRead_length] at this
      rw [memRead_eq_listGen, listGen_get? _ hi'] at hi
      exact ⟨hd, fun _ => by rw [hk]; exact (Option.some.inj hi).symm⟩
  have hr : s.readL1 c (.dev pa) n false true =
      (u.updCore c fun x => { x with l1 := l1Fill (u.core c).l1 (pa - pa % 32) (memRead s.mem (pa - pa % 32) 32) },
       listGen (fun i => ((Tab.get? (l1Fill (u.core c).l1 (pa - pa % 32) (memRead s.mem (pa - pa % 32) 32)) (pa + i)).getD default).val) n) := by
    unfold State.readL1
    simp only [Bool.false_eq_true, if_false, hu]
    simp only [Loc.key, hat, hb, if_true]
  rw [hr]
  refine ⟨?_, hum, ?_, hub, ?_⟩
  · rw [memRead_eq_listGen s.mem pa n]
    refine listGen_congr fun i hi => ?_
    have hs := l1Fill_has (t := (u.core c).l1) (k := pa - pa % 32) (i := pa % 32 + i)
      (bs := memRead s.mem (pa - pa % 32) 32) (by rw [memRead_length]; omega)
    rw [show pa - pa % 32 + (pa % 32 + i) = pa + i by omega] at hs
    obtain ⟨v, hv⟩ := Option.isSome_iff_exists.1 hs
    rw [hv]
    exact (hf _ (Tab.mem_of_get? hv)).2 (show pa + i < 2 ^ 56 by omega)
  · intro e he
    simp only [State.core_updCore_self] at he
    rw [show (u.updCore c _).mem = s.mem from hum]
    exact hf e he
  · simp only [State.core_updCore_self, huc]
    simp only [State.l1Lapse, State.core_updCore_self]
    exact hlate

/-- What a read of device memory of any length does where the L1 agrees with memory. -/
theorem State.readL1s_dev {c fuel : Nat} {s : State} {pa n : Nat} (ha : s.L1Agrees c) (hf : n = 0 ∨ pa % 32 + n ≤ 32 * fuel) (hp : pa + n + 32 < 2 ^ 56) :
    (State.readL1s c fuel (.dev pa) n s).2 = memRead s.mem pa n
      ∧ (State.readL1s c fuel (.dev pa) n s).1.mem = s.mem ∧ (State.readL1s c fuel (.dev pa) n s).1.L1Agrees c := by
  induction fuel generalizing s pa n with
  | zero =>
    have : n = 0 := by omega
    subst this; exact ⟨rfl, rfl, ha⟩
  | succ fuel ih =>
    simp only [State.readL1s, Loc.key]
    obtain ⟨h1, h2, h3⟩ := State.readL1_dev (n := min n (32 - pa % 32)) ha (by omega) (by omega : pa + 32 < 2 ^ 56)
    generalize s.readL1 c (.dev pa) (min n (32 - pa % 32)) false true = x at h1 h2 h3
    obtain ⟨t, bs⟩ := x
    simp only at h1 h2 h3 ⊢
    have hat : (Loc.dev pa).at_ ((min n (32 - pa % 32) : Nat) : Int) = .dev (pa + min n (32 - pa % 32)) := by
      simp only [Loc.at_]; congr 1
    rw [hat]
    obtain ⟨k1, k2, k3⟩ := ih (s := t) (pa := pa + min n (32 - pa % 32)) (n := n - min n (32 - pa % 32)) h3 (by omega) (by omega)
    refine ⟨?_, by rw [k2, h2], k3⟩
    rw [k1, h1, h2, memRead_append]
    congr 1; omega

/-- A lane's read of device memory, where the L1 agrees with memory: memory's bytes, and the L1 still agrees. -/
theorem State.askV_dev {s : State} {c lid part : Nat} {tid : Option Nat} {va : DWord} {pa n : Nat} (ha : s.L1Agrees c)
    (hx : (s.xlate (some c) 0 part va Acc.read).2 = .ok (.dev pa)) (hb : s.badRange pa n = false) (hp : pa + n + 32 < 2 ^ 56) :
    (s.askV c lid tid part va n).2 = .data (memRead s.mem pa n) ∧ (s.askV c lid tid part va n).1.mem = s.mem
      ∧ (s.askV c lid tid part va n).1.L1Agrees c
      ∧ ∃ g l, (s.askV c lid tid part va n).1 = (s.xlate (some c) 0 part va Acc.read).1.afterReads c g l := by
  have ht : (s.xlate (some c) 0 part va Acc.read).1.L1Agrees c :=
    State.l1Agrees_of (State.xlate_l1 ..) (State.xlate_mem ..) (State.xlate_bias ..) (State.xlate_late ..) ha
  have h2 := State.xlate_mem s (some c) 0 part va Acc.read
  have h3 := State.xlate_errs s (some c) 0 part va Acc.read
  unfold State.askV
  generalize s.xlate (some c) 0 part va Acc.read = x at hx ht h2 h3
  obtain ⟨t, y⟩ := x
  simp only at hx ht h2 h3; subst hx
  have hbad : (Loc.dev pa).bad t n = false := by
    simp only [Loc.bad, State.badRange, h3]; exact hb
  have hown : t.takeOwn c lid tid (Loc.dev pa).key n = t := by
    simp only [State.takeOwn, State.takeLates, ht.2.2, List.filter_nil, List.foldl_nil]
  simp only [hbad, Bool.false_eq_true, if_false, State.coreBytes, hown]
  obtain ⟨k1, k2, k3⟩ := State.readL1s_dev (fuel := n / 32 + 2) ht (by omega) hp
  obtain ⟨g, l, k4⟩ := State.readL1s_after c (n / 32 + 1) pa n ht.2.1
  generalize State.readL1s c (n / 32 + 2) (.dev pa) n t = z at k1 k2 k3 k4
  obtain ⟨u, bs⟩ := z
  simp only at k1 k2 k3 k4 ⊢
  exact ⟨by rw [k1, h2], by rw [k2, h2], k3, g, l, k4⟩

end Sys2Proof.Machine
end

