-- ==== Sys2Proof/Tests/Slice0.lean ====
section
/-! SUPPORT. Tests of the model on words and values worked out by hand from the manual, the smoke test of WellFormed,
and for every statement that has hypotheses states and operands that meet them. -/

namespace Sys2Proof.Tests

set_option Elab.async false

open Sys2Proof.Machine Sys2Proof.Claims

/-! ### Words written out from R63, R70, R71, R76, R77 and R119, one for each opcode group -/

/-- An instruction with these operands, modifiers and immediate. -/
def op (d a b c : Opnd) (mods : BitVec 7 := 0) (imm : Word := 0) : Op :=
  { (default : Op) with d, a, b, c, mods, imm }
/-- One that names no operand. -/
def noOp : Op := op .zero .zero .zero .zero

theorem test_decode_blk : (decodeWord .drove 0x00000000_02000000_02000003_00000001#128).toOption =
    some (.blk default 0x2_00000001 true true) := by decide +kernel
theorem test_decode_imad_sat_u : (decodeWord .drove 0x02500000_14050142_83000401_00000000#128).toOption =
    some (.imad { op (.w 5) (.w 1) (.c 2) (.k 3) 1 with sat := true, ctl.wait := 2, ctl.set := 2, ctl.setv := true }) := by
  decide +kernel
theorem test_decode_bfi : (decodeWord .drove 0x00000000_290102F1_03D00000_00001008#128).toOption =
    some (.bfi { op (.w 1) (.w 2) .imm (.w 3) 0 0x1008 with guard := ⟨true, true, 2⟩ }) := by decide +kernel
theorem test_decode_cmp64_geu_and : (decodeWord .drove 0x00000000_3CC70406_C1000035_00000000#128).toOption =
    some (.cmp64 (op (.p 7) (.w 4) (.w 6) (.p 1) 0x35)) := by decide +kernel
theorem test_decode_ffma : (decodeWord .drove 0x00000000_430A0B0C_0D001802_00000000#128).toOption =
    some (.ffma { op (.w 10) (.w 11) (.w 12) (.w 13) 2 with rm := 3 }) := by decide +kernel
theorem test_decode_cvt : (decodeWord .drove 0x00000000_500102F0_F0004C03_00000000#128).toOption =
    some (.cvt { op (.w 1) (.w 2) .zero .zero 3 with fmt := 1, rm := 1, sat := true }) := by decide +kernel
theorem test_decode_tscan : (decodeWord .drove 0x00000000_680102F0_F0000818_00000000#128).toOption =
    some (.tscan { op (.w 1) (.w 2) .zero .zero 0x18 with rm := 1 }) := by decide +kernel
theorem test_decode_st_b64_pkg_rel : (decodeWord .drove 0x00000000_71F00204_F0000243_FFFFFFF8#128).toOption =
    some (.st { op .zero (.w 2) (.w 4) .zero 0x43 0xFFFFFFF8 with scope := 4 }) := by decide +kernel
theorem test_decode_atomc_b64_sys : (decodeWord .drove 0x00000000_81060204_08000290_00000000#128).toOption =
    some (.atomc { op (.w 6) (.w 2) (.w 4) (.w 8) 0x10 with scope := 5 }) := by decide +kernel
theorem test_decode_fence : (decodeWord .drove 0x00000000_90F0F0F0_F0000183_00000000#128).toOption =
    some (.fence { op .zero .zero .zero .zero 3 with scope := 3 }) := by decide +kernel
theorem test_decode_cpy : (decodeWord .drove 0x00000000_A0080204_05000000_00000000#128).toOption =
    some (.cpy (op (.w 8) (.w 2) (.w 4) (.w 5))) := by decide +kernel
theorem test_decode_mma : (decodeWord .drove 0x00000000_B1F00102_F0000013_00000000#128).toOption =
    some (.mma (op .zero (.w 1) (.w 2) .zero 0x13)) := by decide +kernel
theorem test_decode_scond : (decodeWord .shepherd 0x00000000_C70401F0_F0000000_00000000#128).toOption =
    some (.scond (op (.s 4) (.s 1) .zero .zero)) := by decide +kernel
theorem test_decode_cntwait : (decodeWord .drove 0x00000000_D3020406_F0000000_00000000#128).toOption =
    some (.cntwait (op (.w 2) (.w 4) (.w 6) .zero)) := by decide +kernel
theorem test_decode_srd : (decodeWord .drove 0x00000000_E201F0F0_F0000000_00000100#128).toOption =
    some (.srd (op (.w 1) .zero .zero .zero 0 0x100)) := by decide +kernel
theorem test_decode_cctl_farinv : (decodeWord .drove 0x00000000_E4F00203_F0000003_00000000#128).toOption =
    some (.cctlFarinv (op .zero (.w 2) (.w 3) .zero 3)) := by decide +kernel

/-! ### WellFormed: a well-formed term, and one ill-formed term for each check -/

/-- `IADD w1, w2, w3`. -/
def okAdd : Op := op (.w 1) (.w 2) (.w 3) .zero
/-- `LD.b32 w1, [w2]`. -/
def okLd : Op := op (.w 1) (.w 2) .zero .zero 2

theorem test_wf_accepts : (Instr.iadd okAdd).wf .drove = true ∧ (Instr.ld okLd).wf .drove = true := by decide +kernel
theorem test_wf_refuses_level2 : (Instr.ldgs (op .zero (.w 2) (.w 4) (.w 5) 2)).wf .drove = true
    ∧ (Instr.ldgs (op .zero (.w 2) (.w 4) (.w 5) 2)).wf { Ctx.drove with level2 := true } = false := by decide +kernel
theorem test_wf_refuses_agent : (Instr.spawn (op (.s 1) (.s 2) (.s 3) .zero)).wf .drove = false
    ∧ (Instr.br noOp).wf .shepherd = false ∧ (Instr.blk default 0 false false).wf .shepherd = false := by decide +kernel
theorem test_wf_refuses_event : (Instr.hbmRefresh 0).wf .drove = false := by decide +kernel
theorem test_wf_refuses_set : (Instr.iadd { okAdd with ctl.set := 1 }).wf .drove = false
    ∧ (Instr.blk { (default : Ctl) with set := 1 } 0 false false).wf .drove = false := by decide +kernel
theorem test_wf_refuses_guard :
    (Instr.iadd { okAdd with guard := ⟨false, true, 0⟩ }).wf .drove = false
    ∧ (Instr.iadd { okAdd with guard := ⟨false, false, 1⟩ }).wf .drove = false := by decide +kernel
theorem test_wf_refuses_format : (Instr.iadd { okAdd with fmt := 1 }).wf .drove = false := by decide +kernel
theorem test_wf_refuses_rounding : (Instr.iadd { okAdd with rm := 1 }).wf .drove = false
    ∧ (Instr.fadd { okAdd with rm := 5 }).wf .drove = false := by decide +kernel
theorem test_wf_refuses_saturate : (Instr.imin { okAdd with sat := true }).wf .drove = false := by decide +kernel
theorem test_wf_refuses_scope : (Instr.iadd { okAdd with scope := 1 }).wf .drove = false
    ∧ (Instr.ld { okLd with scope := 6 }).wf .drove = false := by decide +kernel
theorem test_wf_refuses_modifiers : (Instr.iadd { okAdd with mods := 2 }).wf .drove = false := by decide +kernel
theorem test_wf_refuses_immediate : (Instr.iadd { okAdd with imm := 1 }).wf .drove = false
    ∧ (Instr.trap { noOp with imm := 256 }).wf .drove = false := by decide +kernel
theorem test_wf_refuses_fields : (Instr.iadd { okAdd with mods := 1 }).wf .drove = false
    ∧ (Instr.ld { okLd with mods := 5 }).wf .drove = false := by decide +kernel
theorem test_wf_refuses_codes : (Instr.iadd { okAdd with a := .resv 0xD9 }).wf .drove = false
    ∧ (Instr.iadd { okAdd with a := .s 1 }).wf .drove = false := by decide +kernel
theorem test_wf_refuses_used_immediate :
    (Instr.ld { okLd with a := .imm }).wf .drove = false := by decide +kernel
theorem test_wf_refuses_destination : (Instr.iadd { okAdd with d := .p 0 }).wf .drove = false
    ∧ (Instr.add64 (op (.w 1) (.w 2) (.w 4) .zero)).wf .drove = false := by decide +kernel
theorem test_wf_refuses_sources : (Instr.add64 (op (.w 0) (.w 3) (.w 4) .zero)).wf .drove = false
    ∧ (Instr.iabs okAdd).wf .drove = false ∧ (Instr.sel { okAdd with c := .w 1 }).wf .drove = false := by decide +kernel
theorem test_wf_refuses_format_code :
    (Instr.pkadd { okAdd with fmt := 0 }).wf .drove = false := by decide +kernel
theorem test_wf_refuses_operands :
    (Instr.swr (op .zero (.w 1) .zero .zero 0 0x10)).wf .drove = false := by decide +kernel

/-! ### A state with one launch on core 0 and one agent there, which has been granted its issue

The page table of partition 0 is one page at address 0: a leaf of 1 GiB maps 0x4000_0000 on to device memory from 0 on.
At 0x4000_1080 stands a BLK with the landing bit; the image takes 0x4000_1000 to 0x4000_2000, trap frames stand from
0x4000_2000 on. -/

/-- The agent. -/
def ag : AgentRef := ⟨0, 0⟩
/-- A lane whose w registers hold these words, from w0 on. -/
def lane (ws : List Word) : Lane :=
  { tid := 0, zeroed := true, seed := 0, w := ws.mapIdx fun i v => (i, v), p := [], cw := [], bad := [], parking := none, exit := none }
/-- A launch with these header words 0 to 3. -/
def launch (h : List Word) : Launch :=
  let l : Launch := { fetchLaunch with codeBase := 0x40001000, codeSize := 0x1000, hdrAddr := 0x40001000 }
  let l := { l with rec_ := [0, 0, 1, 0x10000, 0x40003000, 0, 0, 0, 0, 0, 0, 0, 0, 0, 0, 0] }
  { l with hdr := h ++ [0, 0x1040, 0x10000, 0x4010] ++ List.replicate 8 0xFFFFFFFF, tframe := 0x40002000 }
/-- A drove of one lane, or a shepherd, at 0x4000_1000. -/
def agent (shep : Bool) (ws : List Word) : Agent :=
  { fetchAgent shep with pc := 0x40001000, blk := 0x40001000, lanes := [(0, lane ws)] }
def pages : List Host.Cell := [(0, 1), (8, 0x73), (0x1084, 2), (0x108B, 2)]
def base0 (l : Launch) (a : Agent) : State :=
  let th := { Thread.fresh 0 0 0 with place := .drove 0 }
  let k : Core := { Core.empty with agents := [(0, a)], nextAg := 1, threads := [(0, th)], res := [(0, Res.empty)] }
  let s : State := { State.reset with cur := some ag, cores := [(0, k)], launches := [(0, l)], nextLid := 1, mem := pages }
  s.setReg 0x50014 0x80000000
def base (ws : List Word) : State := base0 (launch [3, 0, 0x80, 0x80]) (agent false ws)
def baseShep (ws : List Word) : State := base0 (launch [3, 0, 0x80, 0x80]) (agent true ws)
/-- The environment of the one active lane. -/
def env (s : State) (o : Op) : Env := ((s.latch ag o).envs ag o).headD default
/-- The agent has one active lane: `Lone` holds of it and `env`. -/
abbrev One (s : State) (o : Op) : Prop := s.cur = some ag ∧ ((s.latch ag o).envs ag o).length = 1
theorem lone_of {s : State} {o : Op} (h : One s o) : Lone s ag o (env s o) := by
  refine ⟨h.1, ?_⟩
  obtain ⟨e, he⟩ := List.length_eq_one_iff.mp h.2
  rw [env, he]; rfl
/-- Words in device memory. -/
def withWords (s : State) (pa : Nat) (ws : List Word) : State := { s with mem := memWrite s.mem pa (bytesOfWords ws) }
/-- The words that an instruction's result brings to registers. -/
def results (s : State) (i : Instr) : List Word :=
  match exec i s with
  | .next t => (t.agentD ag).pending.flatMap fun p => p.writes.map (·.val)
  | _ => []

/-- A state after some cycles and nanoseconds. -/
def later (s : State) (cycles nanos : Nat) : State := { s with cycles, nanos }
/-- The error of a computation. -/
def failure {ε α : Type} : Except ε α → Option ε
  | .error e => some e
  | .ok _ => none
theorem ok_of {ε α : Type} {x : Except ε α} {v : α} (h : x.toOption = some v) : x = .ok v := by
  cases x <;> simp_all [Except.toOption]
theorem error_of {ε α : Type} {x : Except ε α} {v : ε} (h : failure x = some v) : x = .error v := by
  cases x <;> simp_all [failure]
theorem pair_of {α β : Type} {x : α × β} {y : β} (h : x.2 = y) : x = (x.1, y) := by rw [← h]
theorem reaches_of {e : Env} {a : DWord} {n : Nat} {acc : Acc} {pa : Nat}
    (h : a.toNat % n = 0 ∧ (e.s.xlate (some e.r.core) 0 e.l.part a acc).2.toOption = some (.dev pa) ∧ e.l.race = false
      ∧ e.s.fabric.biasJob = none ∧ e.s.badRange pa n = false) : Reaches e a n acc pa :=
  ⟨h.1, ok_of h.2.1, h.2.2.1, h.2.2.2.1, h.2.2.2.2⟩
theorem localAt_of {s : State} {part : Nat} {va : DWord} {ok : DWord → Bool} {pa : Nat} (e : DWord) (lv at_ : Nat)
    (h : canonical va = true ∧ s.walkLeaf part va = some (e, lv, at_) ∧ pteKind e = 1 ∧ ok e = true
      ∧ pa = pteAddr e + va57 va % 2 ^ levelShift lv) : LocalAt s part va ok pa :=
  ⟨h.1, e, lv, at_, h.2⟩
theorem wordThere_of {s : State} {c : Nat} {l : Launch} {va : DWord} {w : IWord} {pa : Nat} (e : DWord) (lv at_ : Nat)
    (h : (l.inCode va = true ∧ (s.core c).icache = [] ∧ (s.core c).tlb = [] ∧ s.fabric.walks = []) ∧ (canonical va = true
      ∧ s.walkLeaf l.part va = some (e, lv, at_) ∧ pteKind e = 1 ∧ pteX e = true ∧ pa = pteAddr e + va57 va % 2 ^ levelShift lv)
      ∧ s.badRange pa 16 = false ∧ s.hostBiased pa = false ∧ w = l.patch (chipOf c) va (wordOfBytes (memRead s.mem pa 16))) : WordThere s c l va w :=
  ⟨h.1.1, h.1.2.1, h.1.2.2.1, h.1.2.2.2, pa, localAt_of e lv at_ h.2.1, h.2.2.1, h.2.2.2⟩

theorem ordinary_of {s : State} {m : List Host.Cell} {pa n : Nat} (h : s.parts = [] ∧ ∀ x ∈ s.launches, x.2.rec64 6 = 0 ∧ x.2.race = false) :
    Ordinary { s with mem := m } pa n :=
  ⟨fun x hx _ => ⟨fun h' => absurd (h.2 x hx).1 h', fun h' => by simp [(h.2 x hx).2] at h'⟩,
   fun p hp => by rw [show p ∈ s.parts ↔ p ∈ [] by rw [h.1]] at hp; cases hp⟩

/-! ### Results worked out by hand from the rules named -/

/-- R91: the low 32 bits. -/
theorem test_iadd_wraps : results (base [0xFFFFFFFF, 2]) (.iadd (op (.w 2) (.w 0) (.w 1) .zero)) = [1] := by decide +kernel
/-- R92: signed saturation. -/
theorem test_iadd_saturates :
    results (base [0x7FFFFFFF, 1]) (.iadd { op (.w 2) (.w 0) (.w 1) .zero with sat := true }) = [0x7FFFFFFF] := by
  decide +kernel
/-- R94: the remainder has the sign of A; the most negative number by −1 wraps. -/
theorem test_irem_sign : results (base [0xFFFFFFF9, 2]) (.irem (op (.w 2) (.w 0) (.w 1) .zero)) = [0xFFFFFFFF] := by
  decide +kernel
theorem test_idiv_wraps :
    results (base [0x80000000, 0xFFFFFFFF]) (.idiv (op (.w 2) (.w 0) (.w 1) .zero)) = [0x80000000] := by decide +kernel
/-- R96: a shift by 32 gives 0, by 33 in modulo-32 form it is a shift by 1. -/
theorem test_shl_by_32 : results (base [1, 32]) (.shl (op (.w 2) (.w 0) (.w 1) .zero)) = [0] := by decide +kernel
theorem test_shl_modulo : results (base [1, 33]) (.shl (op (.w 2) (.w 0) (.w 1) .zero 1)) = [2] := by decide +kernel
/-- R97: bits 11 to 4, sign-extended. -/
theorem test_bfx_signed : results (base [0x00000FA5, 0x00010804]) (.bfx (op (.w 2) (.w 0) (.w 1) .zero)) = [0xFFFFFFFA] := by
  decide +kernel
/-- R99: −1 < 1 signed, not unsigned. -/
theorem test_icmp_lt : results (base [0xFFFFFFFF, 1]) (.icmp (op (.p 0) (.w 0) (.w 1) .zero 2)) = [1] := by decide +kernel
theorem test_icmp_ltu : results (base [0xFFFFFFFF, 1]) (.icmp (op (.p 0) (.w 0) (.w 1) .zero 0x12)) = [0] := by decide +kernel
/-- R102: the carry goes from the low word into the high word. -/
theorem test_add64_carries :
    results (base [0xFFFFFFFF, 0, 1, 0]) (.add64 (op (.w 4) (.w 0) (.w 2) .zero)) = [0, 1] := by decide +kernel
/-- R103, R104: 1.5 + 2.25 = 3.75; 1 ÷ 3 to nearest, and upwards one more. -/
theorem test_fadd : results (base [0x3FC00000, 0x40100000]) (.fadd (op (.w 2) (.w 0) (.w 1) .zero)) = [0x40700000] := by
  decide +kernel
theorem test_fdiv : results (base [0x3F800000, 0x40400000]) (.fdiv (op (.w 2) (.w 0) (.w 1) .zero)) = [0x3EAAAAAB] := by
  decide +kernel
theorem test_fdiv_down :
    results (base [0x3F800000, 0x40400000]) (.fdiv { op (.w 2) (.w 0) (.w 1) .zero with rm := 2 }) = [0x3EAAAAAA] := by
  decide +kernel
/-- R106: √2 to nearest. -/
theorem test_fsqrt : results (base [0x40000000]) (.fsqrt (op (.w 2) (.w 0) .zero .zero)) = [0x3FB504F3] := by decide +kernel
/-- R154: a 16-bit load from an address extends its sign; memory holds 0x8001 there. -/
theorem test_ld_b16_signed :
    results (withWords (base [0x40003000, 0]) 0x3000 [0x00018001]) (.ld { op (.w 2) (.w 0) .zero .zero 0x49 with scope := 3 }) = [0xFFFF8001] := by
  decide +kernel
/-- R164: ATOM.inc wraps to 0 at its bound. -/
theorem test_atom_inc : results (withWords (base [0x40003000, 0, 7]) 0x3000 [7])
    (.atom { op (.w 3) (.w 0) (.w 2) .zero 12 with scope := 2 }) = [7] := by decide +kernel
/-- R126, R123: a branch back by one word. -/
theorem test_br_back : (match exec (.br (op .zero .zero .zero .zero 0 0xFFFFFFFF)) (base []) with
    | .next t => (t.agentD ag).lanes.map (·.2.exit)
    | _ => []) = [some (0x40000FF0, .plain)] := by decide +kernel
/-- R201, R203: TRAP takes the thread to the handler, with cause 0x12 and the offset of its word. -/
theorem test_trap_enters_handler : (match exec (.trap (op .zero .zero .zero .zero 0 7)) (base []) with
    | .next t => [(t.thread 0 0 0).tcause, (t.thread 0 0 0).tpc, (t.thread 0 0 0).next.setWidth 32]
    | _ => []) = [0x12, 0, 0x40001080] := by decide +kernel
/-- R139: SLOOP counts down and branches while the count is not 0. -/
theorem test_sloop : (match exec (.sloop (op (.s 0) (.s 0) .zero .zero 0 4)) (baseShep [2]) with
    | .next t => [(t.agentD ag).pc]
    | _ => []) = [0x40001040] := by decide +kernel
/-- R100: the step that fetches `MOVI w1, 5`. -/
theorem test_step_runs_fetched_word :
    (match step (State.reset.withFetchWord 128 0x00000000_3401F1F0_F0000000_00000005) with
    | .next t => ((t.agentD ag).pending.flatMap fun p => p.writes.map fun w => (w.reg, w.val), (t.agentD ag).pc)
    | _ => ([], 0)) = ([(.w 1, 5)], 80) := by decide +kernel

/-! ### States and operands that meet the hypotheses of the statements, clause by clause -/

theorem witness_DecodeOfEncode : (Instr.iadd okAdd).wf .drove = true ∧ (Instr.blk default 0 true true).wf .drove = true
    ∧ (Instr.spawn (op (.s 1) (.s 2) (.s 3) .zero)).wf .shepherd = true := by decide +kernel
theorem witness_EncodeOfDecode :
    decodeWord .drove 0x00000000_10010203_F0000000_00000000#128 = .ok (.iadd okAdd) := ok_of (by decide +kernel)
theorem witness_ChecksInOrder :
    (bits (0xFF#128 <<< 88) 88 8 = 0xFF ∧ ofOpcode (bits (0x0F#128 <<< 88) 88 8).toNat (decodeOp false (0x0F#128 <<< 88)) = none
      ∧ level3Only (bits (0x79#128 <<< 88) 88 8) = true)
    ∧ ∃ i p, ofOpcode (bits (0xC3#128 <<< 88) 88 8).toNat (decodeOp false (0xC3#128 <<< 88)) = some i ∧ i.spec = some p
      ∧ p.drove = false := ⟨by decide +kernel, _, _, rfl, rfl, rfl⟩
theorem witness_MemoryOperations : Memory.wf pages = true ∧ Memory.wf [] = true := by decide +kernel
theorem witness_ValuesAreLittleEndian : Memory.wf pages = true ∧ (7 : Nat) < 8 ∧ (3 : Nat) < 4 := by decide +kernel
theorem witness_StepKeepsMemoryAndPackageRegisters :
    PackageInv State.reset ∧ ∃ t, step { State.reset with agenda := [.event (.hbmRefresh 0)] } = .next t :=
  ⟨by unfold PackageInv; decide +kernel, _, rfl⟩
theorem witness_StepsGoOn : ∀ trip, let s : State := { State.reset with
      agenda := [.event (.hbmRefresh 0)], fw := { State.reset.fw with trip } }
    s.cur = none ∧ isInstruction (.hbmRefresh 0) = false ∧ s.fw.trip = trip ∧ standby (.hbmRefresh 0) = false
      ∧ metBias (exec (.hbmRefresh 0) { s.unblock.newCycle with agenda := [] }) = false :=
  fun _ => ⟨rfl, rfl, rfl, rfl, rfl⟩
theorem witness_StepRunsTheDecodedInstruction :
    ∀ bad ∈ [[], [2]],
    let s := (State.reset.withFetchWord 128 0x00000000_10010203_F0000000_00000000).updAgent ag fun a =>
      { a with lanes := a.lanes.mapVals fun _ l => { l with bad } }
    let x := s.unblock.fetchWord 0 (s.launchD 0) 64
    s.cur = some ag ∧ x = (x.1, .ok 0x00000000_10010203_F0000000_00000000#128)
      ∧ decodeWord ((s.launchD 0).ctx false) 0x00000000_10010203_F0000000_00000000#128 = .ok (.iadd okAdd)
      ∧ (x.1.badLanes ag (.iadd okAdd) = [] ↔ bad = []) ∧ (x.1.agent? ag).isSome = true ∧ (x.1.agentD ag).shep = false := by
  intro bad h
  simp only [List.mem_cons, List.not_mem_nil, or_false] at h
  rcases h with rfl | rfl <;>
    exact ⟨rfl, pair_of (ok_of (by decide +kernel)), ok_of (by decide +kernel), by decide +kernel, by decide +kernel, by decide +kernel⟩
theorem witness_FetchAndEncodingFaults :
    (let s := State.reset.withFetchWord 128 (0x0F#128 <<< 88).toNat
     let x := s.unblock.fetchWord 0 (s.launchD 0) 64
     s.cur = some ag ∧ x = (x.1, .ok (0x0F#128 <<< 88)) ∧ (x.1.launchD 0).probe = false
      ∧ decodeWord ((s.launchD 0).ctx (s.agentD ag).shep) (0x0F#128 <<< 88) = .error .reservedOpcode)
    ∧ (let s := base0 (launch [3]) { agent false [] with pc := 0x40002000 }
       s.cur = some ag ∧ s.unblock.fetchWord 0 (s.launchD 0) 0x40002000 = (s, .error 8))
    ∧ (let s := withWords (base0 (launch [0x23]) (agent false [])) 0x1000 [0, 0, 0x0F000000, 0]
       let x := s.unblock.fetchWord 0 (s.launchD 0) 0x40001000
       s.cur = some ag ∧ x = (x.1, .ok (0x0F#128 <<< 88)) ∧ x.1.agent? ag = some (agent false [])
       ∧ decodeWord ((s.launchD 0).ctx false) (0x0F#128 <<< 88) = .error .reservedOpcode ∧ (x.1.launchD 0).probe = true
       ∧ (lane []).parking = none ∧ (lane []).guard (decodeOp false (0x0F#128 <<< 88)).guard = true)
    ∧ (let s := base []
       let l := s.launchD 0
       l.inCode 0x40001FF0 = true ∧ canonical 0x40001FF0 = true ∧ Tab.get? (s.core 0).icache (icKey l.part 0x40001FF0) = none
       ∧ s.tlbHit? (some 0) 5 l.part 0x40001FF0 (some (0x73, 3)) = none ∧ s.fabric.walks = [] ∧ s.walkLeaf l.part 0x40001FF0 = some (0x73, 3, 8)
       ∧ pteKind 0x73 = 1 ∧ pteX 0x73 = true ∧ s.badRange (pteAddr 0x73 + va57 0x40001FF0 % 2 ^ levelShift 3) 16 = false
       ∧ s.hostBiased (pteAddr 0x73 + va57 0x40001FF0 % 2 ^ levelShift 3) = false) := by
  refine ⟨⟨rfl, pair_of (ok_of ?_), ?_, error_of ?_⟩, ⟨rfl, ?_⟩, ⟨rfl, pair_of (ok_of ?_), ?_, error_of ?_, ?_⟩, ?_⟩
  · decide +kernel
  · decide +kernel
  · decide +kernel
  · exact pair_of (error_of (by decide +kernel))
  all_goals decide +kernel
theorem witness_ResultsLand : (base [1]).agent? ag = some (agent false [1]) ∧ (agent false [1]).pending = [] ∧ (agent false [1]).opnds = none
    ∧ (agent false [1]).lanes.wf = true ∧ Tab.get? (agent false [1]).lanes 0 = some (lane [1])
    ∧ (lane [1]).guard noOp.guard = true ∧ (lane [1]).guard { noOp with guard := ⟨true, true, 0⟩ }.guard = true
    ∧ ¬(lane [1]).guard { noOp with guard := ⟨true, false, 0⟩ }.guard = true ∧ noOp.d = .zero := by decide +kernel
theorem witness_VectorArithmeticFrame : isVectorArithmetic (.iadd okAdd) = true ∧ (base []).cur = some ag
    ∧ (base []).enables 0 0 = 0 ∧ ∃ t, exec (.iadd okAdd) (base []) = .next t :=
  ⟨rfl, rfl, rfl, _, rfl⟩

/-- Of every statement made with `Yields`, `YieldsUntrapped`, `TeamYields` or `TeamYieldsUntrapped`. -/
theorem witness_Yields : (base []).cur = some ag ∧ (base []).enables ag.core ((base []).agentD ag).lid = 0 := by
  decide +kernel
theorem witness_FloatArithmeticResults : (base [0, 1]).cur = some ag ∧ (base [0, 1]).enables ag.core ((base [0, 1]).agentD ag).lid = 0
    ∧ anyForm noOp = true := by decide +kernel
theorem witness_TeamResults :
    let s := base0 (launch [3]) { agent false [1, 2] with team := true }
    s.cur = some ag ∧ s.enables ag.core (s.agentD ag).lid = 0 := by decide +kernel
theorem witness_IntegerResults : wraps okAdd = true ∧ saturates { okAdd with sat := true } = true
    ∧ namesPred (.p 7) = true := by decide +kernel
theorem witness_BitCompareAndMoveResults : (op (.p 0) (.w 0) (.w 1) .zero 5).mbits 0 4 ≤ 5
    ∧ (op (.p 0) (.w 0) (.w 1) .zero 13).mbits 0 4 ≤ 13 ∧ (!namesPred (.w 1)) = true := by decide +kernel
theorem witness_DivideAndRemainder :
    let o := op (.w 1) (.w 0) .zero .zero
    let s := (base [5]).updRes 0 0 fun r => { r with num := 0x200000 }
    One s o ∧ (env s o).b32 o = 0 ∧ (s.enables 0 0).getLsbD 21 = true ∧ (s.agentD ag).shep = false := by
  decide +kernel
theorem witness_FloatSelectionAndFunctionResults : f32 0 ≠ .nan ∧ f32 0x7FC00000 = .nan ∧ f32 0x3F800000 = .fin false 8388608 8388608
    ∧ f32 0xFF800000 = .inf true
    ∧ 8388608 % 8388608 = 0 := by decide +kernel
theorem witness_RoundingToAnInteger : 5 % 2 ≠ 0 ∧ 4 % 2 = 0 ∧ 0 < 2 ∧ 4 ≤ 4 := by decide +kernel
theorem witness_NarrowResults :
    ((ifmt (8 : BitVec 5).toNat).isSome && (ifmt { noOp with mods := 8 }.fmt2).isSome) = true
    ∧ ((ifmt (3 : BitVec 5).toNat).isSome && (ifmt { noOp with mods := 8 }.fmt2).isSome) = false := by decide +kernel
theorem witness_PackedElementsAndQuantising :
    (31 < 32 ∧ elemFmt 8 ≠ 16 ∧ [1, 2, 3, 255].length = perReg 8)
    ∧ (let o := { op (.w 1) (.w 0) .zero .zero 0 0x7F800000 with fmt := 19, scope := 1 }
       let s := base0 (launch [3]) { agent false [0x3F800000] with team := true }
       (s.agentD ag).team = true ∧ (∃ b ∈ cvtBlocks o ((s.latch ag o).envs ag o), b.mem ≠ [])
       ∧ ∀ b ∈ cvtBlocks o ((s.latch ag o).envs ag o), b.res.outs = []) := by decide +kernel
theorem witness_TeamVote :
    let o := op .zero (.w 0) (.w 1) .zero
    let s := fun (tn : Word) (team : Bool) => (base0 (launch [3]) { agent false [63, 1] with team, tn }).updRes 0 0 fun r => { r with tn := 5 }
    (∀ tn : Word, tn = 4 ∨ tn = 5 → One (s tn true) o ∧ ((s tn true).agentD ag).team = true
      ∧ (∀ q ∈ ((s tn true).core 0).agents, q.2.wait = none)
      ∧ (∀ x ∈ ((s tn true).core 0).late, x.log = false) ∧ ((env (s tn true) o).a32 o).toNat < 64 ∧ ((s tn true).agentD ag).tn = tn ∧ ((s tn true).res 0 0).tn = 5)
    ∧ ((s 5 false).agentD ag).team = false := by
  intro o s
  refine ⟨?_, rfl⟩
  rintro tn (rfl | rfl) <;> decide +kernel

/-- The bell and the chute of the tests: the last of a launch. -/
def withBell (s : State) (x : Bell) : State := s.updRes 0 0 fun r => { r with bells := [(63, x)] }
def withChute (s : State) (x : Chute) : State := s.updRes 0 0 fun r => { r with chutes := [(15, x)] }

theorem witness_LoadsFromDeviceMemory :
    (∀ o ∈ [op (.w 4) (.w 0) .zero .zero 4, op (.w 4) (.w 0) .zero .zero 0, { op (.w 4) (.w 0) .zero .zero 2 with scope := 2 },
        { op (.w 4) (.w 0) .zero .zero 0x42 with scope := 5 }, { op (.w 4) (.w 0) .zero .zero 0x74 with scope := 3 }],
      let s := base [0x40003000, 0]
      One s o ∧ o.size ≤ 4 ∧ Reaches (env s o) ((env s o).gaddr o) o.bytes Acc.read 0x3000
        ∧ 0x3000 % 32 + o.bytes ≤ 32 ∧ Tab.wf (s.core 0).l1 = true ∧ (s.core 0).late = [] ∧ s.hostBiased 0x3000 = false
        ∧ LoadGoes s ag o)
    ∧ (∀ o ∈ [op (.w 4) (.w 0) .zero .zero 4 0xFFF0, op (.w 4) (.w 0) .zero .zero 2 0],
      let s := base [0]
      One s o ∧ 2 ≤ o.size ∧ o.size ≤ 4 ∧ ((env s o).saddr o).toNat % o.bytes = 0 ∧ ((env s o).saddr o).toNat < 65536
        ∧ Reaches (env s o) ((env s o).l.rec64 4 + ((env s o).saddr o).setWidth 64) o.bytes Acc.read (0x3000 + o.imm.toNat)
        ∧ (s.core 0).late = [])
    ∧ (let x : Late := { (default : Late) with id := 7, loc := .dev 0x3010, n := 16, keep := true, dst := [.w 4, .w 5, .w 6, .w 7] }
       let p : Pend := { sb := none, due := none, await := [loadKey 7], regs := [.w 4, .w 5, .w 6, .w 7], writes := [] }
       let a := { agent false [1] with pending := [p] }
       let s := (base0 (launch [3]) a).updCore 0 fun k => { k with late := [x], nextOut := 8 }
       (s.core 0).late = [x] ∧ x.loc = .dev 0x3010 ∧ 0x3010 % 32 + x.n ≤ 32 ∧ (s.core 0).outst = [] ∧ s.phase ≤ turnRank 5 0 0 0
         ∧ Tab.wf (s.core 0).l1 = true ∧ x.arg = false ∧ s.agent? ⟨0, x.ag⟩ = some a ∧ a.pending = [p] ∧ p.await = [loadKey x.id]
         ∧ x.log = false ∧ s.hostBiased 0x3010 = false
         ∧ ({ x with arg := true }).arg = true ∧ (s.launchD x.lid).argNew = false)
    ∧ (base [1]).cur = some ag ∧ (base [1]).agent? ag = some (agent false [1]) ∧ noOp.d = .zero := by
  refine ⟨?_, ?_, by decide +kernel, by decide +kernel⟩
  · intro o ho
    simp only [List.mem_cons, List.not_mem_nil, or_false] at ho
    rcases ho with rfl | rfl | rfl | rfl | rfl <;>
      exact ⟨by decide +kernel, by decide +kernel, reaches_of (by decide +kernel), by decide +kernel⟩
  · intro o ho
    simp only [List.mem_cons, List.not_mem_nil, or_false] at ho
    rcases ho with rfl | rfl <;>
      exact ⟨by decide +kernel, by decide +kernel, by decide +kernel, by decide +kernel, by decide +kernel, reaches_of (by decide +kernel),
        by decide +kernel⟩

theorem witness_StoresToDeviceMemory :
    let o := op .zero (.w 0) (.w 4) .zero 4
    let s := base [0x4000FFF0, 0]
    One s o ∧ o.size ≤ 4 ∧ o.d = .zero ∧ (s.core 0).late = []
      ∧ holdOf (s.envs ag o) (storeHeld (o.mbit 6) (fun e => e.gaddr o) s) = none
      ∧ Reaches (env s o) ((env s o).gaddr o) o.bytes Acc.write 0xFFF0 :=
  ⟨by decide +kernel, by decide +kernel, rfl, by decide +kernel, by decide +kernel, reaches_of (by decide +kernel)⟩

theorem witness_AlignmentIsChecked :
    let s := base [0x40003001, 0]
    s.fabric.biasJob = none ∧ (s.agentD ag).shep = false
      ∧ (∀ o ∈ [op (.w 4) (.w 0) .zero .zero 1, op .zero (.w 0) (.w 4) .zero 4],
          One s o ∧ o.size ≤ 4 ∧ ((env s o).gaddr o).toNat % o.bytes ≠ 0
            ∧ holdOf (s.envs ag o) (loadHeld o.bytes o.scope.toNat (fun e => e.gaddr o) s) = none
            ∧ holdOf (s.envs ag o) (storeHeld (o.mbit 6) (fun e => e.gaddr o) s) = none)
      ∧ ∀ o ∈ [op (.w 4) (.w 0) (.w 4) .zero 0x10, op (.w 4) (.w 0) (.w 4) (.w 6) 0, op .zero (.w 0) (.w 4) .zero 0],
          One s o ∧ ((env s o).gaddr o).toNat % (if o.mbit 4 then 8 else 4) ≠ 0
            ∧ holdOf (s.envs ag o) (atomHeld (if o.mbit 4 then 8 else 4) o.scope.toNat (atomRel o) (fun e => e.gaddr o) s) = none := by
  decide +kernel

theorem witness_AtomicsOnDeviceMemory :
    let s := base [0x40003000, 0, 1, 0]
    (s.core 0).outst = [] ∧ (s.core 0).late = [] ∧ Memory.wf s.mem = true ∧ s.errs.bad = [] ∧ s.mergeFlags 0 0 = s ∧ s.hostBiased 0x3000 = false
      ∧ (∀ (bs : List Byte) (n : Nat), Ordinary { s with mem := memWrite s.mem 0x3000 bs } 0x3000 n)
      ∧ ∀ o ∈ [{ op (.w 4) (.w 0) (.w 2) .zero 0x1D with scope := 5 }, { op (.w 4) (.w 0) (.w 2) (.w 2) 0 with scope := 2 },
          { op .zero (.w 0) (.w 2) .zero 0 with scope := 3 }],
        One s o ∧ holdOf (s.envs ag o) (atomHeld (if o.mbit 4 then 8 else 4) o.scope.toNat (atomRel o) (fun e => e.gaddr o) s) = none
          ∧ Reaches (env s o) ((env s o).gaddr o) (if o.mbit 4 then 8 else 4) Acc.rmw 0x3000 := by
  refine ⟨by decide +kernel, by decide +kernel, by decide +kernel, by decide +kernel, by decide +kernel, by decide +kernel,
    fun _ _ => ordinary_of (by decide +kernel), ?_⟩
  intro o ho
  simp only [List.mem_cons, List.not_mem_nil, or_false] at ho
  rcases ho with rfl | rfl | rfl <;> exact ⟨by decide +kernel, by decide +kernel, reaches_of (by decide +kernel)⟩

theorem witness_ScratchpadAccesses :
    let at_ := fun (ws : List Word) (o : Op) => One (base ws) o ∧ ((base ws).core 0).late = [] ∧ ((base ws).core 0).outst = []
      ∧ ((base ws).res 0 0).bad = [] ∧ (base ws).storesBefore ag = false ∧ ((base ws).core 0).settledAt ≠ some (base ws).cycles
      ∧ (base ws).mergeFlags 0 0 = base ws
    let ok := fun (ws : List Word) (o : Op) (nb : Bool) (a : Word) (n : Nat) (off : Nat) =>
      (env (base ws) o).s.scrCheck 0 0 nb a n = .ok (0, off)
    (let o := op (.w 4) (.w 0) .zero .zero 4 0xFFF0
     at_ [0] o ∧ o.size ≤ 4 ∧ ok [0] o true 0xFFF0 16 0xFFF0)
    ∧ (let o := op .zero (.w 0) (.w 1) .zero 0
       at_ [0x1000FFFF, 1] o ∧ o.size ≤ 4 ∧ ok [0x1000FFFF, 1] o true 0x1000FFFF 1 0xFFFF)
    ∧ (let o := op (.w 4) (.w 0) (.w 1) .zero 2
       at_ [0x1000, 0x1F1F] o ∧ (env (base [0x1000, 0x1F1F]) o).l.tilePage 0x1000 = true ∧ ok [0x1000, 0x1F1F] o false 0x1FFC 4 0x1FFC)
    ∧ (let o := op .zero (.w 0) (.w 1) (.w 2) 0x42
       at_ [0x1000, 7, 0x0100] o ∧ (env (base [0x1000, 7, 0x0100]) o).l.tilePage 0x1000 = true
       ∧ ok [0x1000, 7, 0x0100] o false 0x1080 4 0x1080)
    ∧ (let o := { op (.w 4) (.w 0) (.w 2) (.w 2) 0x10 with scope := 2 }
       at_ [0xFFF8, 0, 1, 0] o ∧ ok [0xFFF8, 0, 1, 0] o false 0xFFF8 8 0xFFF8)
    ∧ (let o := { op .zero (.w 0) (.w 2) .zero 0 with scope := 1 }
       at_ [0xFFFC, 0, 1, 0] o ∧ ok [0xFFFC, 0, 1, 0] o false 0xFFFC 4 0xFFFC) := by
  and_intros <;> first | decide +kernel | exact ok_of (by decide +kernel)

/-- The layout record of a tensor of 64 rows of 64 elements of 8 bits, for a tile of 64 by 64. -/
def layoutWords : List Word := [0x40004000, 0, 64, 64, 64, 0x03030040, 0x00400040, 0]

theorem witness_CopiesBegin :
    (let o := op (.w 4) (.w 0) (.w 2) (.w 3)
     let s := base [0x40003000, 0, 0, 0x10000]
     let e := env s o
     One s o ∧ ((s.core 0).copies.filter fun x => x.2.live).length < 512 ∧ (e.a64 o).toNat % 16 = 0 ∧ (e.b32 o).toNat % 16 = 0
       ∧ (e.c32 o).toNat % 16 = 0 ∧ (e.c32 o).toNat ≤ 2 ^ 20 ∧ e.c32 o ≠ 0 ∧ (e.b32 o).toNat < 2 ^ 20
       ∧ (e.b32 o).toNat + (e.c32 o).toNat ≤ e.l.scratch ∧ s.bellBad 0 0 (copyBell o) = false)
    ∧ (let o := op (.w 4) (.w 0) (.w 2) (.w 3) 0x7F
       let s := withBell (withWords (base [0x40003000, 0, 0xF000, 0]) 0x3000 layoutWords) { Bell.none with live := true, count := 1 }
       let e := env s o
       One s o ∧ (e.a64 o).toNat % 32 = 0 ∧ (s.agentD ag).got = []
         ∧ s.leftC 0 0 e.owner = [] ∧ (e.s.askC 0 e.l.part [] (e.a64 o) 32).2 = .data (bytesOfWords layoutWords)
         ∧ ((e.s.askC 0 e.l.part [] (e.a64 o) 32).1.askC 0 e.l.part [] (e.a64 o) 32).2 = .data (bytesOfWords layoutWords)
         ∧ (∀ kind ∈ [0xA1, 0xA2, 0xA6], layoutCheck kind e.l (Layout.of (wordsOf 8 (bytesOfWords layoutWords)))
            (if kind = 0xA2 then 0 else e.b32 o) (e.c32 o) = none)
         ∧ s.bellBad 0 0 (copyBell o) = false)
    ∧ (let o := op (.w 4) (.w 0) (.w 2) (.w 3)
       let s := withWords (base [0x4000FFE0, 0, 0, 0]) 0xFFE0 (layoutWords ++ [0, 0xF0000000, 0xB1F08081, 0])
       let e := env s o
       let wd := bytesOfWords [0, 0xF0000000, 0xB1F08081, 0]
       One s o ∧ (e.a64 o).toNat % 32 = 0 ∧ s.leftM 0 0 e.owner = []
         ∧ (e.s.readM 0 e.l.part [] (e.a64 o) 32).2 = .ok (bytesOfWords layoutWords)
         ∧ ((e.s.readM 0 e.l.part [] (e.a64 o) 32).1.readM 0 e.l.part [] (e.a64 o + 32) 16).2 = .ok wd
         ∧ mxWordCause e.l (wordOfBytes wd) = none
         ∧ layoutCheck 0xA3 e.l (Layout.of layoutWords) (e.b32 o) (e.c32 o) = none)
    ∧ (let o := op .zero (.w 0) (.w 2) (.w 3) 4 0xFFFFFFF0
       let s := withBell (base [0x40003000, 0, 0xFFF0, 63]) { Bell.none with live := true, count := 1 }
       let e := env s o
       let x := e.s.xlate (some 0) 1 e.l.part (e.gaddr o) Acc.read
       One s o ∧ (e.gaddr o).toNat % o.bytes = 0 ∧ x.2 = .ok (.dev 0x2FF0)
         ∧ x.1.scrCheck 0 0 false (e.b32 o) o.bytes = .ok (0, 0xFFF0)
         ∧ s.bellBad 0 0 (some ((e.c32 o).toNat % 64)) = false) := by
  and_intros <;> first | decide +kernel | exact ok_of (by decide +kernel)

/-- A copy of the first 64 KiB of a page. -/
def copy1 : Copy :=
  let x : Copy := { (default : Copy) with live := true, kind := 0xA0, src := 0x40010000, arg := 0x10000 }
  { x with bell := some 63, cause := 0 }
def withCopy (s : State) (x : Copy) : State := s.updCore 0 fun k => { k with copies := [(511, x)] }

theorem witness_CopiesEnd :
    (let s := withBell (withCopy (base []) copy1) { Bell.none with live := true, count := 1, pend := 2 }
     Tab.get? (s.core 0).copies 511 = some copy1 ∧ copy1.live = true ∧ copy1.landed = false ∧ copy1.held = false
       ∧ copy1.kept = false ∧ s.fabric.biasJob = none ∧ copy1.kind = 0xA0 ∧ copy1.arg ≠ 0
       ∧ copy1.src.toNat % 65536 + copy1.arg.toNat ≤ 65536 ∧ (s.bell 0 0 63).pend ≠ 1 ∧ s.badRange 0x10000 0x10000 = false
       ∧ copy1.stale = [] ∧ s.hostBiased 0x10000 = false ∧ (s.res 0 copy1.lid).bad = []
       ∧ (s.xlate (some 0) 1 (s.launchD copy1.lid).part copy1.src Acc.read).2 = .ok (.dev 0x10000))
    ∧ (let s : State := { withCopy (base []) copy1 with mem := [(0, 1), (8, 5), (10, 7)] }
       copy1.kind = 0xA0 ∧ ((0x4001FFFF : DWord) - copy1.src).toNat < copy1.arg.toNat
       ∧ ∃ space va leaf64 mode, (s.xlate (some 0) 1 (s.launchD copy1.lid).part 0x4001FFFF Acc.read).2 = .ok (.remote 7 space va leaf64 mode)) := by
  exact ⟨⟨by decide +kernel, by decide +kernel, rfl, rfl, rfl, rfl, rfl, by decide +kernel, by decide +kernel, by decide +kernel,
    by decide +kernel, rfl, by decide +kernel, by decide +kernel, ok_of (by decide +kernel)⟩,
    rfl, by decide +kernel, 0, 0x4001FFFF, false, 0, ok_of (by decide +kernel)⟩

/-- The descriptors of a stream of three rows of two words and of an indexed stream, and an open stream at its last element. -/
def strmWords : List Word := [0x40004000, 0, 0x10000, 2, 4, 3, 8, 0xF000]
def strmxWords : List Word := [0x40004000, 0, 0x10000, 2, 4, 0x40005000, 0, 0xF000]
def stream1 : Stream :=
  let x : Stream := { Stream.none with live := true, words := strmWords, pos := 5, next := 5 }
  { x with elems := [] }
def withStream (s : State) (x : Stream) : State := s.updRes 0 0 fun r => { r with streams := [(7, x)] }

theorem witness_Streams :
    (∀ w ∈ [(strmWords, false), (strmxWords, true)],
      let o := op (.w 4) (.w 0) (.w 2) .zero
      let s := withWords (base [0x40003000, 0, 7]) 0x3000 w.1
      let e := env s o
      One s o ∧ (e.a64 o).toNat % 32 = 0 ∧ (e.b32 o).toNat < 8 ∧ (s.agentD ag).got = []
        ∧ s.leftC 0 0 e.owner = [] ∧ (e.s.askC 0 e.l.part [] (e.a64 o) 32).2 = .data (bytesOfWords w.1)
        ∧ ((e.s.askC 0 e.l.part [] (e.a64 o) 32).1.askC 0 e.l.part [] (e.a64 o) 32).2 = .data (bytesOfWords w.1)
        ∧ (s.stream 0 0 7).live = false ∧ streamOk e.l w.2 (wordsOf 8 (bytesOfWords w.1)) = true)
    ∧ (let s := withStream (base []) stream1
       let a := stream1.w64 0 + BitVec.ofNat 64 (5 % stream1.count0) * (stream1.words.getD 4 0).signExtend 64
         + BitVec.ofNat 64 (5 / stream1.count0) * (stream1.words.getD 6 0).signExtend 64
       s.stream 0 0 7 = stream1 ∧ stream1.live = true ∧ stream1.idx = false ∧ stream1.next < stream1.count
         ∧ stream1.next - stream1.pos < stream1.ring / stream1.esize ∧ (s.core 0).frozen = false ∧ a.toNat % stream1.esize = 0
         ∧ stream1.stale = [] ∧ s.hostBiased 0x4014 = false ∧ (s.xlate (some 0) 1 (s.launchD 0).part a Acc.read).2 = .ok (.dev 0x4014) ∧ s.badRange 0x4014 stream1.esize = false)
    ∧ (let o := op (.w 4) (.w 0) .zero .zero 2
       let x := { stream1 with next := 6, elems := [(5, .data [1, 2, 3, 4])] }
       let s := (withStream (base [7]) x).updRes 0 0 fun r => { r with scratch := [(0xF014, 1), (0xF015, 2), (0xF016, 3), (0xF017, 4)] }
       One s o ∧ 2 ≤ o.size ∧ o.size ≤ 4 ∧ ((env s o).saddr o).toNat < 8 ∧ (s.agentD ag).served = []
         ∧ s.stream 0 0 7 = x ∧ x.live = true ∧ x.esize = o.bytes ∧ x.owed = [] ∧ x.spoilt = false ∧ (s.res 0 0).bad = []
         ∧ Tab.get? x.elems x.pos = some (.data [1, 2, 3, 4]) ∧ s.scratchRead 0 0 (x.place x.pos) 4 = [1, 2, 3, 4]) := by
  refine ⟨?_, ⟨?_, ?_, ?_, ?_, ?_, ?_, ?_, ?_, ?_, ok_of ?_, ?_⟩, ?_⟩
  · intro w hw
    simp only [List.mem_cons, List.not_mem_nil, or_false] at hw
    rcases hw with rfl | rfl <;> decide +kernel
  all_goals decide +kernel

/-- A store of one byte that is not yet performed. -/
def store1 : Outst :=
  let x : Outst := { (default : Outst) with loc := .dev 0x3000, bytes := [9] }
  { x with scope := 3, rel := false }

theorem witness_Fences :
    (∀ o ∈ [{ noOp with mods := 3, scope := 3 }, { noOp with mods := 1, scope := 5 }],
      let s := base []
      s.cur = some ag ∧ s.agent? ag = some (agent false []) ∧ o.d = .zero ∧ (s.core 0).outst = [] ∧ (s.core 0).late = [] ∧ s.envs ag o ≠ []
        ∧ (s.core 0).queue = [] ∧ o.mods.toNat % 2 = 1 ∧ 3 ≤ o.scope.toNat)
    ∧ (let o := { noOp with mods := 2, scope := 3 }
       let s := (base []).updCore 0 fun k => { k with outst := [store1], nextOut := 1 }
       Ordinary { s with mem := memWrite s.mem 0x3000 store1.bytes } 0x3000 store1.bytes.length
         ∧ s.cur = some ag ∧ s.agent? ag = some (agent false []) ∧ o.d = .zero ∧ 2 ≤ o.mods.toNat ∧ 3 ≤ o.scope.toNat ∧ s.envs ag o ≠ []
         ∧ (s.core 0).outst ≠ [] ∧ (s.core 0).outst.find? (fun y => y.id == 0) = some store1
         ∧ (∀ y ∈ (s.core 0).outst, store1.id ≤ y.id) ∧ store1.loc = .dev 0x3000 ∧ s.errs.bad = [] ∧ Memory.wf s.mem = true
         ∧ (s.core 0).late = [] ∧ store1.bytes ≠ [] ∧ s.phase ≤ turnRank 6 0 0 0 ∧ store1.rel = false
         ∧ (∃ x ∈ (s.core 0).outst, x.id < (agent false []).mark.getD (s.core 0).nextOut))
    ∧ (let o := { noOp with mods := 2 }
       let q : MatOp := { (default : MatOp) with id := 4 }
       let s := (base []).updCore 0 fun k => { k with queue := [q], nextMat := 5 }
       s.cur = some ag ∧ s.agent? ag = some (agent false []) ∧ o.d = .zero ∧ s.envs ag o ≠ [] ∧ (s.core 0).late = []
         ∧ (s.core 0).outst = [] ∧ (o.mbits 0 3 = 2 ∨ o.mbits 3 3 = 2) ∧ (agent false []).served = []
         ∧ ∃ y ∈ (s.core 0).queue, y.lid = (agent false []).lid ∧ y.id < (s.core 0).nextMat ∧ (s.core 0).nextMat < y.id + 2 ^ 31) :=
  ⟨by decide +kernel, ⟨ordinary_of (by decide +kernel), by decide +kernel⟩, by decide +kernel⟩

/-- Group 0, which has every package, and a descriptor that names it. -/
def cellsFrom (b : Byte) : Nat → Nat → List Host.Cell
  | _, 0 => []
  | k, n + 1 => (k, b) :: cellsFrom b (k + 1) n
def groupCells : List Host.Cell := cellsFrom 0xFF 0x5000 512 ++ [(0x5200, 1)]
def withGroup (s : State) : State := (({ s with mem := s.mem ++ groupCells }).setReg 0x30150 0x5000).setReg 0x30158 1
def collWords : List Word := [0x40006000, 0, 0x40007000, 0, 2, 0, 0, 0, 14, 0, 0, 0, 0, 0, 0, 0]
def collOp : Op := { op (.w 4) (.w 0) .zero .zero 0 with scope := 5 }
def collAt : State := withWords (base [0x40003000, 0]) 0x3000 collWords
theorem every_package (p : Nat) (h : p < 4096) : memberOf (List.replicate 512 0xFF) p = true := by
  have hb : ∀ i, i < 8 → (0xFF : Byte).getLsbD i = true := by decide
  have hr : (List.replicate 512 (0xFF : Byte)).getD (p / 8) 0 = 0xFF := by
    rw [List.getD_eq_getElem?_getD, List.getElem?_replicate, if_pos (by omega)]; rfl
  rw [memberOf, hr]
  exact hb _ (Nat.mod_lt _ (by omega))

/-- The state after the two reads of the descriptor. -/
def collRead (s : State) : State :=
  let e := env s collOp
  let read := fun (x : State) => (x.askV 0 0 e.owner e.l.part (e.gaddr collOp) 64).1
  read (read e.s)
theorem witness_Collectives_nonmember : One collAt collOp ∧ (collAt.agentD ag).got = [] ∧ (collAt.core 0).late = []
    ∧ (collRead collAt).group 0 = none := by
  decide +kernel
theorem memGet_skip (pre m : List Host.Cell) (a : Nat) (h : ∀ e ∈ pre, e.1 < a) : memGet (pre ++ m) a = memGet m a := by
  induction pre with
  | nil => rfl
  | cons e pre ih =>
    have := h e (by simp)
    rw [List.cons_append, memGet, if_neg (by omega), if_neg (by omega)]
    exact ih fun x hx => h x (by simp [hx])
theorem memGet_cells (b : Byte) (m : List Host.Cell) (n : Nat) :
    ∀ k a, k ≤ a → a < k + n → memGet (cellsFrom b k n ++ m) a = b := by
  induction n with
  | zero => intro k a _ _; omega
  | succ n ih =>
    intro k a hk ha
    by_cases h : a = k
    · rw [cellsFrom, List.cons_append, memGet, if_pos h]
    · rw [cellsFrom, List.cons_append, memGet, if_neg h, if_neg (by omega)]
      exact ih (k + 1) a (by omega) (by omega)
theorem memGet_past (b : Byte) (m : List Host.Cell) (n : Nat) :
    ∀ k a, k + n ≤ a → memGet (cellsFrom b k n ++ m) a = memGet m a := by
  induction n with
  | zero => intro k a _; rfl
  | succ n ih =>
    intro k a hk
    rw [cellsFrom, List.cons_append, memGet, if_neg (by omega), if_neg (by omega)]
    exact ih (k + 1) a (by omega)
theorem memRead_const (m : List Host.Cell) (b : Byte) (n : Nat) :
    ∀ a, (∀ x, a ≤ x → x < a + n → memGet m x = b) → memRead m a n = List.replicate n b := by
  induction n with
  | zero => intro a _; rfl
  | succ n ih =>
    intro a h
    rw [memRead, h a (by omega) (by omega), ih (a + 1) fun x h1 h2 => h x (by omega) (by omega)]; rfl
theorem memRead_succ (m : List Host.Cell) (n : Nat) : ∀ a, memRead m a (n + 1) = memRead m a n ++ [memGet m (a + n)] := by
  induction n with
  | zero => intro a; rfl
  | succ n ih =>
    intro a
    rw [memRead, ih (a + 1), memRead, List.cons_append, show a + 1 + n = a + (n + 1) by omega]
theorem witness_Collectives_member : memberOf (List.replicate 512 0xFF) Config.pkgId.toNat = true
    ∧ (collRead (withGroup collAt)).group 0 = some (List.replicate 512 0xFF) := by
  refine ⟨every_package _ Config.pkgId.isLt, ?_⟩
  have hpre : ∀ e ∈ collAt.mem, e.1 < 0x5000 := by decide +kernel
  have hrd : memRead (withGroup collAt).mem 0x5000 513 = List.replicate 512 0xFF ++ [1] := by
    have h1 : memRead (collAt.mem ++ groupCells) 0x5000 512 = List.replicate 512 0xFF := memRead_const _ _ _ _ fun x h1 h2 => by
      rw [memGet_skip _ _ _ fun e he => Nat.lt_of_lt_of_le (hpre e he) h1]
      exact memGet_cells 0xFF _ 512 0x5000 x h1 h2
    have h2 : memGet (collAt.mem ++ groupCells) (0x5000 + 512) = 1 := by
      rw [memGet_skip _ _ _ fun e he => Nat.lt_of_lt_of_le (hpre e he) (by decide)]
      exact memGet_past 0xFF _ 512 0x5000 0x5200 (by omega)
    show memRead (collAt.mem ++ groupCells) 0x5000 (512 + 1) = _
    rw [memRead_succ, h1, h2]
  have hpriv : (collRead (withGroup collAt)).privRead 0x5000 513 = some (List.replicate 512 0xFF ++ [1]) := by
    have hx : (collRead (withGroup collAt)).xlatePriv 0x5000 Acc.read = some (.dev 0x5000) := by decide +kernel
    have hb : (Loc.dev 0x5000).bad (collRead (withGroup collAt)) 513 = false := by decide +kernel
    have hh : (collRead (withGroup collAt)).hostBiased 0x5000 = false := by decide +kernel
    have hm : (collRead (withGroup collAt)).mem = (withGroup collAt).mem := by decide +kernel
    rw [← hrd]
    simp only [State.privRead, hx, hb, State.hubBytes, hh, hm, Bool.false_eq_true, if_false]
  have hcnt : ¬((collRead (withGroup collAt)).reg 0x30158).toNat ≤ 0 := by decide +kernel
  have hbase : ((collRead (withGroup collAt)).reg64 0x30150).toNat + 1024 * 0 = 0x5000 := by decide +kernel
  rw [State.group, if_neg hcnt, hbase, hpriv]
  decide +kernel
theorem witness_Collectives_accepted :
    let s := withGroup collAt
    let e := env s collOp
    let read := fun (x : State) => x.askV 0 0 e.owner e.l.part (e.gaddr collOp) 64
    let x := collRead s
    One s collOp ∧ (e.gaddr collOp).toNat % 64 = 0 ∧ (s.agentD ag).got = [] ∧ (read e.s).2 = .data (bytesOfWords collWords)
      ∧ (read (read e.s).1).2 = .data (bytesOfWords collWords) ∧ x.collOk e.l.part 0 0 1 collWords = true
      ∧ x.collOk e.l.part 0 0 1 (collWords.set 4 0) = false ∧ (s.core 0).late = []
      ∧ (readSpan (fun s va n => s.readF e.l.part va n) (spanPages 0x40006000 8) x 0x40006000 8).2 = .ok (List.replicate 8 0) :=
  by and_intros <;> first | decide +kernel | exact ok_of (by decide +kernel)
/-- The number of members plays no part where the collective is no allgather. -/
theorem witness_Collectives_members (x : State) (part m : Nat) (w : List Word) : x.collOk part 0 0 m w = x.collOk part 0 0 1 w := rfl
theorem witness_Collectives_done :
    let x : Coll := { (default : Coll) with who := ag, regs := [.w 4] }
    let s : State := { base [] with fabric := { State.reset.fabric with colls := [(3, x)] } }
    Tab.get? s.fabric.colls 3 = some x ∧ s.agent? x.who = some (agent false []) := by decide +kernel

theorem witness_Bells :
    let live : Bell := { Bell.none with live := true, count := 65535 }
    let o := op (.w 4) (.w 0) (.w 1) .zero
    let lone := fun (s : State) => One s o ∧ (s.core 0).late = [] ∧ (s.agentD ag).mark = none ∧ (s.agentD ag).served = []
    (lone (base [63, 65535]) ∧ (63 : Word).toNat < (launch [3]).nbells ∧ ((base [63, 65535]).bell 0 0 63).live = false)
    ∧ (∀ x ∈ [live, { live with arr := 65534, pend := 1 }, { live with arr := 65534 }],
        let s := withBell (base [63, 65535]) x
        lone s ∧ s.bellOk 0 0 63 = true ∧ s.bell 0 0 63 = x ∧ x.count = 65535 ∧ x.arr ≠ x.count)
    ∧ (∀ x ∈ [live, { live with phase := true }],
        let s := withBell (base [63, 1]) x
        lone s ∧ s.bellOk 0 0 63 = true ∧ s.bell 0 0 63 = x ∧ (s.agentD ag).served = [])
    ∧ (let s := withBell (base [63, 32767]) live
       lone s ∧ s.bellOk 0 0 63 = true ∧ live.pend + 32767 ≤ 32767 ∧ live.pend + 32767 ≠ 0)
    ∧ (let x := { live with arr := 65535, pend := -1 }
       lone (withBell (base [63, 65535]) x) ∧ (withBell (base [63, 65535]) x).bellOk 0 0 63 = true ∧ x.arr = x.count ∧ x.pend < 0
         ∧ lone (withBell (base [63, 1]) x) ∧ (withBell (base [63, 1]) x).bellOk 0 0 63 = true ∧ x.pend + 1 = 0)
    ∧ (let x := { live with done := some 0, arr := 3, pend := -1 }
       let s := withBell (base0 (launch [3]) { agent false [63, 65535] with mark := some 0 }) x
       One s o ∧ (s.core 0).late = [] ∧ (s.agentD ag).mark = x.done ∧ s.bellOk 0 0 63 = true ∧ x.arr ≠ x.count) := by decide +kernel

theorem witness_Chutes :
    let o := op (.w 4) (.w 0) (.w 1) (.w 2)
    let lone := fun (s : State) => One s o ∧ (s.core 0).late = [] ∧ (s.res 0 0).bad = []
    let c : Chute := { Chute.none with live := true, cap := 1024, allow := 1024 }
    (lone (base [15, 0xF000, 1024]) ∧ 15 < (launch [3]).nchutes ∧ ((base [15, 0xF000, 1024]).chute 0 0 15).live = false
      ∧ 0xF000 % 4 = 0 ∧ 0xF000 + 4 * 1024 ≤ (launch [3]).scratch)
    ∧ (∀ x ∈ [c, { c with wr := 1, allow := 1023 }, { c with wr := 1024, allow := 0 }, { c with closed := true },
          { c with closed := true, wr := 1, allow := 1023 }],
        let s := withChute (base [15, 0xFFFFFFFD]) x
        lone s ∧ s.chuteOk 0 0 15 = true ∧ s.chute 0 0 15 = x ∧ 1 ≤ x.cap ∧ (x.closed = false → x.shut s.cycles = false)
          ∧ (x.allow = 1023 → 1 ≤ x.ready s.cycles) ∧ (x.allow = 1024 → x.ready s.cycles = 0))
    ∧ (let a := { agent false [] with wait := some (.chute true [(15, 1)]) }
       let s := base0 (launch [3]) a
       s.agent? ⟨0, 0⟩ = some a ∧ a.wait = some (.chute true [(15, 1)]) ∧ s.chuteBehind ⟨0, 0⟩ a.lid true [(15, 1)] = false
         ∧ (s.core 0).frozen = false ∧ s.phase ≤ s.issueRank ⟨0, 0⟩) := by decide +kernel

/-! #### The matrix engine -/

/-- A launch of class 2 with FP8 operands, and a configuration with pitches of 64 bytes. -/
def matrixAt (ws : List Word) : State := base0 (launch [0x06320003, 0, 0x80, 0x80]) (agent false ws)
def withCfg (s : State) (a : Word) : State := s.updRes 0 0 fun r => { r with cfg := { set := true, a, b := 0x00400040, c := 0 } }
def full31 (s : State) : State := s.updCore 0 fun k => { k with queue := List.replicate 31 default, nextMat := 31 }
def matOp1 (opc : BitVec 8) (o : Op) (a b : Word) (c : DWord) : MatOp :=
  let m : MatOp := { (default : MatOp) with opc, op := o, a, b, c }
  { m with id := 5 }
def withQueue (s : State) (q : MatOp) : State := s.updCore 0 fun k => { k with queue := [q], nextMat := 6 }

/-- What `Obligations.MatrixInstructionsAreQueued` asks of the state, at states that meet it. -/
def matrixPremises : Prop :=
    (∀ x ∈ ([(0xB0, op .zero (.w 0) (.w 1) .zero, [0x63, 0x00400040], 0x63), (0xB1, op .zero (.w 0) (.w 1) .zero 0x1F, [0, 0xF000], 0x63),
        (0xB2, op .zero (.w 0) (.w 1) (.w 2) 0, [0, 0xF000, 0xFF7C], 0x63), (0xB3, op .zero (.w 0) (.w 1) (.w 2) 0, [0, 0xF000, 0], 0x4273),
        (0xB4, op .zero .zero .zero .zero 15, [], 0x63), (0xB5, op .zero (.w 0) (.w 1) .zero 15, [0xC000, 256], 0x63),
        (0xB5, op .zero (.w 0) (.w 1) (.w 2) 16, [0, 0, 65536], 0x63), (0xB6, op .zero (.w 0) (.w 1) .zero 0x1F, [0xC000, 256], 0x63),
        (0xB7, op (.w 4) (.w 0) (.w 1) .zero 16, [0, 0], 0x63), (0xB8, op (.w 4) (.w 0) (.w 1) .zero, [15, 0xFE00], 0x63)]
        : List (BitVec 8 × Op × List Word × Word)),
      let s := full31 (withCfg (matrixAt x.2.2.1) x.2.2.2)
      let o := x.2.1
      let e := ((s.latchFor o ((s.envs ag o).take 1)).envs ag o).headD default
      let src : MatSrc := { opc := x.1, op := o, a := e.a32 o, b := e.b32 o, c := e.c64 o }
      s.cur = some ag ∧ ((s.latchFor o ((s.envs ag o).take 1)).envs ag o).length = 1
        ∧ (s.core 0).queueFull = false
        ∧ src.check e.l (s.tailCfg 0 0) = none)
    ∧ (∀ o ∈ [op (.w 1) .zero .zero .zero 32, op (.w 1) (.w 0) .zero .zero 48],
        One (matrixAt [15]) o ∧ ((matrixAt [15]).core 0).queue = [] ∧ ((matrixAt [15]).res 0 0).engErr = none)
    ∧ (let x : Copy := { copy1 with kind := 0xA3, landed := true, desc := layoutWords ++ [0, 0xF0000000, 0xB1F08081, 0] }
       let s := withCopy (withCfg (matrixAt []) 0x63) x
       let w := wordOfBytes (bytesOfWords (x.desc.drop 8))
       let o := decodeOp false w
       let rd := (s.launchD x.lid).mxRead o
       let src : MatSrc := { opc := bits w 88 8, op := o, a := rd o.a, b := rd o.b, c := (rd o.c).setWidth 64 }
       Tab.get? (s.core 0).copies 511 = some x ∧ x.live = true ∧ x.landed = true ∧ x.kind = 0xA3 ∧ (s.core 0).queue.length < 32
         ∧ src.check (s.launchD x.lid) (s.tailCfg 0 x.lid) = none)
theorem witness_MatrixInstructionsAreQueued : matrixPremises := by
  unfold matrixPremises; decide +kernel

theorem witness_MatrixEngineExecutes :
    (∀ q ∈ [matOp1 0xB0 noOp 0x63 0x00400040 0, matOp1 0xB1 { noOp with mods := 15 } 0 0xF000 0, matOp1 0xB2 noOp 0 0 0,
        matOp1 0xB3 { noOp with mods := 16 } 0 0xF000 0, matOp1 0xB4 noOp 0 0 0, matOp1 0xB5 noOp 0xC000 256 0,
        matOp1 0xB5 { noOp with mods := 16 } 0 0 65536, matOp1 0xB6 noOp 0xC000 256 0, matOp1 0xB7 noOp 0 0 0, matOp1 0xB8 noOp 15 0 0],
      let s := withQueue (withCfg (matrixAt []) 0x63) q
      (s.core 0).queue = q :: [] ∧ q.run = false ∧ (s.res 0 q.lid).cfg.acc = 0 ∧ q.op.fmt = 0 ∧ (s.core 0).gather = none
        ∧ (s.res 0 q.lid).bad = [] ∧ (q.opc = 0xB6 → rowBytes q.op.fmt.toNat 64 ≤ q.b.toNat))
    ∧ (let g : Gather := { (default : Gather) with id := 5 }
       let s := (withQueue (withCfg (matrixAt []) 0x63) (matOp1 0xB2 noOp 0 0 0)).updCore 0 fun k => { k with gather := some g }
       (s.core 0).gather = some g ∧ g.id = (matOp1 0xB2 noOp 0 0 0).id ∧ g.err = none)
    ∧ (let q := { matOp1 0xB1 noOp 0 0 0 with run := true }
       let s := withQueue (matrixAt []) q
       (s.core 0).queue = q :: [] ∧ q.run = true ∧ q.err = none) := by decide +kernel

/-! #### Control and traps -/

theorem blkThere_of {s : State} {c : Nat} {l : Launch} {va : DWord} {team landing : Bool} {w : IWord} {ctl : Ctl} {live : DWord} {pa : Nat}
    (e : DWord) (lv at_ : Nat)
    (h : ((l.inCode va = true ∧ (s.core c).icache = [] ∧ (s.core c).tlb = [] ∧ s.fabric.walks = []) ∧ (canonical va = true
      ∧ s.walkLeaf l.part va = some (e, lv, at_) ∧ pteKind e = 1 ∧ pteX e = true ∧ pa = pteAddr e + va57 va % 2 ^ levelShift lv)
      ∧ s.badRange pa 16 = false ∧ s.hostBiased pa = false ∧ w = l.patch (chipOf c) va (wordOfBytes (memRead s.mem pa 16)))
      ∧ (decodeWord (l.ctx false) w).toOption = some (.blk ctl live team landing)) : BlkThere s c l va team landing :=
  ⟨w, ctl, live, wordThere_of e lv at_ h.1, ok_of h.2⟩

/-- The BLK at 0x4000_1080. -/
def blkWord : IWord := 0x00000000_02000000_00000002_00000000#128

theorem witness_TerminatorsEndTheBlock : (base [1]).cur = some ag ∧ (base [1]).agent? ag = some (agent false [1])
    ∧ (agent false [1]).pc = (agent false [1]).blk
    ∧ (let a := { agent false [] with blk := 0x40000FF0 }
       (base0 (launch [3]) a).cur = some ag ∧ (base0 (launch [3]) a).agent? ag = some a ∧ a.pc ≠ a.blk) := by decide +kernel

theorem witness_WaitsAndProbe :
    (let o := op .zero (.w 0) .zero .zero
     (∀ ws ∈ [[(0 : Word), 0], [0x80000000, 0]], One (base ws) o ∧ ((base ws).agentD ag).served = []
         ∧ ((base ws).agentD ag).opnds = none)
       ∧ ((env (base [0, 0]) o).a64 o).toNat ≤ (base [0, 0]).count 0 ∧ o.b = .zero
       ∧ (base [0x80000000, 0]).count 0 < ((env (base [0x80000000, 0]) o).a64 o).toNat
       ∧ ((env (base [0x80000000, 0]) o).a64 o).toNat ≤ (base [0x80000000, 0]).count 0 + 2 ^ 31)
    ∧ (let a := { agent false [] with wait := some (.sleep 0 []) }
       let s := base0 (launch [3]) a
       s.agent? ⟨0, 0⟩ = some a ∧ a.wait = some (.sleep 0 []) ∧ 0 ≤ s.cycles ∧ (s.core 0).frozen = false ∧ s.phase ≤ s.issueRank ⟨0, 0⟩)
    ∧ One (base []) (op (.w 1) .zero .zero .zero) := by decide +kernel

theorem witness_ThreadsLeaveTheirBlock :
    let s := fun (d : Nat) => (base []).updThread 0 0 0 fun t => { t with depth := d }
    (∀ d ∈ [0, 1, 15, 16], BlkThere (s d) 0 ((s d).launchD 0) 0x40001080 false true)
    ∧ depthAfter .ret ((s 1).thread 0 0 0).depth = some 0 ∧ depthAfter (.icall 63 0) ((s 15).thread 0 0 0).depth = some 16
    ∧ depthAfter (.call 0 0) ((s 0).thread 0 0 0).depth = some 1 ∧ depthAfter .ibr ((s 16).thread 0 0 0).depth = some 16
    ∧ depthAfter .join ((s 16).thread 0 0 0).depth = some 16 ∧ (((s 0).launchD 0).offset 0x40001080).toNat % 16 = 0 := by
  refine ⟨?_, ?_, ?_, ?_, ?_, ?_, ?_⟩
  · intro d hd
    simp only [List.mem_cons, List.not_mem_nil, or_false] at hd
    rcases hd with rfl | rfl | rfl | rfl <;>
      exact blkThere_of (w := blkWord) (ctl := default) (live := 0) (pa := 0x1080) 0x73 3 8 (by decide +kernel)
  all_goals decide +kernel

theorem witness_TrapsAreTaken :
    let common := fun (s : State) => One s noOp ∧ (s.agentD ag).pending = [] ∧ (s.core 0).late = []
      ∧ Tab.get? (s.agentD ag).lanes (env s noOp).n = some (env s noOp).lane ∧ (env s noOp).l.cancelled = false
      ∧ (env s noOp).l.stop = none ∧ s.launch? 0 = some (env s noOp).l
    (let s := base []
     let e := env s noOp
     common s ∧ (s.agentD ag).shep = false ∧ (s.thread 0 0 0).inHandler = false ∧ e.l.hdrW 3 ≠ 0 ∧ e.l.tframeAt s.cycles ≠ 0 ∧ e.l.race = false
       ∧ LocalAt s e.l.part (e.l.tframeAt s.cycles + BitVec.ofNat 64 (0 * 512)) pteW 0x2000 ∧ BlkThere s 0 e.l e.l.handler false true)
    ∧ (let s := (base []).updThread 0 0 0 fun t => { t with inHandler := true }
       common s ∧ (s.agentD ag).shep = false ∧ (s.thread 0 0 0).inHandler = true)
    ∧ (let s := base0 (launch [3, 0, 0, 0]) (agent false [])
       common s ∧ (s.agentD ag).shep = false ∧ (s.thread 0 0 0).inHandler = false ∧ (env s noOp).l.hdrW 3 = 0)
    ∧ (common (baseShep []) ∧ ((baseShep []).agentD ag).shep = true) := by
  refine ⟨⟨?_, ?_, ?_, ?_, ?_, ?_, ?_, ?_⟩, ?_, ?_, ?_⟩
  case refine_7 => exact localAt_of 0x73 3 8 (by decide +kernel)
  case refine_8 => exact blkThere_of (w := blkWord) (ctl := default) (live := 0) (pa := 0x1080) 0x73 3 8 (by decide +kernel)
  all_goals decide +kernel

/-- A thread in its handler, with its frame at device address 0x2000. -/
def tretAt (resume : Byte) : State :=
  let frame : List Host.Cell := [(0x2000, 5), (0x2100, 0xFF), (0x2104, 0x12), (0x2110, 0x40), (0x2114, 0x40), (0x2119, 0xF0)]
  let s := (base []).updThread 0 0 0 fun t => { t with inHandler := true }
  { s with mem := memPut (pages ++ frame) 0x2105 resume }

def tretRead (resume : Byte) (x : State) : State × Found :=
  let e := env (tretAt resume) noOp
  x.askV 0 0 e.owner e.l.part (e.l.tframe + BitVec.ofNat 64 (e.lane.tid * 512)) 512
theorem witness_TrapReturnRestores : ∀ resume ∈ [(0 : Byte), 1],
    let s := tretAt resume
    One s noOp ∧ (s.agentD ag).shep = false ∧ (s.agentD ag).pending = [] ∧ (s.agentD ag).got = [] ∧ (s.core 0).late = []
      ∧ Tab.get? (s.agentD ag).lanes (env s noOp).n = some (env s noOp).lane ∧ (env s noOp).l.cancelled = false
      ∧ (s.thread 0 0 (env s noOp).lane.tid).inHandler = true ∧ s.olderFiles ag = false := by decide +kernel
theorem tretRead_first (resume : Byte) (h : resume = 0 ∨ resume = 1) :
    let e := env (tretAt resume) noOp
    let x := e.s.xlate (some 0) 0 e.l.part (e.l.tframe + BitVec.ofNat 64 (e.lane.tid * 512)) Acc.read
    e.s.L1Agrees 0 ∧ x.2 = .ok (.dev 0x2000) ∧ e.s.badRange 0x2000 512 = false ∧ e.s.mem = (tretAt resume).mem
      ∧ (x.1.xlate (some 0) 0 e.l.part (e.l.tframe + BitVec.ofNat 64 (e.lane.tid * 512)) Acc.read).2 = .ok (.dev 0x2000)
      ∧ x.1.badRange 0x2000 512 = false := by
  have hl : ∀ s : State, (s.core 0).l1 = [] ∧ s.fabric.bias = [] ∧ (s.core 0).late = [] → s.L1Agrees 0 := fun s hs =>
    ⟨fun e he => by (rw [hs.1] at he; cases he), hs.2⟩
  rcases h with rfl | rfl <;>
    exact ⟨hl _ (by decide +kernel), ok_of (by decide +kernel), by decide +kernel, by decide +kernel,
      ok_of (by decide +kernel), by decide +kernel⟩
theorem witness_TrapReturnRestores_frame (resume : Byte) (h : resume = 0 ∨ resume = 1) :
    let ds := memRead (tretAt resume).mem 0x2000 512
    (tretRead resume (env (tretAt resume) noOp).s).2 = .data ds
      ∧ (tretRead resume (tretRead resume (env (tretAt resume) noOp).s).1).2 = .data ds
      ∧ frameOk (wordsOf 128 ds) = true ∧ ((wordsOf 128 ds).getD 65 0).toNat / 256 % 4 = resume.toNat := by
  obtain ⟨ha, hx, hb, hm, hx', hb'⟩ := tretRead_first resume h
  obtain ⟨k1, k2, k3, g, l, k4⟩ := State.askV_dev (lid := 0) (tid := (env (tretAt resume) noOp).owner) ha hx hb (by decide)
  rw [← State.xlate_afterReads _ 0 g l, ← k4] at hx'
  replace hb' : (tretRead resume (env (tretAt resume) noOp).s).1.badRange 0x2000 512 = false := by
    rw [show (tretRead resume (env (tretAt resume) noOp).s).1 = _ from k4]; exact hb'
  obtain ⟨j1, -, -⟩ := State.askV_dev (s := (tretRead resume (env (tretAt resume) noOp).s).1) (lid := 0)
    (tid := (env (tretAt resume) noOp).owner) k3 hx' hb' (by decide)
  rw [hm] at k1 k2
  refine ⟨k1, ?_, ?_⟩
  · rw [show (tretRead resume (env (tretAt resume) noOp).s).1.mem = _ from k2] at j1; exact j1
  · rcases h with rfl | rfl <;> decide +kernel

/-! #### The shepherd and work -/

/-- What `Obligations.ShepherdInstructions` asks of the state, at states that meet it. -/
def shepherdPremises : Prop :=
    let o := op (.s 4) (.s 0) (.s 1) (.s 2)
    let lone := fun (s : State) => One s o ∧ (s.core 0).late = []
    (let s := baseShep [0, 1, 0xFFFFFFFF]
     let e := env s o
     lone s ∧ spawnCore 0 (e.c32 o) = some 0 ∧ e.s.spawnBad e 0 1 (some 0) = false ∧ e.s.spawnRoom 0 e.l.width 0 1 = true
       ∧ BlkThere s 0 e.l e.l.entry false true)
    ∧ (let s := (baseShep [7, 65535]).updRes 0 0 fun r => { r with ringNext := 256, ring := [(0, 9, 0)] }
       lone s ∧ (Tab.getD (s.res 0 0).ring ((s.res 0 0).ringNext.toNat % 256) (0, 0)).2 = 0)
    ∧ (let p := op (.w 4) (.w 0) .zero .zero
       let s := (base [0]).updRes 0 0 fun r => { r with ringNext := 256, ring := [(0, 9, 2)], ringAt := (1, 256) }
       One s p ∧ (s.core 0).late = [] ∧ Tab.get? (s.res 0 0).ring 0 = some (9, 2)
         ∧ ((s.res 0 0).ringNext - (env s p).a32 p).toNat = 256 ∧ ringFresh (s.res 0 0) s.cycles ((env s p).a32 p) = false)
    ∧ (∀ n ∈ [0, 1], let s := (baseShep [1]).updRes 0 0 fun r => { r with spawnCnt := 1, retired := n }
       lone s ∧ ((env s o).a32 o).toNat ≤ (s.res 0 0).spawnCnt ∧ (s.res 0 0).retired = n)
    ∧ (lone (baseShep [0]) ∧ ((baseShep [0]).res 0 0).tn = 0)
    ∧ (let s := (baseShep [3]).updRes 0 0 fun r => { r with tn := 2, votes := [(1, { vec := 7, count := 3 })] }
       lone s ∧ (s.res 0 0).tn ≠ 0 ∧ Tab.get? (s.res 0 0).votes ((s.res 0 0).tn - 1).toNat = some { vec := 7, count := 3 }
         ∧ (env s o).a32 o = 3)
    ∧ (let s := (baseShep [4]).updRes 0 0 fun r => { r with tn := 2, votes := [(1, { vec := 7, count := 3 })] }
       lone s ∧ (3 : Word) < (env s o).a32 o)
    ∧ (∃ k ∈ ((baseShep [0]).core 0).threads, k.2.lid = 0 ∧ k.2.tid ≠ shepTid)
    ∧ (let s := (baseShep [0]).updCore 0 fun k => { k with threads := [] }
       lone s ∧ (∀ k ∈ (s.core 0).threads, k.2.lid = 0 → k.2.tid = shepTid) ∧ (s.core 0).tracker = [] ∧ (s.res 0 0).gone = false
         ∧ (s.agentD ag).shep = true ∧ s.agent? ag = some (s.agentD ag))
    ∧ (∀ w ∈ [Wait.spawn, .dpush, .swait, .scond 3, .dpop [256]],
       let a := { agent true [] with wait := some w }
       let s := base0 (launch [3]) a
       s.agent? ⟨0, 0⟩ = some a ∧ (s.core 0).frozen = false ∧ a.wait = some w ∧ s.phase ≤ s.issueRank ⟨0, 0⟩
         ∧ s.dpopBehind ⟨0, 0⟩ a.lid = false)
theorem witness_ShepherdInstructions : shepherdPremises := by
  unfold shepherdPremises
  refine ⟨⟨?_, ?_, ?_, ?_, ?_⟩, ?_⟩
  case refine_5 => exact blkThere_of (w := blkWord) (ctl := default) (live := 0) (pa := 0x1080) 0x73 3 8 (by decide +kernel)
  all_goals decide +kernel

/-- A device queue 0 with a ring of 16 records, and graph 1 with one node of one buffer. -/
def qWords : List Word := [0x40009000, 0, 0x904, 0xFFFFFFFF]
def nodeWords : List Word := [0x40001000, 0, 0x4000C000, 0, 0x4000D000, 0, 0x00010001, 0, 0x4000E000, 0]
def workAt (ws : List Word) : State :=
  let l := launch [3, 0, 0x80, 0x80]
  let s := base0 { l with rec_ := [0, 0, 1, 0x10000, 0x40003000, 0, 0, 0, 0, 1, 0, 0, 0, 0, 0, 0] } (agent false ws)
  let s := ((((s.setReg 0 0x8000).setReg 8 1).setReg 0x10 0xA000).setReg 0xC 2)
  withWords (withWords (withWords s 0x8000 qWords) 0xA020 [1, 0, 0, 0, 0x4000B000, 0, 1, 0]) 0xB000 nodeWords
def node1 : Node := { open_ := [], since := 0, next := 0, closed := [], busy := [], part := 0, width := 32, head := none, dropped := [] }

/-- What `Obligations.WorkInstructions` asks of the state, at states that meet it. -/
def workPremises : Prop :=
    let common := fun (s : State) (o : Op) => One s o ∧ s.fabric.biasJob = none ∧ (s.agentD ag).served = [] ∧ (s.agentD ag).got = []
      ∧ (s.core 0).outst = [] ∧ (s.core 0).late = [] ∧ (env s o).l.race = false ∧ (s.core 0).settledAt ≠ some s.cycles
      ∧ (env s o).l.cancelled = false ∧ s.mergeFlags 0 0 = s
    let read := fun (past : Bool) (n : Nat) (o : Op) (e : Env) (x : State) => workAsk past n o x e
    (∀ q ∈ [0, 1],
      let o := op (.w 4) (.w 0) (.w 2) .zero
      let s := workAt [0x40003000, 0, BitVec.ofNat 32 q]
      let e := env s o
      let ds := memRead s.mem 0x3000 64
      let x := (read false 64 o e (read false 64 o e e.s).1).1
      common s o ∧ (e.a64 o).toNat % 64 = 0 ∧ (read false 64 o e e.s).2 = .data ds
        ∧ (read false 64 o e (read false 64 o e e.s).1).2 = .data ds
        ∧ (if q = 1 then x.enqStatus e.l 1 = .error 4
          else x.enqStatus e.l 0 = .ok (qWords ++ List.replicate 12 0) ∧ ((x.releaseNow 0 0 5).hubWrite 0 (qSlotAddr qWords 0) ds).2 = .ok ()))
    ∧ (∀ nd ∈ [node1, { node1 with open_ := List.replicate 31 (0, 0), busy := [0] }],
      let o := op .zero (.w 0) (.w 1) (.w 2)
      let s0 := workAt [0, 8, 9]
      let s : State := { s0 with front := { s0.front with nodes := [(65536, nd)] } }
      let e := env s o
      common s o ∧ (nd.lapsed s.wgTimer.toNat s.nanos = false ∨ nd.open_ = []) ∧ (e.s.nodeEntry e.l.part (e.l.recW 9) (e.a32 o).toNat).2 = some (nodeWords ++ List.replicate 6 0)
        ∧ Tab.get? s.front.nodes 65536 = some nd ∧ nd.takes (nodeNbuf nodeWords) = true)
    ∧ (let o := op .zero (.w 0) (.w 2) .zero
       let s := base [0x40003000, 0, 5]
       common s o ∧ Reaches (env s o) ((env s o).a64 o) 8 Acc.rmw 0x3000 ∧ (∀ bs, Ordinary { s with mem := memWrite s.mem 0x3000 bs } 0x3000 8)
         ∧ Memory.wf s.mem = true ∧ s.errs.bad = [] ∧ s.hostBiased 0x3000 = false ∧ o.d = .zero)
    ∧ (∀ b ∈ [0, 1],
      let o := op (.w 4) (.w 0) (.w 2) .zero
      let s := base [0x40003000, 0, BitVec.ofNat 32 b, 0]
      let e := env s o
      let bs := memRead s.mem 0x3000 8
      common s o ∧ (e.a64 o).toNat % 8 = 0 ∧ (read true 8 o e e.s).2 = .data bs ∧ (read true 8 o e (read true 8 o e e.s).1).2 = .data bs
        ∧ word64 bs = 0 ∧ e.b64 o = BitVec.ofNat 64 b)
    ∧ (∀ x ∈ [0, 1],
      let o := op (.w 4) (.w 0) .zero .zero
      let s := base [BitVec.ofNat 32 x]
      let e := env s o
      let named := s.launches.filter fun y => y.2.recW 8 == e.a32 o && y.2.recW 11 == e.l.recW 11
      common s o ∧ o.mbits 0 2 = 0 ∧ s.reg 8 = 0 ∧ (e.s.batchesNamed (e.a32 o) (e.l.recW 11)).2 = [] ∧ (if x = 1 then named = [] else named = [(0, s.launchD 0)] ∧ (s.launchD 0).st = .running
          ∧ (s.launchD 0).stop = none))
    ∧ (let o := op (.w 4) (.w 0) .zero .zero 1
       let s := workAt [3]
       common s o ∧ o.mbits 0 2 ≠ 0 ∧ s.objOk (o.mbits 0 2) ((env s o).a32 o) ((env s o).l.recW 11) = none)
    ∧ (let a := { agent false [] with wait := some .cntwait }
       let s := base0 (launch [3]) a
       s.agent? ⟨0, 0⟩ = some a ∧ a.wait = some .cntwait ∧ (s.core 0).frozen = false ∧ s.phase ≤ s.issueRank ⟨0, 0⟩)
    ∧ (let s := base []
       (s.core 0).l1 = [] ∧ (s.core 0).late = [] ∧ s.hostBiased 0x3000 = false ∧ (s.xlate (some 0) 0 0 0x40003000 Acc.read).2.toOption = some (.dev 0x3000) ∧ s.badRange 0x3000 64 = false)
theorem witness_WorkInstructions : workPremises := by
  unfold workPremises
  intro common read
  refine ⟨?_, ?_, ⟨?_, reaches_of ?_, fun _ => ordinary_of ?_, ?_⟩, ?_, ?_, ?_, ?_⟩
  · intro q hq
    simp only [List.mem_cons, List.not_mem_nil, or_false] at hq
    rcases hq with rfl | rfl
    · refine ⟨?_, ?_, ?_, ?_, ok_of ?_, ok_of ?_⟩ <;> decide +kernel
    · refine ⟨?_, ?_, ?_, ?_, error_of ?_⟩ <;> decide +kernel
  all_goals decide +kernel

/-- The statement asks what those of the three groups ask, of one lane that has no load to come where it reads a result. -/
theorem witness_MatrixShepherdAndWorkInstructionsComplete : matrixPremises ∧ shepherdPremises ∧ workPremises
    ∧ (∀ o ∈ [op (.w 1) .zero .zero .zero 32, op (.w 1) (.w 0) .zero .zero 48],
      One (matrixAt [15]) o ∧ ((matrixAt [15]).core 0).late = [] ∧ ((matrixAt [15]).core 0).queue = [])
    ∧ node1.lapsed (workAt []).wgTimer.toNat (workAt []).nanos = false :=
  ⟨witness_MatrixInstructionsAreQueued, witness_ShepherdInstructions, witness_WorkInstructions, by decide +kernel, by decide +kernel⟩

/-! #### The system instructions -/

/-- A privileged launch. -/
def privAt (ws : List Word) : State :=
  let l := launch [3, 0, 0x80, 0x80]
  base0 { l with priv := true } (agent false ws)

theorem witness_SystemRegistersAndPrivilege :
    (∀ n ∈ [0, 1, 2, 4, 5, 6, 0x10, 0x11, 0x12, 0x100, 0x101, 0x102], isSysReg (op (.w 4) .zero .zero .zero 0 (BitVec.ofNat 32 n)).imm.toNat = true)
    ∧ (∀ x ∈ [(1, 0xFFFFFE00), (2, 0x1FFFFFF), (4, 1), (5, 0xFFFFFFFF), (6, 0xFFFFFFFF)],
      let o := op .zero (.w 0) .zero .zero 0 (BitVec.ofNat 32 x.1)
      let s := base [BitVec.ofNat 32 x.2]
      One s o ∧ (s.agentD ag).shep = false ∧ s.launch? 0 = some (env s o).l ∧ (env s o).l.priv = false
        ∧ (x.1 = 1 → x.2 % 512 = 0) ∧ (x.1 = 2 → x.2 < 33554432))
    ∧ (∀ x ∈ [(0x100, 65535), (0x100, 1), (0x101, 10000), (0x101, 1), (0x102, 100), (0x102, 1000000)],
      let o := op .zero (.w 0) .zero .zero 0 (BitVec.ofNat 32 x.1)
      let s := privAt [BitVec.ofNat 32 x.2]
      One s o ∧ (env s o).l.priv = true ∧ ((env s o).a32 o) = BitVec.ofNat 32 x.2)
    ∧ (∀ x ∈ [(0x100, 0), (0x100, 65536), (0x101, 0), (0x101, 10001), (0x102, 99), (0x102, 1000001)],
      let o := op .zero (.w 0) .zero .zero 0 (BitVec.ofNat 32 x.1)
      let s := privAt [BitVec.ofNat 32 x.2]
      One s o ∧ (s.agentD ag).shep = false ∧ (env s o).l.priv = true ∧ ((env s o).a32 o).toNat = x.2)
    ∧ (let s := base [1]
       s.cur = some ag ∧ (s.launchD (s.agentD ag).lid).priv = false
         ∧ (∀ n ∈ [0x100, 0x101, 0x102], (op .zero (.w 0) .zero .zero 0 (BitVec.ofNat 32 n)).imm = BitVec.ofNat 32 n)) := by decide +kernel

theorem witness_CacheTlbAndHaltControl :
    (let o := op .zero (.w 0) (.w 2) .zero
     let s := base [0x40010000, 0, 65536]
     let e := env s o
     One s o ∧ cctlSpans (e.a64 o) (e.b32 o).toNat = [(0x40010000, 65536)] ∧ (s.core 0).outst = []
       ∧ (e.s.xlate (some 0) 0 e.l.part 0x40010000 Acc.touch).2 = .ok (.dev 0x10000))
    ∧ (∀ st ∈ [1, 3],
      let o := op .zero (.w 0) .zero .zero
      let s := ((privAt [15]).setReg (0x400 + 32 * 15) 2).setReg (0x408 + 32 * 15) (BitVec.ofNat 32 st)
      let e := env s o
      One s o ∧ e.l.priv = true ∧ (e.a32 o).toNat ≤ 15 ∧ (e.a32 o).toNat ≠ e.l.part ∧ (s.agentD ag).served = []
        ∧ s.pState 15 = st)
    ∧ (let o := op .zero (.w 0) .zero .zero
       let l := { launch [3] with priv := true }
       let s := base0 l { agent false [15] with served := [(17179869199, 2)] }
       let e := env s o
       One s o ∧ e.l.priv = true ∧ (e.a32 o).toNat ≤ 15 ∧ (e.a32 o).toNat ≠ e.l.part
         ∧ (e.a32 o).toNat = 15 ∧ (s.agentD ag).served = [(17179869199, 2)]) := by
  refine ⟨⟨?_, ?_, ?_, ok_of ?_⟩, ?_, ?_⟩ <;> decide +kernel

/-! #### Droves and threads -/

/-- The drove of the tests at its BLK. -/
def atBlk : Agent := { agent false [] with pc := 0x40001080, blk := 0x40001080 }

theorem witness_DrovesReceiveAndIssue :
    (let p : Pend := { sb := none, due := none, await := [], regs := [.w 0], writes := [{ lane := 0, reg := .w 0, val := 7 }] }
     let a := { agent false [] with pending := [p, p], livein := [0, 1, 2, 3, 63], demand := [63] }
     (base0 (launch [3]) a).agent? ⟨0, 0⟩ = some a ∧ a.pending = p :: [p] ∧ (∀ q ∈ [p, p], q.due = none) ∧ p.await = [] ∧ 63 ∈ a.demand
       ∧ (base0 (launch [3]) a).phase ≤ turnRank 4 0 0 0)
    ∧ (let s0 := base0 (launch [3]) atBlk
       let s : State := { s0.updCore 0 fun k => { k with agents := [(0, atBlk), (1, atBlk)], icache := [(icKey 0 0x40001080, blkWord)] } with
         mem := [], phase := turnRank 3 0 1 0 }
       (∀ b, s.pipeFree 0 0 b = true) ∧ (s.core 0).frozen = false ∧ (s.readyDroves 0 0).2 = (0, none) :: (1, none) :: [] ∧ Tab.get? (s.core 0).picks 0 = none
         ∧ turnRank 3 0 1 0 ≤ s.phase ∧ s.phase ≤ s.issueRank ⟨0, 0⟩ ∧ s.phase ≤ s.issueRank ⟨0, 1⟩)
    ∧ (let s := base0 (launch [3]) atBlk
       WordThere s 0 (s.launchD 0) atBlk.pc blkWord
         ∧ decodeWord ((s.launchD 0).ctx false) blkWord = .ok (.blk default 0 false true)
         ∧ (s.core 0).frozen = false ∧ s.pipeFree 0 0 false = true ∧ s.fabric.biasJob = none ∧ s.fabric.blocked = false ∧ Tab.get? (s.core 0).picks 0 = none ∧ s.phase ≤ turnRank 3 0 1 0
         ∧ (s.core 0).agents = [(0, atBlk)] ∧ atBlk.shep = false ∧ atBlk.quad = 0 ∧ atBlk.ended = false
         ∧ atBlk.pending = [] ∧ atBlk.hold s.cycles (s.launchD 0).trusted (instrCtl (.blk default 0 false true)) (instrReads (.blk default 0 false true))
             (isSread (.blk default 0 false true)) = .ready) := by
  exact ⟨by decide +kernel, by decide +kernel, wordThere_of (pa := 0x1080) 0x73 3 8 (by decide +kernel), ok_of (by decide +kernel),
    by decide +kernel⟩

/-- A fold of one thread, and of a full team that arrived before cycle 5. -/
def fold1 (team join : Bool) (n : Nat) : Fold :=
  let f : Fold := { lid := 0, addr := 0x40001080, resume := false, team, landing := true, members := [], since := 0, elig := none, closed := false }
  { f with members := (List.range n).map fun i => { tid := n - 1 - i, arrived := 4, join } }
def withFold (s : State) (f : Fold) : State := s.setQuad 0 0 { folds := [(31, f)], stray := [], lastElig := 0, refile := (0, 0, none) }

theorem witness_FoldsFormDroves :
    (∀ x ∈ [(false, 32, 5), (false, 1, 68), (true, 1, 260)],
      let s := withFold (later (base []) x.2.2 0) (fold1 false x.1 x.2.1)
      let f := fold1 false x.1 x.2.1
      f.team = false ∧ f.since ≤ x.2.2 ∧ (s.core 0).frozen = false ∧ Tab.get? (s.quad 0 0).folds 31 = some f ∧ f.elig = none
        ∧ s.eligibleAt 0 f = some x.2.2 ∧ x.2.2 ≤ s.cycles)
    ∧ (let s := withFold (later (base []) 5 0) (fold1 false false 32)
       (s.core 0).frozen = false ∧ s.phase ≤ turnRank 2 0 1 1 ∧ Tab.wf (s.quad 0 0).folds = true ∧ s.headFold 0 0 = some (31, fold1 false false 32)
         ∧ s.drawn 0 (fold1 false false 32) ≠ [] ∧ s.slotsUsed 0 0 + (s.launchD 0).width / 32 ≤ 16) := by decide +kernel

/-- A drove of one lane that is about to leave its block. -/
def leaving (target : DWord) (k : ExitKind) : Agent :=
  { agent false [] with ended := true, lanes := [(0, { lane [] with exit := some (target, k), cw := [(63, 9)] })] }

theorem witness_ThreadsMove :
    (∀ k ∈ [ExitKind.plain, .join],
      let a := leaving 0x40001080 k
      let s := base0 (launch [3]) a
      BlkThere s 0 (s.launchD 0) 0x40001080 false true ∧ (s.core 0).agents = [(0, a)] ∧ a.shep = false ∧ a.ended = true ∧ a.pending = [] ∧ a.held = []
        ∧ a.lanes = [(0, { lane [] with exit := some (0x40001080, k), cw := [(63, 9)] })] ∧ (s.launchD 0).cancelled = false
        ∧ s.phase ≤ turnRank 4 0 (a.quad + 1) 0)
    ∧ (let a := leaving 0 .exit
       let s := base0 (launch [3]) a
       (s.core 0).agents = [(0, a)] ∧ a.ended = true ∧ a.pending = [] ∧ a.held = [] ∧ Tab.wf (s.core 0).threads = true
         ∧ (s.launchD 0).cancelled = false ∧ (s.core 0).outst = [] ∧ (s.core 0).copies = [] ∧ s.fabric.remote = []
         ∧ s.phase ≤ turnRank 4 0 (a.quad + 1) 0)
    ∧ (let s := (base []).setQuad 0 0 { folds := (List.range 31).map (fun n => (n, fold1 false false 1)), stray := [0, 5], lastElig := 0, refile := (1, 0, none) }
       (s.quad 0 0).stray = 0 :: [5] ∧ s.phase ≤ turnRank 2 0 1 0 ∧ (s.quad 0 0).refile.1 ≠ s.cycles ∧ (s.quad 0 0).refile.2.2 = none ∧ Tab.get? (s.quad 0 0).folds 31 = none
         ∧ ∀ m, m < 31 → (Tab.get? (s.quad 0 0).folds m).isSome = true)
    ∧ (let l := launch [3]
       let s := base0 { l with rec_ := [0, 0, 2, 0x10000] } (agent false [])
       let s := (later s 256 0).updThread 0 0 1 fun t => { t with place := .filed 0 }
       let f : Fold := { fold1 true false 1 with closed := true }
       let s := s.setQuad 0 0 { folds := (List.range 32).map (fun n => (n, f)), stray := [9], lastElig := 0, refile := (0, 0, none) }
       (s.quad 0 0).stray ≠ [] ∧ (s.quad 0 0).folds.length = 32 ∧ s.headFold 0 0 = none ∧ spillChoice (s.quad 0 0).folds = some (31, f)
         ∧ ∀ e ∈ (s.quad 0 0).folds, (s.quad 0 0).lastElig + 4 * (s.launchD e.2.lid).age ≤ s.cycles ∧ (s.core 0).frozen = false ∧ s.phase ≤ turnRank 4 0 1 (2 ^ 60)) := by
  refine ⟨?_, ?_, ?_, ?_⟩
  · intro k hk
    simp only [List.mem_cons, List.not_mem_nil, or_false] at hk
    rcases hk with rfl | rfl <;>
      exact ⟨blkThere_of (w := blkWord) (ctl := default) (live := 0) (pa := 0x1080) 0x73 3 8 (by decide +kernel), by decide +kernel⟩
  all_goals decide +kernel

/-- A park for resolution, and a lane that waits for it. -/
def park1 (x : Option (DWord × ExitKind)) : Park := { cause := 5, word := 0x40001090, blk := 0x40001080, addr := 0x1234, acc := 1, tframe := 0, target := x, path := 0 }
def parked (x : Option (DWord × ExitKind)) : State :=
  (base []).updThread 0 0 0 fun t => { t with place := .faultFold, park := some (park1 x) }

theorem witness_ParkedThreadsGoOn :
    (let ln := { lane [] with parking := some (park1 none) }
     let a := { agent false [] with lanes := [(31, ln)] }
     let s := (base0 (launch [3]) a).setReg 0x30100 0x20000
     s.agent? ⟨0, 0⟩ = some a ∧ a.shep = false ∧ a.pending = [] ∧ Tab.get? a.lanes 31 = some ln ∧ ln.parking = some (park1 none)
       ∧ (park1 none).cause = 5 ∧ Tab.wf a.lanes = true ∧ (s.reg64 0x30100).toNat ≠ 0 ∧ (s.fq 0).recs = [] ∧ (s.fq 0).ovf = false
       ∧ s.root 16 = 0 ∧ s.errs.bad = [] ∧ (s.reg64 0x30100).toNat + 8192 ≤ memSize ∧ Memory.wf s.mem = true
       ∧ s.lanesAway ⟨0, 0⟩ = [] ∧ s.phase ≤ turnRank 4 0 0 0 ∧ (s.launchD a.lid).cancelled = false)
    ∧ (∀ x ∈ [none, some ((0x40001080 : DWord), ExitKind.plain)],
       Tab.get? ((parked x).core 0).threads (threadKey 0 0) = some ((parked x).thread 0 0 0) ∧ ((parked x).thread 0 0 0).place = .faultFold
         ∧ ((parked x).thread 0 0 0).park = some (park1 x)
         ∧ (∀ q ∈ (parked x).fabric.fqs, ∀ e ∈ q.2.recs, Waiter.thread 0 0 0 ∉ e.2.waiters)
         ∧ (∀ e ∈ (parked x).fabric.remote, e.2.ofLane = true) ∧ ((parked x).core 0).frozen = false)
    ∧ BlkThere (parked (some (0x40001080, .plain))) 0 ((parked none).launchD 0) 0x40001080 false true
    ∧ (let a := { agent false [] with wait := some (.yield 256) }
       let s := later (base0 (launch [3]) a) 256 0
       s.agent? ⟨0, 0⟩ = some a ∧ a.wait = some (.yield 256) ∧ 256 ≤ s.cycles)
    ∧ (let x : Track := { lid := 0, team := 0, acc := [3], copies := [(4, 0)], reqs := [5] }
       let s := (base []).updCore 0 fun k => { k with tracker := [(63, x)], threads := [] }
       Tab.get? (s.core 0).tracker 63 = some x ∧ Tab.wf (s.core 0).tracker = true ∧ s.launch? 0 = some (s.launchD 0)
         ∧ (∀ i ∈ x.acc, ∀ o ∈ (s.core 0).outst, o.id ≠ i) ∧ Tab.get? (s.core 0).copies 4 = none
         ∧ Tab.get? s.fabric.remote 5 = none ∧ (s.core 0).tracker = [(63, x)]
         ∧ ∀ i ∈ (s.launchD 0).teamTids 0, Tab.get? (s.core 0).threads (threadKey 0 i) = none) := by
  refine ⟨?_, ?_, ?_, ?_, ?_⟩
  · decide +kernel
  · decide +kernel
  · exact blkThere_of (w := blkWord) (ctl := default) (live := 0) (pa := 0x1080) 0x73 3 8 (by decide +kernel)
  all_goals decide +kernel


/-! #### The front end -/

/-- The table of `pages` leads every address from 0x4000_0000 to 0x8000_0000 to the leaf of 1 GiB. -/
theorem walk_pages {m : List Host.Cell} {v : Nat} (h : ∀ x, x < 16 → memGet m x = memGet pages x) (hv : v / 2 ^ 30 = 1) :
    walk m 5 0 v = some (0x73, 3, 8) := by
  have h0 : memRead m 0 8 = memRead pages 0 8 := by simp [memRead, h]
  have h8 : memRead m 8 8 = memRead pages 8 8 := by simp [memRead, h]
  have e0 : word64 (memRead m 0 8) = 1#64 := by rw [h0]; decide +kernel
  have e8 : word64 (memRead m 8 8) = 0x73#64 := by rw [h8]; decide +kernel
  have i5 : v / 2 ^ 48 % 2 ^ 9 = 0 := by omega
  have i4 : v / 2 ^ 39 % 2 ^ 9 = 0 := by omega
  have i3 : v / 2 ^ 30 % 2 ^ 9 = 1 := by omega
  have t5 : leafOk 5 1#64 = false ∧ tableOk 5 1#64 = true ∧ pteTable 1#64 = 0 := by decide +kernel
  have t4 : leafOk 4 1#64 = false ∧ tableOk 4 1#64 = true := by decide +kernel
  have t3 : leafOk 3 115#64 = true := by decide +kernel
  have z : ¬memSize ≤ 0 ∧ ¬memSize ≤ 8 := by decide +kernel
  simp only [walk, levelShift, levelBits, Nat.reduceAdd, Nat.reduceEqDiff, if_false, i5, i4, i3, Nat.mul_zero, Nat.mul_one, Nat.add_zero,
    Nat.zero_add, e0, e8, t5, t4, t3, z, Bool.false_eq_true, if_true]
  rfl

theorem walkPath_pages {m : List Host.Cell} {v : Nat} (h : ∀ x, x < 16 → memGet m x = memGet pages x) (hv : v / 2 ^ 30 = 1) :
    walkPath m 5 0 v = [0, 0, 8] := by
  have h0 : memRead m 0 8 = memRead pages 0 8 := by simp [memRead, h]
  have h8 : memRead m 8 8 = memRead pages 8 8 := by simp [memRead, h]
  have e0 : word64 (memRead m 0 8) = 1#64 := by rw [h0]; decide +kernel
  have e8 : word64 (memRead m 8 8) = 0x73#64 := by rw [h8]; decide +kernel
  have i5 : v / 2 ^ 48 % 2 ^ 9 = 0 := by omega
  have i4 : v / 2 ^ 39 % 2 ^ 9 = 0 := by omega
  have i3 : v / 2 ^ 30 % 2 ^ 9 = 1 := by omega
  have t5 : leafOk 5 1#64 = false ∧ tableOk 5 1#64 = true ∧ pteTable 1#64 = 0 := by decide +kernel
  have t4 : leafOk 4 1#64 = false ∧ tableOk 4 1#64 = true := by decide +kernel
  have t3 : leafOk 3 115#64 = true := by decide +kernel
  simp only [walkPath, levelShift, levelBits, Nat.reduceAdd, Nat.reduceEqDiff, if_false, i5, i4, i3, Nat.mul_zero, Nat.mul_one,
    Nat.add_zero, Nat.zero_add, e0, e8, t5, t4, t3, if_true]
  try rfl

theorem hubAt_of {s : State} {part : Nat} {va : DWord} {n pa : Nat}
    (h : s.fabric.tlb = [] ∧ s.fabric.walks = [] ∧ s.fabric.bias = [] ∧ s.errs.bad = [] ∧ s.root part = 0 ∧ (∀ x ∈ List.range 16, memGet s.mem x = memGet pages x)
      ∧ 16 ≤ pa ∧ pa + n ≤ 0x40000000 ∧ va.toNat = 0x40000000 + pa) : HubAt s part va n pa := by
  obtain ⟨ht, hw, hbias, hb, hr, hp, h16, hn, hva⟩ := h
  refine ⟨ht, hw, hb, 0x73, 3, 8, by decide, by decide, by decide, ?_⟩
  intro i hi
  have hv : (va + BitVec.ofNat 64 i).toNat = 0x40000000 + pa + i := by
    rw [BitVec.toNat_add, BitVec.toNat_ofNat, hva]; omega
  have h57 : va57 (va + BitVec.ofNat 64 i) = 0x40000000 + pa + i := by rw [va57, hv]; omega
  refine ⟨?_, ?_, by rw [State.hostBiased, hbias]; rfl, ?_, ?_⟩
  · have : (0x40000000 + pa + i) / 2 ^ 56 = 0 := by omega
    rw [canonical, hv, this]; rfl
  · have e : pteAddr 0x73 = 0 := by decide +kernel
    rw [h57, e]; simp only [levelShift]; omega
  · rw [hr, h57]
    exact walk_pages (fun x hx => hp x (List.mem_range.mpr hx)) (by omega)
  · rw [hr, h57, walkPath_pages (fun x hx => hp x (List.mem_range.mpr hx)) (by omega)]
    simp only [List.mem_cons, List.not_mem_nil, or_false]
    rintro a (rfl | rfl | rfl) <;> omega

/-- A queue of 16 records with a ring at 0x4000_9000 and these RDIDX and WRIDX, whose descriptor stands at 0x8000 + 64 q. -/
def queueAt (q : Nat) (rd wr : Word) : State :=
  let s := ((base []).setReg 0 0x8000).setReg 8 (BitVec.ofNat 32 (q + 1))
  withWords s (0x8000 + 64 * q) [0x40009000, 0, 0x104, 0xFFFFFFFF, rd, 0, wr, 0]
def queueWords (rd wr : Word) : List Word := [0x40009000, 0, 0x104, 0xFFFFFFFF, rd, 0, wr, 0] ++ List.replicate 8 0
def withSlot (s : State) (x : Slot) : State := { s with front := { s.front with slots := [(511, x)] } }

theorem witness_HostWritesAndDoorbells :
    ((base []).isReady = true ∧ Tab.wf (base []).front.regs = true)
    ∧ (let s := (base []).setReg 0x50004 0x10000001
       s.isReady = true ∧ (s.reg 0x5000C).getLsbD 31 = false ∧ (s.reg 0x50004).toNat / 65536 ≤ 4096)
    ∧ (∀ now ∈ [10000, 10001],
      let s0 := later (base []) 0 now
      let s : State := { s0 with front := { s0.front with latch := [(8191, (7, 0))] } }
      s.isReady = true ∧ Tab.wf s.front.latch = true ∧ Tab.get? s.front.latch 8191 = some (7, 0)
        ∧ (if now = 10000 then s.nanos ≤ 0 + 10000 else 0 + 10000 < s.nanos))
    ∧ (∀ v ∈ [5, 20, 21],
      let s := queueAt 8191 4 4
      let d := queueWords 4 4
      let v := BitVec.ofNat 64 v
      s.isReady = true ∧ s.root 16 = 0 ∧ s.errs.bad = [] ∧ Memory.wf s.mem = true ∧ Tab.wf s.front.latch = true
        ∧ Tab.wf s.front.slots = true ∧ s.qtBase 8191 + 64 * 8191 + 64 ≤ memSize ∧ s.qdesc 8191 = some d ∧ qDevq d = false ∧ qStopped d = false ∧ v ≠ qWr d
        ∧ (v - qWr d).toNat < 2 ^ 63 ∧ (if v = 21 then qSize d < (v - qRd d).toNat else (v - qRd d).toNat ≤ qSize d))
    ∧ (let sl : Slot := { tabs := { qt := 0x8000, qn := 8192, wo := 0, wn := 0 }, queue := 8191, last := 0, head := none, goes := false, given := none, taken := 0 }
       let s := withSlot (later (queueAt 8191 4 4) 0 50000) sl
       Tab.get? s.front.slots 511 = some sl ∧ sl.head = none ∧ Tab.wf s.front.slots = true
         ∧ Tab.getD s.front.requeue sl.queue [] = [] ∧ s.qdesc sl.queue = some (queueWords 4 4)
         ∧ qRd (queueWords 4 4) = qWr (queueWords 4 4) ∧ sl.last + s.qIdle.toNat * 1000 ≤ s.nanos ∧ s.front.rescan = []) := by
  refine ⟨?_, ?_, ?_, ?_, ?_⟩ <;> decide +kernel

/-- A record in the ring of queue 0, in its slot. -/
def recWords : List Word := [0x40001000, 0, 1, 0x10100, 0x40003000, 0, 0x40005000, 0, 0, 0, 0, 0, 0, 0, 0, 0]
def slot0 (h : Option Nat) : Slot :=
  { tabs := { qt := 0x8000, qn := 1, wo := 0, wn := 0 }, queue := 0, last := 0, head := h, goes := false, given := none, taken := 0 }
def recordAt : State := withSlot (withWords (queueAt 0 0 1) 0x9000 recWords) (slot0 none)
/-- A launch at the head of queue 0, the next of partition 0, which has chiplet 0. -/
def headWords : List Word := [3, 0, 0x80, 0x80, 0, 0x1040, 0x10000, 0x4010] ++ List.replicate 8 0
def image0 : Image :=
  { addr := 0x40010000, part := 0, len := 64, code := 0x40001000, size := 0x1000, bytes := [], res := none, relocs := [] }
def headLaunch (st : LState) (ready : Bool) (h : List Word) : Launch :=
  let l := newLaunch recWords 0 false (some 0) none
  { l with st, ready, hdr := h, rec_ := recWords.set 12 0x40003000 }
def headAt (l : Launch) (serving : Tab Client) : State :=
  let s := withSlot (((queueAt 0 1 1).setReg 0x400 1).setReg 0x408 1) (slot0 (some 0))
  let s : State := { s with cores := [], launches := [(0, l)] }
  withWords { s with front := { s.front with images := [(0, image0)], serving } } 0x1000 headWords

theorem witness_LaunchesStart :
    (let s := recordAt
     let d := queueWords 0 1
     HubAt s (qPart d) (qRing d + BitVec.ofNat 64 (64 * ((qRd d).toNat % qSize d))) 64 0x9000 ∧ Tab.get? s.front.slots 511 = some (slot0 none) ∧ (slot0 none).given = none ∧ Tab.getD s.front.requeue 0 [] = [] ∧ s.front.cancelled = []
       ∧ s.qdesc 0 = some d ∧ qStopped d = false ∧ qRd d ≠ qWr d
       ∧ s.root 16 = 0 ∧ s.qtBase 0 + 64 * 0 + 64 ≤ memSize ∧ s.front.halted = [] ∧ Memory.wf s.mem = true
       ∧ wordsOf 16 (memRead s.mem 0x9000 64) = recWords ∧ recordOk recWords = true
       ∧ ∀ i ∈ [9, 10, 11, 12, 13], recWords.getD i 0 = 0)
    ∧ (let l := headLaunch .head false []
       let s := headAt l []
       HubAt s l.part (l.rec64 12) 8 0x3000 ∧ Tab.get? s.front.slots 511 = some (slot0 (some 0)) ∧ s.launch? 0 = some l ∧ l.st = .head
         ∧ l.ready = false ∧ l.rec64 12 ≠ 0)
    ∧ (let s := headAt (headLaunch .head true []) []
       Tab.get? s.front.serving 0 = none ∧ s.front.rebound = [] ∧ s.readyClients 0 ≠ [])
    ∧ (let l := headLaunch .head true []
       let s := headAt l [(0, .slot 511)]
       let l' := { l with hdr := headWords }
       HubAt s 0 l.hdrAddr 64 0x1000 ∧ s.served 0 = some (.slot 511, 0, l) ∧ l.part = 0 ∧ s.launch? 0 = some l ∧ l.st = .head
         ∧ (s.reg (0x408 + 32 * 0)).toNat % 8 ≤ 1 ∧ s.imageFor 0 l.hdrAddr = some image0 ∧ image0.res = none
         ∧ wordsOf 16 (memRead s.mem 0x1000 64) = headWords ∧ headerOk headWords = true
         ∧ rowA l'.class_ l'.fmtA = true ∧ rowB l'.class_ l'.fmtB = true
         ∧ (candidates l'.policy l'.class_).find? (fun x => !(s.targetChips 0 x).isEmpty) = some 0
         ∧ l'.nthreads ≤ l'.ncores * 4096 ∧ l'.ncores ≤ 40 * (s.targetChips 0 0).length)
    ∧ (let l := headLaunch .bound true headWords
       let s := headAt l [(0, .slot 511)]
       HubAt s 0 (l.rec64 4) 128 0x3000 ∧ s.served 0 = some (.slot 511, 0, l) ∧ l.part = 0 ∧ s.launch? 0 = some l ∧ l.st = .bound ∧ l.waits = false
         ∧ (s.reg (0x408 + 32 * 0)).toNat % 8 = 1 ∧ s.place l = some [0]) := by
  refine ⟨⟨hubAt_of ?_, ?_⟩, ⟨hubAt_of ?_, ?_⟩, ?_, ⟨hubAt_of ?_, ?_⟩, ⟨hubAt_of ?_, ?_⟩⟩ <;> decide +kernel

/-- A launch that has ended on core 0, with the record words given. -/
def ended (f : Launch → Launch) : State :=
  let l := launch [3]
  let s := base0 (f { l with cores := [0], rec_ := [0, 0, 1, 0x10100, 0, 0, 0x40005000, 0, 0, 0, 0, 0, 0, 0, 0, 0] }) (agent false [])
  s.updCore 0 fun k => { k with agents := [], threads := [], res := [(0, { Res.empty with halted := true })] }
def stop1 (c : BitVec 8) : Stop := { cause := c, cause2 := 0xFF, who := 7, tpc := 16, addr := 0x40001234 }
/-- A closed batch of node 0 of graph 1. -/
def batchNode : Node := { node1 with closed := [(256, [(8, 9), (7, 6)]), (257, [])], busy := [256, 257] }
def batchAt : State :=
  let s := withWords (workAt []) 0xC000 (List.replicate 32 0x01010101)
  { s with front := { s.front with nodes := [(65536, batchNode)] } }
def batchWords : List Word :=
  [0x40001000, 0, 2, 0x10100, 0x4000D000, 0, 0x4000E000, 0, 256, 1, 0, 0, 0, 0, 0, 0]
/-- An image of one CODE section of 64 bytes at 0x4000_9000. -/
def imageAt (magic : Word) : State :=
  let s := withWords ((base []).setReg 0x20000 0x40009000) 0x9000 ([magic, 0x00010001, 64, 192] ++ List.replicate 12 0)
  let s := withWords s 0x9040 [0x00010000, 128, 64, 6, 0, 0, 0, 0]
  { s with front := { s.front with loader := some (1, 0x40009000, 0) } }

/-- The work objects of a state without privileged translation do not depend on memory outside their entry. -/
theorem workObj_of {s : State} {m : List Host.Cell} {a : Nat} (hroot : s.root 16 = 0) (htl : s.fabric.tlb = []) (hbad : s.errs.bad = [])
    (hbias : s.fabric.bias = [])     (ha : (s.reg64 0x10).toNat + 32 * 1 = a) (hm : a < memSize) (hr : memRead m a 32 = memRead s.mem a 32) :
    State.workObj { s with mem := m } 1 = s.workObj 1 := by
  have ht : State.tables { s with mem := m } = s.tables := rfl
  have ha' : s.tables.wo + 32 * 1 = a := ha
  have hroot' : State.root { s with mem := m } 16 = 0 := hroot
  have hit : ∀ now, s.tlbHit? none 0 16 (BitVec.ofNat 64 a) now = none := fun now => by
    simp [State.tlbHit?, State.tlbOf, htl, Tab.get?]
  have hit' : ∀ now, State.tlbHit? { s with mem := m } none 0 16 (BitVec.ofNat 64 a) now = none := hit
  simp only [State.workObj, State.workObjIn, ht, ha', State.privRead, State.xlatePriv, hroot, hroot', hit, hit', hm, if_true, Loc.bad, State.badRange,
    hbad, List.any_nil, State.hubBytes, State.hostBiased, hbias, Bool.false_eq_true, if_false, hr]

/-- The work objects of `batchAt` do not lie in the buffer of its batch. -/
theorem batch_objects (m : List Host.Cell) (h : ∀ x, x < 0xD000 ∨ 0xD000 + 384 ≤ x → memGet m x = memGet batchAt.mem x) :
    let s := { batchAt with mem := m }
    let l := newLaunch batchWords 0 false none (some (1, 0, 256))
    s.objectsOk l = true ∧ s.objectCancelled l = false := by
  have e : State.workObj { batchAt with mem := m } 1 = some [1, 0, 0, 0, 0x4000B000, 0, 1, 0] := by
    rw [workObj_of (a := 0xA020) (hroot := by decide +kernel) (htl := rfl) (hbad := rfl) (hbias := rfl) (ha := by decide +kernel)
      (hm := by decide) (hr := by simp [memRead, h])]
    decide +kernel
  have q : (newLaunch batchWords 0 false none (some (1, 0, 256))).queue = none := rfl
  generalize State.mk .. = s at e ⊢
  have o : (newLaunch batchWords 0 false none (some (1, 0, 256))).objects = [(1, 1), (2, 0), (3, 0)] := by decide +kernel
  have j : (newLaunch batchWords 0 false none (some (1, 0, 256))).recW 11 = 0 := by decide +kernel
  have g : ∀ g : List Word, g = [1, 0, 0, 0, 0x4000B000, 0, 1, 0] → objLevel g = 1 ∧ objOwner g = 0 ∧ objCancelled g = false := by
    rintro g rfl; decide +kernel
  rw [State.workObj] at e
  simp [State.objectsOk, State.objectCancelled, o, j, State.objOkIn, State.tablesFor, q, e, g]

theorem witness_LaunchesEnd :
    (∀ st ∈ [none, some (stop1 0x12)],
      let s := ended fun l => { l with stop := st, cancelled := st.isNone }
      let l := s.launchD 0
      HubAt s l.part 0x40005000 64 0x5000 ∧ s.launch? 0 = some l ∧ Tab.wf s.launches = true ∧ l.st = .running ∧ (s.reg (0x408 + 32 * l.part)).toNat % 8 < 4 ∧ (∀ c ∈ l.cores, s.coreDone c 0 = true)
        ∧ (l.recW 0).getLsbD 0 = false ∧ l.node = none ∧ (∀ i ∈ [9, 10, 11], l.recW i = 0) ∧ l.doneNew = false ∧ l.compl = some 0x40005000
        ∧ Memory.wf s.mem = true ∧ ∀ c ∈ l.cores, Tab.wf (s.core c).res = true)
    ∧ (let s := ended fun l => { l with rec_ := l.rec_.set 0 1, queue := some 0, stop := some (stop1 0x0C) }
       let l := s.launchD 0
       s.launch? 0 = some l ∧ l.st = .running ∧ (s.reg (0x408 + 32 * l.part)).toNat % 8 < 4
         ∧ (∀ c ∈ l.cores, s.coreDone c 0 = true) ∧ (l.recW 0).getLsbD 0 = true
         ∧ l.node = none ∧ l.again = false ∧ l.queue = some 0 ∧ l.stop = some (stop1 0x0C) ∧ (stop1 0x0C).cause = 0x0C)
    ∧ (let s := ended id
       Tab.get? (s.core 0).res 0 = some (s.res 0 0) ∧ s.launch? 0 = some (s.launchD 0))
    ∧ (let nd := { node1 with open_ := [(8, 9)] }
       let s0 := later (workAt []) 0 2000
       let s : State := { s0 with front := { s0.front with nodes := [(65536, nd)] } }
       Tab.get? s.front.nodes (1 * 65536 + 0) = some nd ∧ nd.open_ ≠ [] ∧ nd.since + s.wgTimer.toNat ≤ s.nanos)
    ∧ (let s := batchAt
       let e := nodeWords ++ List.replicate 6 0
       let g : List Word := [1, 0, 0, 0, 0x4000B000, 0, 1, 0]
       HubAt s 0 (pairOf (g.getD 4 0) (g.getD 5 0) + BitVec.ofNat 64 (64 * 0)) 64 0xB000
         ∧ HubAt s 0 (pairOf (e.getD 2 0) (e.getD 3 0)) 128 0xC000
         ∧ HubAt s 0 (pairOf (e.getD 4 0) (e.getD 5 0) + BitVec.ofNat 64 (384 * 0)) 384 0xD000
         ∧ Tab.get? s.front.nodes (1 * 65536 + 0) = some batchNode ∧ batchNode.closed = (256, [(8, 9), (7, 6)]) :: [(257, [])]
         ∧ batchNode.head = none ∧ 256 ∉ batchNode.dropped ∧ s.root 16 = 0 ∧ (s.nodeEntry 0 1 0).2 = some e ∧ s.workObj 1 = some g ∧ batchNode.part < 16
         ∧ 2 ≤ batchNode.width ∧ 128 * ((128 + 8 * batchNode.width + 127) / 128) = 384 ∧ 256 % ((e.getD 6 0).toNat % 256) = 0
         ∧ Memory.wf s.mem = true
         ∧ recordOk batchWords = true ∧ batchWords =
          [e.getD 0 0, e.getD 1 0, BitVec.ofNat 32 2,
           BitVec.ofNat 32 (2 ^ 16 + (e.getD 6 0).toNat / 65536 % 256 * 256 + (e.getD 6 0).toNat / 256 % 256),
           0x4000D000, 0, 0x4000E000, 0, e.getD 7 0 + BitVec.ofNat 32 256, BitVec.ofNat 32 1, g.getD 7 0, objOwner g, 0, 0, 0, 0])
    ∧ ((base []).isReady = true ∧ ((base []).reg 0x20010).getLsbD 31 = false ∧ Tab.wf (base []).front.regs = true)
    ∧ (∀ x ∈ [(0x4B565050, true), (0, false)],
      let s := imageAt (BitVec.ofNat 32 x.1)
      s.front.loader = some (1, 0x40009000, 0) ∧ Tab.wf s.front.regs = true ∧ (s.loadImage 0x40009000 0).toOption.isSome = x.2)
    ∧ ∀ a ∈ [0x40010000, 0],
      let s0 := headAt (headLaunch .head true []) []
      let s : State := { s0 with front := { s0.front with loader := some (2, BitVec.ofNat 64 a, 0) } }
      s.front.loader = some (2, BitVec.ofNat 64 a, 0) ∧ Tab.wf s.front.regs = true
        ∧ (s.front.images.find? fun e => e.2.addr == BitVec.ofNat 64 a && e.2.part == 0).isSome = (a != 0) := by
  refine ⟨?_, ?_, ?_, ?_, ⟨hubAt_of ?_, hubAt_of ?_, hubAt_of ?_, ?_⟩, ?_, ?_, ?_⟩
  · intro st hst
    simp only [List.mem_cons, List.not_mem_nil, or_false] at hst
    rcases hst with rfl | rfl <;> refine ⟨hubAt_of ?_, ?_⟩ <;> decide +kernel
  all_goals decide +kernel


/-! #### The fabric -/

/-- Partition 0 with a SPACE for other packages, and a change to its fabric. -/
def homeAt (f : Fabric → Fabric) : State :=
  let s := (base []).setReg 0x30008 0x80000007
  { s with fabric := f s.fabric }
def homeReq (n : Nat) (w : Option (List Byte)) (a : Option (Nat × DWord × DWord)) : HomeReq :=
  let r : HomeReq := { (default : HomeReq) with space := 7, va := 0x40003000, src := 5, tid := 9, size := n }
  { r with write := w, atomic := a, mask := 15 }
/-- Whether a leaf lets a request through (R315). -/
def letsIn (r : HomeReq) (e : DWord) : Bool :=
  (!(r.write.isNone || r.atomic.isSome) || pteR e) && (!(r.write.isSome || r.atomic.isSome) || pteW e)
def remote1 (k : ReqKind) : Remote :=
  let r : Remote := { (default : Remote) with kind := k, pkg := 5, va := 0x40003000, sent := 100 }
  r

theorem witness_RequestsBetweenPackages :
    (∀ r ∈ [homeReq 8 none none, homeReq 4 (some [1, 2, 3, 4]) none, homeReq 4 none (some (0, 1, 2)), homeReq 8 none (some (9, 1, 2))],
      let s := homeAt id
      (s.homePart r.space = some 0 ∧ s.fabric.moving = [] ∧ s.fabric.tlb = [] ∧ s.fabric.walks = [] ∧ s.fabric.biasJob = none
        ∧ s.hostBiased 0x3000 = false ∧ s.errs.bad = [] ∧ Memory.wf s.mem = true ∧ s.fabric.early = [] ∧ s.homeDue r = true
        ∧ r.size ≤ 256 ∧ (r.write.getD []).length ≤ 256 ∧ (∀ i, i < (r.write.getD []).length → r.mask.testBit i = true)
        ∧ (0x3000 % 32 + r.size - 1) / 32 = 0 ∧ r.mask.testBit 0 = true)
      ∧ (∀ e, letsIn r e = true → (r.write = none ∨ r.atomic.isSome = true → pteR e = true)
        ∧ (r.write.isSome = true ∨ r.atomic.isSome = true → pteW e = true))
      ∧ (∀ bs n, Ordinary { s with mem := memWrite s.mem 0x3000 bs } 0x3000 n)
      ∧ LocalAt s 0 r.va (letsIn r) 0x3000)
    ∧ (let s : State := { homeAt id with mem := [(0, 1), (8, 0x0B), (10, 3)] }
       let r := { homeReq 8 none none with va := 0x10000 }
       s.homePart r.space = some 0 ∧ s.fabric.moving = [] ∧ s.fabric.tlb = [] ∧ s.fabric.walks = []
         ∧ s.walkLeaf 0 r.va = some (0x3000B, 1, 8) ∧ pteKind 0x3000B = 5
         ∧ s.fabric.early = [] ∧ s.homeDue r = true ∧ r.size ≤ 256 ∧ (r.write.getD []).length ≤ 256)
    ∧ (let r := remote1 (.load 8 false [.w 0, .w 1])
       let a := { agent false [] with wait := some .remote }
       let s0 := base0 (launch [3]) a
       let s : State := { s0 with fabric := { s0.fabric with remote := [(63, r)] } }
       Tab.get? s.fabric.remote 63 = some r ∧ Tab.wf s.fabric.remote = true ∧ r.kind = .load 8 false [.w 0, .w 1]
         ∧ (List.replicate r.span.2 (7 : Byte)).length = r.span.2
         ∧ r.parked = false ∧ s.keptReply r = false ∧ s.agent? ⟨r.core, r.ag⟩ = some a ∧ a.wait = some .remote
         ∧ ∀ e ∈ s.fabric.remote, e.1 ≠ 63 → e.2.core ≠ r.core ∨ e.2.ag ≠ r.ag)
    ∧ (let r := { remote1 (.store [1]) with hops := 3 }
       let s := later (homeAt fun f => { f with remote := [(63, r)] }) 0 200100
       Tab.get? s.fabric.remote 63 = some r ∧ Tab.wf s.fabric.remote = true ∧ r.hops < 4 ∧ r.pending = false ∧ r.sent + 200000 ≤ s.nanos
         ∧ r.again = false ∧ r.parked = false ∧ s.keptReply r = false)
    -- a pending fault: another answer of the drove's is out, and none is
    ∧ (let r := remote1 (.load 8 false [.w 0, .w 1])
       let a := { agent false [] with pending := [{ sb := none, due := none, await := [63], regs := [.w 0], writes := [] }] }
       let s := fun (l : Tab Remote) => let s0 := base0 (launch [3]) a
         ({ s0 with fabric := { s0.fabric with remote := l } } : State)
       let of := fun (e : Nat × Remote) => e.2.ofLane = true ∧ e.2.core = r.core ∧ e.2.ag = r.ag
       r.ofLane = true ∧ (∀ l ∈ [[(63, r)], [(62, r), (63, r)]], Tab.get? (s l).fabric.remote 63 = some r ∧ (s l).keptReply r = false
           ∧ Tab.wf (s l).fabric.remote = true)
         ∧ (∃ e ∈ (s [(62, r), (63, r)]).fabric.remote, e.1 ≠ 63 ∧ of e ∧ e.2.pending = false)
         ∧ (∀ e ∈ (s [(63, r)]).fabric.remote, e.1 ≠ 63 → ¬of e)
         ∧ (s [(63, r)]).agent? ⟨r.core, r.ag⟩ = some a ∧ a.shep = false ∧ (∀ p ∈ a.pending, ∀ k ∈ p.await, k = 63)
         ∧ ((s [(63, r)]).core r.core).late = [] ∧ Tab.get? a.lanes r.lane = some (lane [])
         ∧ Tab.get? ((s [(63, r)]).core r.core).threads (threadKey a.lid (lane []).tid) = some ((s [(63, r)]).thread 0 0 0))
    ∧ ∀ x ∈ [(1, 0), (2, 6), (3, 6), (31, 5), (63, 6)], ∀ now ∈ [4999, 5000],
      let r : Rate := { num := x.1, sh := x.2, mark := 0, at_ := 0 }
      let s := later (homeAt fun f => { f with rate := [(5, r)] }) 0 now
      Tab.get? s.fabric.rate 5 = some r ∧ if now = 4999 then s.nanos < r.mark + 5000 else r.mark + 5000 ≤ s.nanos ∧ r.at_ + 5000 ≤ s.nanos := by
  refine ⟨?_, ?_, ?_, ?_, ?_, ?_⟩
  · intro r hr
    refine ⟨?_, ?_, fun _ _ => ordinary_of ?_, ?_⟩
    · revert r; decide +kernel
    · intro e h
      simp only [letsIn, Bool.and_eq_true, Bool.or_eq_true, Bool.not_eq_true', Bool.or_eq_false_iff] at h
      refine ⟨fun h1 => h.1.resolve_left fun h2 => ?_, fun h1 => h.2.resolve_left fun h2 => ?_⟩
      · rcases h1 with h1 | h1 <;> simp_all
      · rcases h1 with h1 | h1 <;> simp_all
    · decide +kernel
    · simp only [List.mem_cons, List.not_mem_nil, or_false] at hr
      rcases hr with rfl | rfl | rfl | rfl <;> exact localAt_of 0x73 3 8 (by decide +kernel)
  all_goals decide +kernel

/-- A page at level 1 whose entry stands at 8. -/
def pageAt (e : Byte) (f : Fabric → Fabric) : State := { homeAt f with mem := [(0, 1), (8, e)] }
def move1 (frame : Option Nat) (sent : Bool) : Move := { part := 0, page := 1, pkg := 3, since := 0, frame, sent }
def fq1 (open_ : Bool) (kind : Nat) (w : List Waiter) : FqRec :=
  { (default : FqRec) with kind, open_, at_ := 0, waiters := w }
def withFq (s : State) (n : Nat) (x : FqRec) : State :=
  { s with fabric := { s.fabric with fqs := [(n, { next := 7, recs := [(4095, x)], ovf := true })] } }

theorem witness_PagesFaultsAndBias :
    ((∃ pkg ∈ [3, 4], pkg ≠ Config.pkgId.toNat)
      ∧ ∀ pkg ∈ [3, 4],
        let s := pageAt 0xF3 fun f => { f with migr := [((0, va57 0x10000 / 65536, pkg), 256)] }
        s.fabric.moving = [] ∧ s.fabric.migr = [((0, va57 0x10000 / 65536, pkg), 256)] ∧ s.migThresh.toNat ≤ 256
          ∧ s.walkLeaf 0 0x10000 = some (0xF3, 1, 8) ∧ pteKind 0xF3 = 1 ∧ (0xF3 : DWord).getLsbD 7 = true ∧ s.fabric.asked = []
          ∧ (let k := (0, va57 0x10000 / 65536, pkg)
             ({ s with fabric := { s.fabric with asked := [k] } } : State).fabric.asked = [k]))
    ∧ (∀ k ∈ [0, 1],
       let n := BitVec.ofNat 32 k
       let s := ((pageAt 0x25 id).setReg 0x30110 0x20000).setReg 0x30118 n
       s.fabric.moving = [] ∧ s.walkLeaf 0 0x10000 = some (0x25, 1, 8) ∧ pteKind 0x25 = 2 ∧ pteMode 0x25 = 2 ∧ s.root 16 = 0
         ∧ s.fabric.tlb = [] ∧ s.errs.bad = [] ∧ Tab.wf s.front.regs = true ∧ s.reg 0x30118 = n
         ∧ (s.reg64 0x30110).toNat + 4 * (n.toNat - 1) < memSize ∧ s.hostBiased ((s.reg64 0x30110).toNat + 4 * (n.toNat - 1)) = false)
    ∧ (∀ sent ∈ [false, true], ∀ x ∈ [(0xF3, none, 39999), (0x25, some 1, 39999), (0xF3, none, 40000)],
       let m := move1 x.2.1 sent
       let s := later (pageAt (BitVec.ofNat 8 x.1) fun f => { f with moving := [m] }) 0 x.2.2
       s.fabric.moving = [m] ∧ m.page = va57 0x10000 / 65536 ∧ s.fabric.waiting = [] ∧ s.reg64 0x30100 = 0 ∧ s.errs.bad = []
         ∧ Memory.wf s.mem = true ∧ s.walkLeaf m.part 0x10000 = some (BitVec.ofNat 64 x.1, 1, 8)
         ∧ pteKind (BitVec.ofNat 64 x.1) = (if m.frame = none then 1 else 2)
         ∧ (m.frame = none → (BitVec.ofNat 64 x.1).getLsbD 7 = true) ∧ s.hostBiased (pteAddr (BitVec.ofNat 64 x.1)) = false
         ∧ 8 + 8 ≤ 1 * 65536
         ∧ (if x.2.2 = 40000 then m.since + 40000 ≤ s.nanos else s.nanos < m.since + 40000))
    ∧ (∀ k ∈ [1, 4],
      let v : Word := 0x1FFF90
      let s := withFq (base []) 400 (fq1 false k [])
      s.isReady = true ∧ v.toNat < 2 ^ 21 ∧ Tab.get? (s.fq (v.toNat % 512)).recs (v.toNat / 512) = some (fq1 false k [])
        ∧ Tab.wf (s.fq (v.toNat % 512)).recs = true)
    ∧ (let x := fq1 true 1 [.home (homeReq 8 none none)]
       let s := withFq (((later (base []) 0 2000000).setReg 0x30100 0x20000).setReg 0x3010C 2) 400 x
       Tab.get? (s.fq 400).recs 4095 = some x ∧ x.open_ = true ∧ x.at_ + (s.reg 0x3010C).toNat * 1000000 ≤ s.nanos
         ∧ s.root 16 = 0 ∧ s.errs.bad = [] ∧ s.fabric.tlb = [] ∧ (s.reg64 0x30100).toNat + 0x320000 + 32 * 4095 < memSize ∧ Memory.wf s.mem = true
         ∧ s.hostBiased ((s.reg64 0x30100).toNat + 0x320000 + 32 * 4095) = false)
    ∧ (∀ x ∈ [(0x7FFFFF, 1), (0, 0x800000), (1, 0x800000), (5, 0)],
      let s := ((base []).setReg 0x30120 (BitVec.ofNat 32 x.1)).setReg 0x30124 (BitVec.ofNat 32 x.2)
      s.isReady = true ∧ s.fabric.biasJob = none ∧ Tab.wf s.front.regs = true
        ∧ ((s.reg 0x30124).toNat ≠ 0 ∧ (s.reg 0x30120).toNat + (s.reg 0x30124).toNat ≤ 0x800000
          ∨ (s.reg 0x30124).toNat = 0 ∨ 0x800000 < (s.reg 0x30120).toNat + (s.reg 0x30124).toNat))
    ∧ (∀ host ∈ [false, true],
      let s := homeAt fun f => { f with biasJob := some (4, 2, host), bias := [(0, 9)] }
      s.fabric.biasJob = some (4, 2, host) ∧ s.fabric.waiting = [] ∧ Tab.wf s.front.regs = true
        ∧ (∀ e ∈ s.cores, s.storeOver e.1 (65536 * 4) (65536 * 2) = false))
    ∧ (∀ n ∈ [0xFFFFFFFF, 2],
      let s := (base []).setReg 0x30138 (BitVec.ofNat 32 n)
      s.isReady = true ∧ s.fabric.tlbi = none ∧ Tab.wf s.front.regs = true ∧ s.reg 0x30138 = BitVec.ofNat 32 n)
    ∧ (∀ part ∈ [0, 16],
      let s := homeAt fun f => { f with tlbi := some (part, 1, 2), tlb := [(tlbKey 0 part 1 0x10000, default)] }
      s.fabric.tlbi = some (part, 1, 2) ∧ part ≤ 16 ∧ Tab.wf s.front.regs = true ∧ 1 ≤ va57 0x10000 / 65536
        ∧ va57 0x10000 / 65536 < 1 + 2) := by
  refine ⟨⟨?_, ?_⟩, ?_, ?_, ?_, ?_, ?_, ?_, ?_, ?_⟩
  · by_cases h : 3 = Config.pkgId.toNat
    · exact ⟨4, by decide, by omega⟩
    · exact ⟨3, by decide, h⟩
  all_goals decide +kernel

theorem witness_HostAccessesAndTheLink :
    (∀ w ∈ [none, some [1, 2]],
      let s := ((base []).setReg 0x302F0 0x40000000).setReg 0x302F8 0x30
      let ctl := s.reg (0x30208 + 16 * 15)
      LocalAt s (ctl.toNat % 16) (((s.reg64 (0x30200 + 16 * 15) + BitVec.ofNat 64 (0xF00003000 % 2 ^ 32)).setWidth 57).signExtend 64)
          (fun e => if Option.isSome (α := List Byte) w then pteW e else pteR e) 0x3000
        ∧ (∀ bs ∈ w, Ordinary { s with mem := memWrite s.mem 0x3000 bs } 0x3000 bs.length)
        ∧ 0xF00003000 / 2 ^ 32 = 15 ∧ ctl.getLsbD 4 = true ∧ ctl.getLsbD 5 = true ∧ s.fabric.tlb = [] ∧ s.fabric.walks = []
        ∧ s.fabric.biasJob = none ∧ s.errs.bad = [] ∧ Memory.wf s.mem = true ∧ s.hostBiased 0x3000 = false)
    -- a window that is not enabled, one that is for reads only, and a page without a leaf, without and with a home queue
    ∧ (∀ x ∈ [(0, false), (0x10, true), (0x30, false)], ∀ q ∈ [0, 0x20000],
      let s := ((base []).setReg 0x302F8 (BitVec.ofNat 32 x.1)).setReg 0x30100 (BitVec.ofNat 32 q)
      let ctl := s.reg (0x30208 + 16 * 15)
      (¬(ctl.getLsbD 4 = true ∧ (x.2 = true → ctl.getLsbD 5 = true))
          ∨ s.walkLeaf (ctl.toNat % 16) (((s.reg64 (0x30200 + 16 * 15) + BitVec.ofNat 64 (0xF00003000 % 2 ^ 32)).setWidth 57).signExtend 64) = none)
        ∧ s.fabric.tlb = [] ∧ s.fabric.walks = [] ∧ s.root 16 = 0 ∧ s.errs.bad = [] ∧ Memory.wf s.mem = true ∧ (s.fq 400).recs = []
        ∧ (s.fq 400).ovf = false
        ∧ (if q = 0 then s.reg64 0x30100 = 0 else (s.reg64 0x30100).toNat + 0x320000 + 131072 ≤ memSize ∧ (s.reg64 0x30100).toNat ≠ 0
            ∧ s.hostBiased ((s.reg64 0x30100).toNat + 0x320000 + 32 * ((s.fq 400).next % 4096)) = false))
    ∧ ((∀ bs : List Byte, Ordinary { base [] with mem := memWrite (base []).mem (memSize - 64) bs } (memSize - 64) bs.length)
      ∧ (base []).errs.bad = [] ∧ Memory.wf (base []).mem = true ∧ (memSize - 64) + 64 ≤ memSize ∧ (base []).fabric.biasJob = none
      ∧ (base []).hostBiased (memSize - 64) = false)
    ∧ (let line : L1Byte := { val := 1, dirty := false }
       let s := (base []).updCore 0 fun k => { k with l1 := [((Loc.host (64 * 3)).key + 63, line)] }
       (∀ e ∈ s.cores, s.storeOver e.1 (Loc.host (64 * 3)).key 64 = false ∧ ∀ x ∈ e.2.l1, x.2.dirty = false) ∧ (s.core 0).l1 ≠ [])
    ∧ (let g : Grant := { core := 0, moves := [], mark := some 256, held := false }
       let s := later (homeAt fun f => { f with grants := [(5, g)] }) 256 0
       Tab.get? s.fabric.grants 5 = some g ∧ Tab.wf s.fabric.grants = true ∧ g.mark = some 256 ∧ 256 ≤ s.cycles)
    ∧ (∀ port ∈ [95, 105], ∀ n ∈ [0, 1, 2],
       let s := homeAt fun f => { f with weak := [(laneKey port 1, n)] }
       Tab.getD s.fabric.weak (laneKey port 1) 0 = n ∧ Tab.wf s.fabric.weak = true ∧ s.reg64 0x800 = 0
         ∧ (Tab.getD s.fabric.lanesOut port 0).testBit 1 = false)
    ∧ (∀ x ∈ [(0, 0), (0, 1), (1, 0)],
       let s := (homeAt fun f => { f with weak := [(laneKey 95 1, 3)], lanesOut := [(95, x.2)] }).setReg 0x81C (BitVec.ofNat 32 (x.1 * 4096))
       s.weakLane 95 = some 1 ∧ Tab.wf s.fabric.weak = true ∧ s.reg64 0x800 = 0 ∧ Tab.wf s.front.regs = true
         ∧ (s.reg 0x81C).toNat / 16 ^ (95 / 24) % 16 = x.1 ∧ (x.2 = 1 → Tab.getD s.fabric.lanesOut 95 0 + 2 ^ 1 = 3)) := by
  refine ⟨?_, ?_, ⟨fun _ => ordinary_of ?_, ?_⟩, ?_, ?_, ?_, ?_⟩
  · intro w hw
    simp only [List.mem_cons, List.not_mem_nil, or_false] at hw
    rcases hw with rfl | rfl <;> refine ⟨localAt_of 0x73 3 8 ?_, fun _ _ => ordinary_of ?_, ?_⟩ <;> decide +kernel
  all_goals decide +kernel


/-! #### Partitions, errors and firmware -/

/-- Partition 15 in a state with a map, and with core 40 of chiplet 1 or core 0. -/
def partAt (st : Nat) (map : Word) : State :=
  let s := ((base []).setReg 0x408 0).setReg 0x5E8 (BitVec.ofNat 32 st)
  s.setReg 0x5E0 map
def common (s : State) : Bool := s.isReady && Tab.wf s.front.regs && s.errs.faulty.isEmpty
def saved1 : SavedChip := { cls := classOf 0, chip := 0, slot := 2, cores := [(39, { Core.empty with nextAg := 7 })], area := 0, spoilt := false }
def sleeper : Agent := { agent true [] with wait := some (.sleep 256 []) }

theorem witness_PartitionsMove :
    (∀ x ∈ [(0, 0), (1, 1), (2, 1), (3, 1), (4, 1), (5, 0), (6, 1)],
      let s := partAt x.1 (BitVec.ofNat 32 x.2)
      common s = true ∧ (s.reg (0x408 + 32 * 15)).toNat % 8 = x.1 ∧ (s.reg (0x408 + 32 * 15)).getLsbD 31 = false)
    ∧ (∀ v ∈ [1, 1023, 0xFFFFFC01],
      let s := partAt 0 0
      let v := BitVec.ofNat 32 v
      v.toNat % 1024 ≠ 0 ∧ (∀ k ∈ List.range 16, ∀ c ∈ List.range 10, k ≠ 15 → (s.reg (0x400 + 32 * k)).getLsbD c = false)
        ∧ ∀ c ∈ List.range 10, (s.reg 0x818).getLsbD c = true)
    ∧ (∀ c ∈ List.range 40, (partAt 2 2).coreQuiet (40 + c) = true)
    ∧ (let s := (later (partAt 2 1) 0 20000).updCore 0 fun k => { k with copies := [(511, copy1)] }
       s.partOfCore 0 = some 15 ∧ Tab.get? (s.core 0).copies 511 = some copy1 ∧ (s.part 15).haltAt + 20000 ≤ s.nanos
         ∧ copy1.live = true ∧ copy1.landed = false ∧ copy1.kept = false)
    ∧ (∀ x ∈ [1, 7],
      let s := partAt 3 (BitVec.ofNat 32 x)
      (chipsOf (s.reg (0x400 + 32 * 15)).toNat).length ≤ s.freeShadow.length ∧ (s.reg (0x400 + 32 * 15)).toNat < 1024)
    ∧ (∀ slot ∈ [2, 3],
       let s0 := (partAt 4 1).setReg (0x40C + 32 * 15) 0x8000000
       let s : State := { s0 with parts := [(15, { PartSt.none with saved := [{ saved1 with slot }] })] }
       (s.part 15).saved = [{ saved1 with slot }] ∧ (s.reg (0x400 + 32 * 15)).toNat < 1024
         ∧ s.psave 15 ≠ 0 ∧ s.root 16 = 0 ∧ s.fabric.tlb = [] ∧ s.psave 15 + 134217728 ≤ memSize)
    ∧ (let s0 := (partAt 5 0).setReg 0x5F4 1
       let s : State := { s0 with parts := [(15, { PartSt.none with saved := [saved1] })] }
       (s.reg (0x414 + 32 * 15)).toNat % 1024 = 1
         ∧ (∀ k, ((s.part 15).saved.filter fun x => x.cls == k).length = ((chipsOf 1).filter fun c => classOf c == k).length)
         ∧ (∀ k ∈ List.range 16, ∀ c ∈ List.range 10, (s.reg (0x400 + 32 * k)).getLsbD c = false)
         ∧ ∀ c ∈ List.range 10, (s.reg 0x818).getLsbD c = true)
    ∧ (let s0 := partAt 6 1
       let l := launch [3]
       let s : State := { s0 with parts := [(15, { PartSt.none with saved := [saved1] })], launches := [(0, { l with part := 15, cores := [39] })] }
       (s.part 15).saved = [saved1] ∧ saved1.slot < 3 ∧ saved1.spoilt = false ∧ chipsOf (s.reg (0x400 + 32 * 15)).toNat = [0]
         ∧ classOf 0 = saved1.cls ∧ Tab.wf saved1.cores = true ∧ (∀ e ∈ saved1.cores, e.1 < 40)
         ∧ s.launch? 0 = some (s.launchD 0) ∧ (s.launchD 0).part = 15 ∧ ∀ c ∈ (s.launchD 0).cores, c / 40 = saved1.chip)
    ∧ (let s0 := later (partAt 3 1) 128 0
       let s := s0.updCore 0 fun k => { k with agents := [(9, sleeper)] }
       (s.part 15).answers = [] ∧ Tab.get? (s.core 0).agents 9 = some sleeper ∧ sleeper.wait = some (.sleep 256 []))
    ∧ (let s0 := partAt 3 1
       let l := launch [3]
       let s : State := { s0 with launches := [(0, { l with part := 15 })] }
       Tab.wf s.launches = true ∧ s.launch? 0 = some (s.launchD 0) ∧ (s.launchD 0).part = 15 ∧ (s.launchD 0).st = .running) := by
  refine ⟨?_, ?_, ?_, ?_, ?_, ?_, ⟨?_, ?_, ?_⟩, ?_, ?_, ?_⟩
  case refine_8 =>
    intro k
    by_cases h : classOf 0 = k
    · subst h; decide +kernel
    · have e : chipsOf 1 = [0] := by decide +kernel
      have f : ∀ s : State, s.parts = [(15, { PartSt.none with saved := [saved1] })] → (s.part 15).saved = [saved1] := by
        intro s hs; rw [State.part, hs]; rfl
      rw [f _ rfl, e]
      simp [saved1, h]
  all_goals decide +kernel

/-- A state with an error log at 0x1_0000 in which all but one place is free, or taken. -/
def logAt (next : Word) : State := (((base []).setReg 0x800 0x10000).setReg 0x808 next).setReg 0x80C 0
def withErrs (s : State) (f : Errs → Errs) : State := { s with errs := f s.errs }

theorem witness_ErrorsAndRepair :
    (∀ v ∈ [0, 1, 510, 511],
      let s := logAt 510
      let v := BitVec.ofNat 32 v
      Tab.wf s.front.regs = true
        ∧ (if v = 1 ∨ v = 510 then v ≠ s.reg 0x80C ∧ (v - s.reg 0x80C).toNat ≤ (s.reg 0x808 - s.reg 0x80C).toNat
          else v = s.reg 0x80C ∨ (s.reg 0x808 - s.reg 0x80C).toNat < (v - s.reg 0x80C).toNat))
    ∧ (let s := later (base []) 0 60000000000
       s.errs.start + s.errs.win * 1000000000 ≤ s.nanos ∧ (s.reg 0x810).toNat ≠ 0 ∧ (base []).nanos < (base []).errs.start + (base []).errs.win * 1000000000)
    ∧ (LogReady (logAt 510) ∧ 2 ≤ ((logAt 510).reg 0x814).toNat ∧ (logAt 510).errs.counts = [])
    ∧ (∀ unit ∈ [0, 7],
      let s := withErrs ((base []).setReg 0x814 2) fun e => { e with counts := [{ unit, loc := 5, count := 1, ue := 0 }], spares := [(spareKey unit 5, 1)] }
      (s.reg 0x814).toNat = 1 + 1 ∧ s.errs.counts = [{ unit, loc := 5, count := 1, ue := 0 }] ∧ s.errs.worn = [] ∧ s.reg64 0x800 = 0
        ∧ s.nanos < s.errs.start + s.errs.win * 1000000000
        ∧ Tab.getD s.errs.spares (spareKey unit 5) 0 = 1 ∧ 1 < spareCount unit)
    ∧ (let s := (base []).updCore 0 fun k => { k with l1 := [(128, { val := 1, dirty := false })] }
       s.reg64 0x800 = 0 ∧ s.errs.counts = [] ∧ (∀ e ∈ s.cores, e.2.late = []) ∧ ∀ e ∈ (s.core 0).l1, e.2.dirty = false)
    ∧ ((base []).agent? ⟨0, 0⟩ = some (agent false []) ∧ (agent false []).shep = false ∧ (agent false []).ended = false
       ∧ ((base []).core 0).frozen = false ∧ (Tab.get? (agent false []).lanes 0).isSome = true ∧ (base []).reg64 0x800 = 0
       ∧ (base []).errs.counts = [])
    -- a load of the last byte of the last word that is uncorrectable, in a launch that has no handler
    ∧ (let o := op (.w 4) (.w 0) .zero .zero 0
       let s := (base0 (launch [3, 0, 0, 0]) (agent false [0xFFFF])).updRes 0 0 fun r => { r with bad := [.scratch 0xFFFC] }
       let e := env s o
       e.s.scrCheck 0 0 true (e.saddr o) o.bytes = .ok (0, 0xFFFF)
         ∧ One s o ∧ (s.res 0 0).badAt 0 0xFFFF o.bytes = some 0xFFFC ∧ (s.agentD ag).shep = false ∧ (s.agentD ag).pending = []
         ∧ (s.core 0).late = [] ∧ s.reg64 0x800 = 0 ∧ Tab.get? (s.agentD ag).lanes e.n = some e.lane ∧ s.launch? 0 = some e.l
         ∧ e.l.cancelled = false ∧ e.l.stop = none ∧ (s.thread 0 0 e.lane.tid).inHandler = false ∧ e.l.hdrW 3 = 0)
    ∧ (let m := matOp1 0xB1 noOp 0 0xF000 0
       let s := (withQueue (withCfg (matrixAt []) 0x63) m).updRes 0 0 fun r => { r with bad := [.scratch 0xF000] }
       (s.core 0).queue = m :: [] ∧ m.run = false ∧ s.reg64 0x800 = 0 ∧ s.errs.counts = [] ∧ m.opc ≠ opCvtb
         ∧ m.meets (s.res 0 m.lid).cfg (s.res 0 m.lid) = some (.scratch 0xF000))
    ∧ (let g := Granule.scratch 0xF000
       let s := (logAt 510).updRes 0 0 fun r => { r with bad := [g] }
       LogReady s ∧ (granKey 0 0 g).1 ≠ 0
         ∧ ∃ e ∈ s.cores, ((granKey 0 0 g).1, coreLoc 0 (granKey 0 0 g).1 (granKey 0 0 g).2) ∈ e.2.badWords e.1)
    ∧ (let s := homeAt fun f => { f with colls := [(5, default)] }
       Tab.get? s.fabric.colls 5 = some default)
    ∧ (let s := withErrs (logAt 510) fun e => { e with bad := [77] }
       (∃ b ∈ s.errs.bad, Config.hbmLoc b = Config.hbmLoc 77) ∧ LogReady s ∧ ∀ b ∈ (base []).errs.bad, Config.hbmLoc b ≠ 5)
    ∧ ((base []).launch? 0 = some ((base []).launchD 0) ∧ (∃ e ∈ ((base []).core 0).agents, e.2.lid = 0)
       ∧ ((base []).launchD 0).stop = none ∧ ((base []).launchD 0).cancelled = false ∧ ((base []).reg 0x818).toNat / 2 ^ (10 + 2 * (0 / 40)) % 4 < 2
       ∧ (399 : Nat) < 400 ∧ ((base []).reg 0x818).toNat / 2 ^ (10 + 2 * (399 / 40)) % 4 < 2) := by
  have ready : ∀ s, s ∈ [logAt 510, withErrs (logAt 510) fun e => { e with bad := [77] },
      (logAt 510).updRes 0 0 fun r => { r with bad := [.scratch 0xF000] }] → LogReady s := by
    unfold LogReady; decide +kernel
  refine ⟨?_, ?_, ⟨ready _ ?_, ?_⟩, ?_, ?_, ?_, ⟨ok_of ?_, ?_⟩, ?_,
    ⟨ready _ ?_, ?_, ⟨_, List.mem_cons_self, List.mem_cons_self⟩⟩, ?_, ⟨⟨77, ?_, rfl⟩, ready _ ?_, ?_⟩, ?_⟩
  all_goals first
    | exact List.mem_cons_self
    | exact List.mem_cons_of_mem _ List.mem_cons_self
    | exact List.mem_cons_of_mem _ (List.mem_cons_of_mem _ List.mem_cons_self)
    | decide +kernel

/-- A state with a leader whose lease runs, and a change to firmware. -/
def fwAt (f : Fw → Fw) : State :=
  let s := base []
  { s with fw := f { s.fw with perst := false, stage := 5, leader := some 14, holder := some 14, epoch := 3, until_ := 1000000 } }
def cmd1 (m : Master) (op judged : Nat) : Cmd := { master := m, opcode := op, seq := 9, payload := [1, 0, 0, 0, 7], judged, at_ := 0 }

theorem witness_FirmwareCommands :
    (∀ now ∈ [999999, 1000000],
      let s := later (fwAt id) 0 now
      s.fw.leader = some 14 ∧ s.fw.epoch = 3 ∧ (if now = 999999 then s.nanos < s.fw.until_ else s.fw.until_ ≤ s.nanos)
        ∧ Tab.wf s.front.regs = true ∧ s.fw.perst = false ∧ s.fw.journal = none ∧ s.fw.stage ≠ 0 ∧ s.fw.early = false
        ∧ s.fw.holder.isSome = true)
    -- no firmware has run: PERST# ended too early, or a bank of flash passes its check
    ∧ (∀ early ∈ [false, true],
      let s := fwAt fun f => { f with leader := none, holder := none, early, secNext := [(1, 3)] }
      s.fw.leader = none ∧ s.fw.holder = none ∧ s.fw.perst = false ∧ s.fw.journal = none ∧ s.fw.early = early
        ∧ Tab.wf s.front.regs = true ∧ s.fw.secNext = [(1, 3)])
    ∧ (∀ x ∈ [(true, 0, false), (false, 0, false), (false, 1, true)],
      let s := fwAt fun f => { f with perst := x.1, stage := x.2.1, leader := none }
      (if x.2.2 then s.fw.perst = false ∧ (s.fw.stage ≠ 0 ∨ s.fw.leader ≠ none) ∧ s.fw.mbSide = none
        else s.fw.perst = true ∨ (s.fw.stage = 0 ∧ s.fw.leader = none)))
    ∧ (∀ op ∈ [1, 2, 3, 4, 5, 6, 7, 8, 9], ∀ m ∈ [Master.host, .sideband],
      let c := cmd1 m op 0
      let s := fwAt fun f => if m = .host then { f with mbHost := some c } else { f with mbSide := some c }
      s.fw.leader.isSome = true ∧ s.nanos < s.fw.until_ ∧ c.opcode = op ∧ s.fw.journal = none
        ∧ (m = .host ∧ s.fw.mbHost = some c ∧ s.fw.mbSide = none ∨ m = .sideband ∧ s.fw.mbSide = some c ∧ s.fw.mbHost = none))
    ∧ (let s := fwAt fun f => { f with mbHost := some (cmd1 .host 1 0), mbSide := some (cmd1 .sideband 2 0), last := some .host }
       s.fw.leader.isSome = true ∧ s.nanos < s.fw.until_ ∧ s.fw.journal = none ∧ s.fw.mbHost = some (cmd1 .host 1 0)
         ∧ s.fw.mbSide = some (cmd1 .sideband 2 0) ∧ (cmd1 .sideband 2 0).at_ = (cmd1 .host 1 0).at_)
    ∧ (∀ op ∈ [1, 2, 3, 4, 5, 6, 7, 8, 9], ∀ m ∈ [Master.host, .sideband], ∀ judged ∈ [0, 1, 255],
      let c := cmd1 m op judged
      let s := fwAt fun f => { f with journal := some c }
      s.fw.leader.isSome = true ∧ s.nanos < s.fw.until_ ∧ c.opcode = op ∧ s.fw.journal = some c ∧ c.master = m
        ∧ Tab.wf s.front.regs = true ∧ s.leaderNo < 16 ∧ 4 ≤ c.payload.length ∧ c.payload.length ≤ 4096)
    ∧ (∀ now ∈ [9999999999, 10000000000],
      let s := later (fwAt fun f => { f with lock := some (.host, 0) }) 0 now
      s.fw.lock = some (.host, 0) ∧ (if now = 9999999999 then s.nanos < 0 + 10000000000 else 0 + 10000000000 ≤ s.nanos)) := by
  refine ⟨?_, ?_, ?_, ?_, ?_, ?_, ?_⟩ <;> decide +kernel

theorem witness_PowerAndBringUp :
    (∀ m ∈ [Master.host, .sideband],
      let c := cmd1 m 8 0
      let s := fwAt fun f => { f with journal := some c }
      s.fw.leader.isSome = true ∧ s.nanos < s.fw.until_ ∧ s.fw.journal = some c ∧ c.opcode = 8 ∧ c.judged = 0 ∧ c.master = m
        ∧ 4 ≤ s.fw.stage ∧ s.errs.faulty = [])
    ∧ (∀ x ∈ [(3200001, 900, 1), (0, 1001, 1), (0, 1099, 1), (3040000, 949, 2), (3040001, 949, 3), (3200000, 1000, 3), (0, 950, 3)],
      let s := fwAt id
      let temps : List Nat := [x.2.1]
      let hot := s.fw.cap * 1000 < x.1 ∨ ∃ y ∈ temps, 1000 < y
      let under := x.1 * 100 ≤ s.fw.cap * 1000 * 95 ∧ ∀ y ∈ temps, y < 950
      s.fw.trip = false ∧ temps.length ≤ 15 ∧ (∀ y ∈ temps, y < 1100) ∧ (x.2.2 = 1 ↔ hot) ∧ (x.2.2 = 2 ↔ ¬hot ∧ under))
    ∧ ((fwAt id).fw.trip = false ∧ ∃ y ∈ ([0, 1100] : List Nat).take 15, 1100 ≤ y)
    ∧ State.reset.fw.perst = true
    ∧ (∀ st ∈ [0, 1, 3, 4],
      let r : Repair := { (default : Repair) with svc := 0x3BF, spares := [(7, 2)] }
      let s := fwAt fun f => { f with repair := some r, stage := st, secMin := 2, secNext := [(1, 3)] }
      s.fw.perst = false ∧ s.fw.stage < 5 ∧ (s.fw.stage = 0 → s.fw.leader ≠ none) ∧ Tab.wf s.front.regs = true
        ∧ s.fw.repair = some r) := by
  refine ⟨?_, ?_, ?_, ?_, ?_⟩ <;> decide +kernel

end Sys2Proof.Tests
end

section
/-! PROOFS. Reset, device memory and the host's doorbells (R5, R7, R12, R267 to R272, R292). -/

namespace Sys2Proof.Proofs

open Sys2Proof Sys2Proof.Machine Sys2Proof.Claims

/-! ### Reset -/

/-- After reset no register of BAR 0 is listed, so each reads as its reset value. -/
theorem reg_reset (off : Nat) : State.reset.reg off = regReset off := rfl

/-- A register of the partition block 0x400 to 0x5FF is 0 after reset. -/
theorem regReset_partition {off : Nat} (hlo : 0x400 ≤ off) (hhi : off < 0x800) : regReset off = 0 := by
  unfold regReset
  repeat rw [if_neg (by omega)]

theorem packageInv_reset : PackageInv State.reset := by
  unfold PackageInv
  decide

/-- Settles O5: the registers and memory of reset are empty tables, so every reading is the default of its reader. -/
theorem resetState : Obligations.ResetState := by
  unfold Obligations.ResetState
  have hpart : ∀ n, n < 16 → State.reset.reg (0x400 + 32 * n) = 0 ∧ State.reset.reg (0x408 + 32 * n) = 0 := fun n hn =>
    ⟨regReset_partition (by omega) (by omega), regReset_partition (by omega) (by omega)⟩
  refine ⟨⟨rfl, fun _ => rfl, fun _ => rfl, by decide, ?_, ?_, ?_, ?_, ?_, ?_, ?_, ?_, ?_, hpart, rfl, rfl, rfl⟩,
    ⟨rfl, fun _ => rfl⟩, packageInv_reset⟩
  all_goals rw [reg_reset]; decide

/-! ### Memory -/

/-- Settles O6, by the laws of writing and reading device memory. -/
theorem memoryOperations : Obligations.MemoryOperations := by
  unfold Obligations.MemoryOperations
  exact ⟨fun m a bs hm => ⟨memRead_write a bs hm, fun x hx => memGet_write_outside a x bs hm hx, Memory.wf_write a bs hm⟩,
    fun m n hm hn h => mem_ext hm hn h⟩

/-! ### Values as bytes, least significant first (R5) -/

@[simp] theorem bytesLE_length (n v : Nat) : (bytesLE n v).length = n := by
  induction n generalizing v with
  | zero => rfl
  | succ n ih => simp [bytesLE, ih]

/-- Byte i of a value is the value's i-th digit to the base 256. -/
theorem bytesLE_getElem (n v i : Nat) (hi : i < (bytesLE n v).length) :
    (bytesLE n v)[i] = BitVec.ofNat 8 (v / 256 ^ i) := by
  induction n generalizing v i with
  | zero => simp at hi
  | succ n ih =>
    cases i with
    | zero => simp [bytesLE]
    | succ i =>
      simp only [bytesLE, List.getElem_cons_succ]
      rw [ih, Nat.div_div_eq_div_mul, Nat.pow_succ']

/-- The bytes of a value give the value back, reduced to their number. -/
theorem ofBytesLE_bytesLE (n v : Nat) : ofBytesLE (bytesLE n v) = v % 256 ^ n := by
  induction n generalizing v with
  | zero => simp [bytesLE, ofBytesLE, Nat.mod_one]
  | succ n ih =>
    rw [bytesLE, ofBytesLE, ih, BitVec.toNat_ofNat, Nat.pow_succ' (n := n), Nat.mod_mul (a := 256)]

theorem ofBytesLE_lt (bs : List Byte) : ofBytesLE bs < 256 ^ bs.length := by
  induction bs with
  | nil => simp [ofBytesLE]
  | cons b bs ih =>
    have hb := b.isLt
    simp only [ofBytesLE, List.length_cons, Nat.pow_succ']
    omega

theorem ofBytesLE_append (xs ys : List Byte) :
    ofBytesLE (xs ++ ys) = ofBytesLE xs + 256 ^ xs.length * ofBytesLE ys := by
  induction xs with
  | nil => simp [ofBytesLE]
  | cons b xs ih =>
    rw [List.cons_append, ofBytesLE, ofBytesLE, ih, List.length_cons, Nat.pow_succ', Nat.mul_add, Nat.mul_assoc,
      Nat.add_assoc]

/-- The digits j to j + n of the value of some bytes of memory are the value of the n bytes from the j-th on. -/
theorem ofBytesLE_memRead_slice (m : List Host.Cell) (a j n k : Nat) :
    ofBytesLE (memRead m a (j + (n + k))) / 256 ^ j % 256 ^ n = ofBytesLE (memRead m (a + j) n) := by
  have hlow : ofBytesLE (memRead m a j) < 256 ^ j := by simpa [memRead_length] using ofBytesLE_lt (memRead m a j)
  have hmid : ofBytesLE (memRead m (a + j) n) < 256 ^ n := by
    simpa [memRead_length] using ofBytesLE_lt (memRead m (a + j) n)
  rw [← memRead_append, ← memRead_append, ofBytesLE_append, ofBytesLE_append, memRead_length, memRead_length,
    Nat.add_mul_div_left _ _ (Nat.pow_pos (by decide)), Nat.div_eq_of_lt hlow, Nat.zero_add, Nat.add_mul_mod_self_left,
    Nat.mod_eq_of_lt hmid]

/-- The number that sixteen bytes make loses nothing as an instruction word (R62). -/
theorem wordOfBytes_toNat {bs : List Byte} (h : bs.length = 16) : (wordOfBytes bs).toNat = ofBytesLE bs := by
  have hlt := ofBytesLE_lt bs
  rw [h] at hlt
  rw [wordOfBytes, BitVec.toNat_ofNat, Nat.mod_eq_of_lt (by simpa using hlt)]

/-- Settles O7: a value's bytes are its digits to the base 256, and a 32-bit part of a word is a slice of its bytes. -/
theorem valuesAreLittleEndian : Obligations.ValuesAreLittleEndian := by
  unfold Obligations.ValuesAreLittleEndian
  refine ⟨fun n v a m hm => ⟨fun i hi => ?_, ?_⟩, fun k a m hk => ?_⟩
  · have hi' : i < (bytesLE n v).length := by simpa using hi
    rw [memGet_write_inside a i _ hm hi', bytesLE_getElem]
  · have hread := memRead_write a (bytesLE n v) hm
    rw [bytesLE_length] at hread
    rw [hread, ofBytesLE_bytesLE]
  · have hslice := ofBytesLE_memRead_slice m a (4 * k) 4 (12 - 4 * k)
    rw [show 4 * k + (4 + (12 - 4 * k)) = 16 by omega] at hslice
    apply BitVec.eq_of_toNat_eq
    rw [BitVec.extractLsb'_toNat, wordOfBytes_toNat (memRead_length m a 16), Nat.shiftRight_eq_div_pow,
      show 32 * k = 8 * (4 * k) by omega, Nat.pow_mul]
    rw [word32, BitVec.toNat_ofNat, ← hslice]
    simp

/-! ### Doorbells

R272 unmaps the slot whose last signal is oldest, ties to the lower number; R292 gives the slot that was free to the lower of
two queues signalled in one cycle. Where a queue has taken slot 0, the last one free, and the queues of the other 127 slots
were signalled at the same time, a doorbell of a lower queue in that cycle takes slot 0, and the queue that it displaces evicts
the oldest slot: of equal times the lowest number, which is slot 0 again. -/

/-- A table of queues at address 0 whose queues 0 to 128 each have a ring of 16 records, none of them used. -/
def idleQueues : List Host.Cell := (List.range 129).flatMap fun q => [(64 * q + 8, 4), (64 * q + 9, 1)]

/-- The words of such a queue's descriptor: LOG2SIZE 4, ENABLED. -/
def idleQueue : List Word := [0, 0, 0x104] ++ List.replicate 13 0

/-- Slot n holds queue n + 1, signalled at 10 ns; slot 0 was free until this cycle. -/
def crowdedSlots : Tab Slot :=
  (List.range 128).map fun n =>
    (n, { tabs := { qt := 0, qn := 129, wo := 0, wn := 0 }, queue := n + 1, last := 10, head := none, goes := false,
          given := none, taken := if n = 0 then 5 else 3 })

/-- A part that is READY, in cycle 5, in which its queues 1 to 128 have been signalled. -/
def crowded : State :=
  { State.reset with
    cycles := 5, nanos := 10, mem := idleQueues
    front := { State.reset.front with regs := [(8, 129), (0x50014, 0x80000000)], slots := crowdedSlots } }

/-- A doorbell write of 8 bytes to a part that is READY empties the latch of its queue and is judged (R267). -/
theorem exec_doorbellSignal_full {q : Nat} (v : DWord) {s : State} (hr : s.isReady = true) (hq : q < 8192) :
    exec (.doorbellSignal q (.full v)) s =
      .next ((s.setFront fun f => { f with latch := Tab.erase f.latch q }).judgeDoorbell q v) := by
  have hq' : ¬8192 ≤ q := by omega
  change execDoorbellSignal q (.full v) s = _
  simp [execDoorbellSignal, hr, hq']

theorem crowded_isReady : crowded.isReady = true := by decide +kernel

/-- The doorbell of queue 0 in that cycle leaves its queue without a slot. -/
theorem crowded_doorbell_slotOf : ∀ t, exec (.doorbellSignal 0 (.full 1)) crowded = .next t → t.slotOf 0 = none := by
  rw [exec_doorbellSignal_full 1 crowded_isReady (by decide)]
  intro t h
  rw [← Host.Outcome.next.inj h]
  decide +kernel

/-- Refutes O50: its fourth clause says that a doorbell gives its queue a slot. In `crowded` the doorbell of queue 0
takes slot 0 from a higher queue of the same cycle (R292) and loses it to that queue, since of slots signalled at one time the
lowest gives way (R272). -/
theorem not_hostWritesAndDoorbells : ¬ Obligations.HostWritesAndDoorbells := by
  unfold Obligations.HostWritesAndDoorbells
  rintro ⟨-, -, -, hdoorbell, -⟩
  obtain ⟨t, n, sl, hexec, hslot, -⟩ := hdoorbell 0 1 crowded idleQueue crowded_isReady (by decide) (by decide +kernel)
    (by decide +kernel) (by decide +kernel) (by decide +kernel) (by decide +kernel) (by decide +kernel)
    (by decide +kernel) (by decide +kernel) (by decide +kernel) (by decide +kernel) (by decide +kernel)
  rw [crowded_doorbell_slotOf t hexec] at hslot
  cases hslot

end Sys2Proof.Proofs
end

section
/-! PROOFS. What the functions on the state keep (R12, R209): one lemma per function, in the order of the model's
files. Each says that `PackageInv` goes on from the state the function is given to the one it gives; where a function takes
another one, that the other keeps the invariant is a hypothesis. A proof composes the lemmas of the functions that the
definition calls, so that `h.latch.commit` is the invariant after `latch` and `commit`. -/

namespace Sys2Proof.Claims

open Sys2Proof Sys2Proof.Machine

variable {s t : State}

/-! ### Changes of the state, branches, results and folds -/

/-- The invariant speaks of memory and of the three package registers: the other fields may change. -/
theorem PackageInv.update (h : PackageInv s) {cur agenda tick cycles phase nanos cores launches nextLid front fabric parts errs
    fw shadow shadowWas} :
    PackageInv { s with cur, agenda, tick, cycles, phase, nanos, cores, launches, nextLid, front, fabric, parts, errs, fw,
                        shadow, shadowWas } := h

theorem PackageInv.ite {c : Prop} [Decidable c] (hs : PackageInv s) (ht : PackageInv t) :
    PackageInv (if c then s else t) := by
  split
  · exact hs
  · exact ht

theorem PackageInv.ite_then {c : Prop} [Decidable c] (h : PackageInv s) (ht : PackageInv s → PackageInv t) :
    PackageInv (if c then t else s) := .ite (ht h) h

theorem PackageInv.ite_else {c : Prop} [Decidable c] (h : PackageInv s) (ht : PackageInv s → PackageInv t) :
    PackageInv (if c then s else t) := .ite h (ht h)

theorem PackageInv.ite_fst {α : Type} {c : Prop} [Decidable c] {p q : State × α} (hp : PackageInv p.1) (hq : PackageInv q.1) :
    PackageInv (if c then p else q).1 := by
  split
  · exact hp
  · exact hq

theorem PackageInv.fst {α : Type} {p : State × α} {x : α} (h : PackageInv p.1) (e : p = (t, x)) : PackageInv t := by
  rw [e] at h
  exact h

theorem PackageInv.getD {o : Option State} (h : PackageInv s) (ho : ∀ t, o = some t → PackageInv t) :
    PackageInv (o.getD s) := by
  cases o with
  | none => exact h
  | some t => exact ho t rfl

theorem PackageInv.foldl {α : Type} {f : State → α → State} {l : List α} (h : PackageInv s)
    (hf : ∀ s x, PackageInv s → PackageInv (f s x)) : PackageInv (l.foldl f s) := by
  induction l generalizing s with
  | nil => exact h
  | cons x l ih => exact ih (hf s x h)

theorem PackageInv.foldl_fst {α β : Type} {f : State × β → α → State × β} {l : List α} {p : State × β} (h : PackageInv p.1)
    (hf : ∀ p x, PackageInv p.1 → PackageInv (f p x).1) : PackageInv (l.foldl f p).1 := by
  induction l generalizing p with
  | nil => exact h
  | cons x l ih => exact ih (hf p x h)

theorem PackageInv.memWrite (h : PackageInv s) {a bs cur agenda tick cycles phase nanos cores launches nextLid front fabric
    parts errs fw shadow shadowWas} :
    PackageInv { s with cur, agenda, tick, cycles, phase, nanos, cores, launches, nextLid, mem := memWrite s.mem a bs, front,
                        fabric, parts, errs, fw, shadow, shadowWas } := by
  obtain ⟨hm, hr⟩ := h
  exact ⟨Memory.wf_write a bs hm, hr⟩

/-! ### The functions of `Machine/Mem` -/

theorem PackageInv.setReg (h : PackageInv s) {off v} : PackageInv (s.setReg off v) := h.update

theorem PackageInv.setCore (h : PackageInv s) {c v} : PackageInv (s.setCore c v) := h.update

theorem PackageInv.updCore (h : PackageInv s) {c f} : PackageInv (s.updCore c f) := h.setCore

theorem PackageInv.updLaunch (h : PackageInv s) {lid f} : PackageInv (s.updLaunch lid f) := h.update

theorem PackageInv.updRes (h : PackageInv s) {c lid f} : PackageInv (s.updRes c lid f) := h.updCore

theorem PackageInv.emit (h : PackageInv s) {o} : PackageInv (s.emit o) := h.update

theorem PackageInv.msix (h : PackageInv s) {v} : PackageInv (s.msix v) := .ite h.update h.emit

theorem PackageInv.setTlb (h : PackageInv s) {c t} : PackageInv (s.setTlb c t) := by
  unfold State.setTlb
  split
  · exact h.updCore
  · exact h.update

theorem PackageInv.walkVia (h : PackageInv s) {part va level tbl} :
    PackageInv (State.walkVia part va level tbl s).1 := by
  induction level generalizing s tbl with
  | zero => exact h
  | succ level ih =>
    unfold State.walkVia
    dsimp only
    split
    · exact ih h
    · split
      · exact h
      · split
        · exact h
        · split
          · exact ih h.update
          · exact h

theorem PackageInv.tlbTick (h : PackageInv s) : PackageInv s.tlbTick := h.update

theorem PackageInv.tlbUse (h : PackageInv s) {c key} : PackageInv (s.tlbUse c key) := h.setTlb.tlbTick

theorem PackageInv.tlbFill (h : PackageInv s) {c path part va leaf} : PackageInv (s.tlbFill c path part va leaf) := by
  unfold State.tlbFill
  dsimp only
  split
  · exact h.setTlb
  · exact h.setTlb.tlbTick

theorem PackageInv.leaf (h : PackageInv s) {c path part va} : PackageInv (s.leaf c path part va).1 := by
  unfold State.leaf
  split
  · split
    · exact h.tlbUse
    · exact (h.walkVia.fst ‹_›).tlbFill

theorem PackageInv.noteHeld (h : PackageInv s) {l} : PackageInv (s.noteHeld l) := by
  unfold State.noteHeld
  split
  · exact .ite h.update h
  · exact h

theorem PackageInv.xlate (h : PackageInv s) {c path part va acc} : PackageInv (s.xlate c path part va acc).1 := by
  unfold State.xlate
  split
  · split
    · split
      · exact (h.leaf.fst ‹_›).noteHeld
      · exact h.leaf.fst ‹_›
    · exact h.leaf.fst ‹_›
  · exact h

theorem PackageInv.privFill (h : PackageInv s) {va} : PackageInv (s.privFill va) := .ite h h.leaf

theorem PackageInv.unkeep (h : PackageInv s) {f} : PackageInv (s.unkeep f) := h.update

theorem PackageInv.dropRemotePage (h : PackageInv s) {pkg space va} : PackageInv (s.dropRemotePage pkg space va) :=
  h.unkeep.update

theorem PackageInv.numbered (h : PackageInv s) {pkg r} : PackageInv (s.numbered pkg r).1 := h.update

theorem PackageInv.sendPackets (h : PackageInv s) {idx pkg rs} : PackageInv (s.sendPackets idx pkg rs).1 := by
  unfold State.sendPackets
  refine h.foldl_fst fun p x h => ?_
  split
  · exact (h.numbered.fst ‹_›).emit

theorem PackageInv.approach (h : PackageInv s) {who l n} : PackageInv (s.approach who l n) := by
  unfold State.approach
  split
  · exact .ite h.update.emit h.update
  · exact h

theorem PackageInv.argWrite (h : PackageInv s) {key n} : PackageInv (s.argWrite key n) := by
  unfold State.argWrite
  exact h.foldl fun _ _ h => .ite h.updLaunch h

theorem PackageInv.doneUndef (h : PackageInv s) {l} : PackageInv (s.doneUndef l) := by
  unfold State.doneUndef
  refine h.foldl fun s x h => ?_
  dsimp only
  split
  · exact h.memWrite
  · exact h

theorem PackageInv.spoilImages (h : PackageInv s) {pa n} : PackageInv (s.spoilImages pa n) := .ite h h.update

theorem PackageInv.wrote (h : PackageInv s) {pa n} : PackageInv (s.wrote pa n) := by
  unfold State.wrote
  refine h.spoilImages.argWrite.foldl fun s x h => ?_
  extract_lets l done marked
  have hm : PackageInv marked := h.ite_then (·.doneUndef.updLaunch)
  refine .ite h (.ite ?_ hm)
  split
  · exact .ite hm.memWrite hm
  · exact hm

theorem PackageInv.devWrite (h : PackageInv s) {pa bs} : PackageInv (s.devWrite pa bs) := .ite h h.memWrite

theorem PackageInv.hostPut (h : PackageInv s) {pa bs} : PackageInv (s.hostPut pa bs) := h.emit.update

theorem PackageInv.hubPut (h : PackageInv s) {l bs} : PackageInv (s.hubPut l bs) := by
  unfold State.hubPut
  split
  · exact h.devWrite
  · exact h.hostPut
  · exact h.emit
  · exact h

theorem PackageInv.invalidate (h : PackageInv s) {part g} : PackageInv (s.invalidate part g) := h.update

theorem PackageInv.rewritePeer (h : PackageInv s) {part va old new} : PackageInv (s.rewritePeer part va old new) := by
  unfold State.rewritePeer
  split
  · exact .ite h.devWrite h
  · exact h

theorem PackageInv.wentTo (h : PackageInv s) {part pkg space va peer} : PackageInv (s.wentTo part pkg space va peer) :=
  h.dropRemotePage.rewritePeer.invalidate

theorem PackageInv.askNow (h : PackageInv s) {part k size write hops l} :
    PackageInv (State.askNow part k size write hops s l).1 := by
  induction hops generalizing s l with
  | zero => exact h
  | succ hops ih =>
    unfold State.askNow
    split
    · dsimp only
      split
      · exact h.sendPackets
      · exact h.sendPackets
      · exact h.sendPackets
      · exact h.sendPackets
      · exact ih h.sendPackets.wentTo
    · exact h

theorem PackageInv.askRead (h : PackageInv s) {part path l n} : PackageInv (s.askRead part path l n).1 := h.askNow

theorem PackageInv.askWrite (h : PackageInv s) {part path l bs} : PackageInv (s.askWrite part path l bs).1 := h.askNow

theorem PackageInv.hubRead (h : PackageInv s) {part va n} : PackageInv (s.hubRead part va n).1 := by
  unfold State.hubRead
  split
  · split
    · split
      · exact (h.xlate.fst ‹_›).askRead.fst ‹_›
      · exact ((h.xlate.fst ‹_›).askRead.fst ‹_›).approach
    · exact (h.xlate.fst ‹_›).askRead.fst ‹_›
  · exact h.xlate.fst ‹_›

theorem PackageInv.hubWriteOn (h : PackageInv s) {path part va bs} : PackageInv (s.hubWriteOn path part va bs).1 := by
  unfold State.hubWriteOn
  split
  · split
    · exact ((h.xlate.fst ‹_›).askWrite.fst ‹_›).approach.hubPut
    · exact (h.xlate.fst ‹_›).askWrite.fst ‹_›
  · exact h.xlate.fst ‹_›

theorem PackageInv.hubWrite (h : PackageInv s) {part va bs} : PackageInv (s.hubWrite part va bs).1 := h.hubWriteOn

theorem PackageInv.hubWriteD (h : PackageInv s) {part va bs} : PackageInv (s.hubWriteD part va bs) := h.hubWrite

theorem PackageInv.privWrite (h : PackageInv s) {va bs} (e : s.privWrite va bs = some t) : PackageInv t := by
  unfold State.privWrite at e
  split at e
  · cases e
    exact h.privFill.approach.hubPut
  · cases e

theorem PackageInv.l1Drop (h : PackageInv s) {c f} : PackageInv (s.l1Drop c f) := h.updCore

theorem PackageInv.l1Lapse (h : PackageInv s) {c l} : PackageInv (s.l1Lapse c l) := h.updCore

theorem PackageInv.readL1 (h : PackageInv s) {c l n past keep} : PackageInv (s.readL1 c l n past keep).1 :=
  ((PackageInv.ite h.l1Drop h.l1Lapse).ite_else (·.approach)).ite_then (·.updCore)

theorem PackageInv.readL1s (h : PackageInv s) {c fuel l n} : PackageInv (State.readL1s c fuel l n s).1 := by
  induction fuel generalizing s l n with
  | zero => exact h
  | succ fuel ih =>
    unfold State.readL1s
    dsimp only
    exact ih h.readL1

theorem PackageInv.coreBytes (h : PackageInv s) {c l n} : PackageInv (s.coreBytes c l n).1 := h.readL1s

/-! ### The functions of `Machine/Race` -/

theorem PackageInv.setThread (h : PackageInv s) {c t} : PackageInv (s.setThread c t) := h.updCore

theorem PackageInv.updThread (h : PackageInv s) {c lid tid f} : PackageInv (s.updThread c lid tid f) := h.updCore

theorem PackageInv.releasedBy (h : PackageInv s) {lid n} : PackageInv (s.releasedBy lid n) := by
  unfold State.releasedBy
  dsimp only
  split
  · exact h.updLaunch.foldl fun _ _ h => h.updCore
  · exact h.updLaunch

theorem PackageInv.released (h : PackageInv s) {lid} : PackageInv (s.released lid) := h.releasedBy

theorem PackageInv.mergeFlags (h : PackageInv s) {c lid} : PackageInv (s.mergeFlags c lid) := by
  unfold State.mergeFlags
  split
  · exact h.updLaunch.updRes
  · exact h

theorem PackageInv.putShadow (h : PackageInv s) {pa x} : PackageInv (s.putShadow pa x) := h.update

theorem PackageInv.shadowOf (h : PackageInv s) {c pa write} : PackageInv (s.shadowOf c pa write).1 := by
  unfold State.shadowOf
  dsimp only
  split
  · exact h.update
  · split <;> exact h

theorem PackageInv.raceLog (h : PackageInv s) {lid ws} : PackageInv (s.raceLog lid ws) := by
  unfold State.raceLog
  extract_lets l base lost
  have hlost : ∀ {s}, PackageInv s → PackageInv (lost s) := fun h => by
    unfold lost
    split
    · exact (h.hubRead.fst ‹_›).hubWriteD
    · exact h.hubRead.fst ‹_›
  refine .ite (hlost h) ?_
  split
  · have ht := h.hubRead.fst ‹_›
    refine .ite (hlost ht) ?_
    split
    · exact (ht.hubWrite.fst ‹_›).hubWriteD
    · exact hlost (ht.hubWrite.fst ‹_›)
  · exact hlost (h.hubRead.fst ‹_›)

theorem PackageInv.raceRecord (h : PackageInv s) {w x pa} : PackageInv (s.raceRecord w x pa).1 := by
  unfold State.raceRecord
  split
  · exact h.shadowOf.fst ‹_›

theorem PackageInv.raceCheck (h : PackageInv s) {w x pa n} : PackageInv (s.raceCheck w x pa n).1 := by
  unfold State.raceCheck
  dsimp only
  split
  · exact h.raceRecord
  · split
    · dsimp only
      exact h.raceRecord.mergeFlags.raceLog
    · exact h.raceRecord

theorem PackageInv.raced (h : PackageInv s) {w x l n} : PackageInv (s.raced w x l n).1 := by
  unfold State.raced
  split
  · split
    · exact h
    · split
      · exact h.updThread
      · refine h.foldl_fst fun p x h => ?_
        split
        · exact h
        · exact h.raceCheck
  · exact h

theorem PackageInv.raceWrote (h : PackageInv s) {w l n scope atomic} : PackageInv (s.raceWrote w l n scope atomic) := by
  unfold State.raceWrote
  split
  · dsimp only
    split
    · exact h.foldl fun _ _ h => h.putShadow
    · exact h
  · exact h

theorem PackageInv.acquireEpoch (h : PackageInv s) {c lid tid scope} : PackageInv (s.acquireEpoch c lid tid scope) :=
  .ite h.updThread.updLaunch h

theorem PackageInv.shadowClear (h : PackageInv s) {pa n} : PackageInv (s.shadowClear pa n) := h.update

theorem PackageInv.takeLate (h : PackageInv s) {c x} : PackageInv (s.takeLate c x) := by
  unfold State.takeLate
  dsimp only
  exact (PackageInv.ite h.raced h).readL1.updCore

theorem PackageInv.takeLates (h : PackageInv s) {c f} : PackageInv (s.takeLates c f) := by
  unfold State.takeLates
  exact h.foldl fun _ _ h => h.takeLate

theorem PackageInv.takeOwn (h : PackageInv s) {c lid tid key n} : PackageInv (s.takeOwn c lid tid key n) := h.takeLates

theorem PackageInv.leaveStale (h : PackageInv s) {c lid tid l n} : PackageInv (s.leaveStale c lid tid l n) := h.updCore

theorem PackageInv.joined (h : PackageInv s) {c lid tid pathC pathM} : PackageInv (s.joined c lid tid pathC pathM) :=
  h.updCore

theorem PackageInv.coreStore (h : PackageInv s) {c lid tid l bs scope rel rec_} :
    PackageInv (s.coreStore c lid tid l bs scope rel rec_) := by
  unfold State.coreStore
  split
  · exact h.emit
  · exact h.takeLates.leaveStale.argWrite.updCore

/-! ### The functions of `Machine/ErrLog` -/

theorem PackageInv.closeWindows (h : PackageInv s) : PackageInv s.closeWindows := .ite h h.update

theorem PackageInv.errLog (h : PackageInv s) {f} : PackageInv (s.errLog f) := by
  unfold State.errLog
  refine .ite h.closeWindows ?_
  cases s.closeWindows.errs.lost with
  | some x => exact h.closeWindows.update.getD fun _ e => h.closeWindows.update.privWrite e
  | none =>
    extract_lets next noRoom ws
    generalize e : s.closeWindows.privWrite _ _ = o
    cases o with
    | none => exact h.closeWindows
    | some t => exact ((h.closeWindows.privWrite e).ite_then (·.update)).setReg.msix

theorem PackageInv.ueLog (h : PackageInv s) {sector launch who addr} : PackageInv (s.ueLog sector launch who addr) := by
  unfold State.ueLog
  split
  · exact h.errLog

theorem PackageInv.ueRead (h : PackageInv s) {lid who addr} : PackageInv (s.ueRead lid who addr) := h.ueLog

theorem PackageInv.ueMet (h : PackageInv s) {c lid tid who g} : PackageInv (s.ueMet c lid tid who g) := by
  unfold State.ueMet
  split
  · exact h.ueRead
  · split
    · exact h.errLog

theorem PackageInv.partLog (h : PackageInv s) {l n launch who} : PackageInv (s.partLog l n launch who) := by
  unfold State.partLog
  split
  · exact .ite h.ueLog h
  · exact h

theorem PackageInv.storeLands (h : PackageInv s) {c o} : PackageInv (s.storeLands c o) := by
  unfold State.storeLands
  split
  · exact h
  · split
    · split
      · exact h.partLog
      · dsimp only
        split
        · exact h.approach.devWrite.wrote.putShadow
        · exact h.approach.devWrite.wrote
    · exact h.hubPut

theorem PackageInv.perform (h : PackageInv s) {c o} : PackageInv (s.perform c o) :=
  (PackageInv.ite h.takeLates.mergeFlags h.takeLates).storeLands.updCore.ite_then (·.released)

theorem PackageInv.discardImages (h : PackageInv s) {f} : PackageInv (s.discardImages f) := h.update

theorem PackageInv.chipLeaves (h : PackageInv s) {chip} : PackageInv (s.chipLeaves chip) := h.setReg.discardImages

theorem PackageInv.retireCore (h : PackageInv s) {c} : PackageInv (s.retireCore c) :=
  .ite h.updCore.update.setReg (h.updCore.update.ite_then (·.chipLeaves.errLog))

theorem PackageInv.serviceFaulty (h : PackageInv s) : PackageInv s.serviceFaulty := by
  unfold State.serviceFaulty
  exact h.foldl fun _ _ h => h.retireCore

/-! ### The functions of `Machine/Ops` -/

theorem PackageInv.turn (h : PackageInv s) {rank f} (hf : ∀ s, PackageInv s → PackageInv (f s)) :
    PackageInv (s.turn rank f) := .ite h (hf _ h.update)

theorem PackageInv.turnOpen (h : PackageInv s) {rank f} (hf : ∀ s, PackageInv s → PackageInv (f s)) :
    PackageInv (s.turnOpen rank f) := .ite h (hf _ h.update)

theorem PackageInv.setAgent (h : PackageInv s) {r a} : PackageInv (s.setAgent r a) := h.updCore

theorem PackageInv.updAgent (h : PackageInv s) {r f} : PackageInv (s.updAgent r f) := h.updCore

theorem PackageInv.dropAgent (h : PackageInv s) {r} : PackageInv (s.dropAgent r) := h.updCore

theorem PackageInv.flushLoads (h : PackageInv s) {r} : PackageInv (s.flushLoads r) := h.takeLates

theorem PackageInv.wakeCore (h : PackageInv s) {c w} : PackageInv (s.wakeCore c w) := h.updCore

theorem PackageInv.fetchMem (h : PackageInv s) {c part va} : PackageInv (s.fetchMem c part va).1 := by
  unfold State.fetchMem
  split
  · split
    · exact h.xlate.fst ‹_›
    · exact (h.xlate.fst ‹_›).approach
  · exact h.xlate.fst ‹_›

theorem PackageInv.icFill (h : PackageInv s) {c part va w} : PackageInv (s.icFill c part va w) := h.updCore

theorem PackageInv.fetchWord (h : PackageInv s) {c l va} : PackageInv (s.fetchWord c l va).1 := by
  unfold State.fetchWord
  split
  · exact h
  · dsimp only
    split
    · split
      · split
        · exact h
        · exact h.icFill
      · exact h
    · split
      · exact (h.fetchMem.fst ‹_›).icFill
      · exact h.fetchMem.fst ‹_›

theorem PackageInv.blkAt (h : PackageInv s) {c l va} : PackageInv (s.blkAt c l va).1 := by
  unfold State.blkAt
  split
  · split
    · split <;> exact h.fetchWord.fst ‹_›
    · exact h.fetchWord.fst ‹_›
  · exact h.fetchWord.fst ‹_›

theorem PackageInv.setQuad (h : PackageInv s) {c q v} : PackageInv (s.setQuad c q v) := h.updCore

theorem PackageInv.fileThread (h : PackageInv s) {c lid tid addr resume join team landing} :
    PackageInv (s.fileThread c lid tid addr resume join team landing) := by
  unfold State.fileThread
  dsimp only
  split
  · exact .ite h.setQuad.updThread h.setQuad.updThread
  · split <;> exact h.setQuad.updThread

theorem PackageInv.fileResume (h : PackageInv s) {c lid tid addr blk} : PackageInv (s.fileResume c lid tid addr blk) :=
  h.updThread.fileThread

theorem PackageInv.renewElig (h : PackageInv s) {c} : PackageInv (s.renewElig c) := .ite h h.updCore

theorem PackageInv.cancelLaunch (h : PackageInv s) {lid} : PackageInv (s.cancelLaunch lid) := by
  unfold State.cancelLaunch
  dsimp only
  exact h.updLaunch.update.foldl fun _ _ h => h.renewElig.updCore

theorem PackageInv.stopLaunch (h : PackageInv s) {lid st} : PackageInv (s.stopLaunch lid st) := h.updLaunch.cancelLaunch

theorem PackageInv.setFq (h : PackageInv s) {q v} : PackageInv (s.setFq q v) := h.update

theorem PackageInv.fqRecord (h : PackageInv s) {q f page ws} : PackageInv (s.fqRecord q f page ws).1 := by
  unfold State.fqRecord
  dsimp only
  split
  · exact h
  · split
    · exact (h.getD fun _ e => h.privWrite e).setFq
    · split
      · exact h
      · split
        · exact h
        · exact (h.privWrite ‹_›).setFq.msix

theorem PackageInv.sendRemote (h : PackageInv s) {x} : PackageInv (s.sendRemote x).1 := by
  unfold State.sendRemote
  dsimp only
  refine .update (.sendPackets ?_)
  split
  · exact (PackageInv.ite h.argWrite h).leaveStale
  · exact .ite h.argWrite h

theorem PackageInv.l1Clear (h : PackageInv s) {c} : PackageInv (s.l1Clear c) := h.l1Drop.unkeep

theorem PackageInv.farClear (h : PackageInv s) : PackageInv s.farClear := h.unkeep.update

theorem PackageInv.stopEntry (h : PackageInv s) {lid tid p cause cause2} :
    PackageInv (s.stopEntry lid tid p cause cause2) :=
  h.stopLaunch

theorem PackageInv.beginHandler (h : PackageInv s) {c lid tid p} : PackageInv (s.beginHandler c lid tid p) := by
  unfold State.beginHandler
  dsimp only
  split
  · exact (h.blkAt.fst ‹_›).updThread.fileThread
  · exact (h.blkAt.fst ‹_›).stopEntry

theorem PackageInv.putFrame (h : PackageInv s) {w va loc bs} : PackageInv (s.putFrame w va loc bs).1 := by
  unfold State.putFrame
  dsimp only
  split
  · exact h.raced.fst ‹_›
  · dsimp only
    exact ((h.raced.fst ‹_›).foldl fun _ _ h => h.coreStore).raceWrote

theorem PackageInv.enterHandler (h : PackageInv s) {c lid tid ln p} : PackageInv (s.enterHandler c lid tid ln p) := by
  unfold State.enterHandler
  dsimp only
  split
  · exact (h.xlate.fst ‹_›).stopEntry
  · exact (h.xlate.fst ‹_›).stopEntry
  · exact (h.xlate.fst ‹_›).updThread.sendRemote
  · split
    · exact ((h.xlate.fst ‹_›).putFrame.fst ‹_›).stopEntry
    · exact ((h.xlate.fst ‹_›).putFrame.fst ‹_›).beginHandler

theorem PackageInv.reap (h : PackageInv s) {r} : PackageInv (s.reap r) := by
  unfold State.reap
  split
  · exact .ite h (.ite h.dropAgent h.setAgent)
  · exact h

theorem PackageInv.releaseRow (h : PackageInv s) {c lid tid} : PackageInv (s.releaseRow c lid tid) := by
  unfold State.releaseRow
  split
  · exact h.updAgent.reap
  · exact h

theorem PackageInv.disposeTrap (h : PackageInv s) {c lid tid ln p} : PackageInv (s.disposeTrap c lid tid ln p) :=
  .ite h.releaseRow.updCore (.ite h.releaseRow.stopLaunch (.ite h.releaseRow.stopLaunch h.releaseRow.enterHandler))

theorem PackageInv.localFault (h : PackageInv s) {c lid path cause acc va who count ws} :
    PackageInv (s.localFault c lid path cause acc va who count ws).1 :=
  h.fqRecord

theorem PackageInv.resolveFaults (h : PackageInv s) {c lid fuel ps} : PackageInv (s.resolveFaults c lid fuel ps) := by
  induction fuel generalizing s ps with
  | zero => exact h
  | succ fuel ih =>
    cases ps with
    | nil => exact h
    | cons p rest =>
      unfold State.resolveFaults
      refine ih ?_
      split
      · exact h.localFault.fst ‹_›
      · exact (h.localFault.fst ‹_›).foldl fun s x h => h.disposeTrap
      · exact h.localFault.fst ‹_›

theorem PackageInv.dropLanes (h : PackageInv s) {r ns} : PackageInv (s.dropLanes r ns) := by
  refine PackageInv.reap (h.foldl fun s x h => ?_)
  split
  · exact h.updCore
  · exact h

theorem PackageInv.parkLane (h : PackageInv s) {r held g} : PackageInv (s.parkLane r held g) := h.updThread.updAgent

theorem PackageInv.parkLanes (h : PackageInv s) {r ps} : PackageInv (s.parkLanes r ps) := by
  unfold State.parkLanes
  dsimp only
  split
  · exact h.updAgent.dropLanes
  · refine PackageInv.foldl ?_ fun s x h => ?_
    · exact (h.updAgent.foldl fun _ _ h => h.parkLane).reap.resolveFaults
    · exact h.disposeTrap

theorem PackageInv.parkPending (h : PackageInv s) {r} : PackageInv (s.parkPending r) := by
  unfold State.parkPending
  dsimp only
  split
  · split
    · exact h
    · refine .reap (.updAgent (.update ?_))
      refine PackageInv.foldl ?_ fun s x h => ?_
      · exact (h.flushLoads.foldl fun _ _ h => h.updCore).updAgent
      · split
        · exact h.parkLane
        · exact h
  · exact h

theorem PackageInv.shepTrap (h : PackageInv s) {r p} : PackageInv (s.shepTrap r p) := by
  unfold State.shepTrap
  dsimp only
  split
  · split
    · exact (h.localFault.fst ‹_›).updThread.updAgent
    · exact (h.localFault.fst ‹_›).stopLaunch
    · exact h.localFault.fst ‹_›
  · exact h.stopLaunch

theorem PackageInv.ueLane (h : PackageInv s) {r lane addr} : PackageInv (s.ueLane r lane addr) := h.ueRead

theorem PackageInv.trapLanesAt (h : PackageInv s) {r word ps} : PackageInv (s.trapLanesAt r word ps) := by
  unfold State.trapLanesAt
  extract_lets flushed a park met
  have hm : PackageInv met := (h.ite_else (·.flushLoads)).foldl fun _ _ h => h.ite_then (·.ueLane)
  split
  · exact hm
  · exact .ite hm.shepTrap (.ite (hm.foldl fun _ _ h => h.updAgent) hm.parkLanes)

theorem PackageInv.trapLanes (h : PackageInv s) {r ps} : PackageInv (s.trapLanes r ps) := h.trapLanesAt

theorem PackageInv.trapWord (h : PackageInv s) {r cause addr} : PackageInv (s.trapWord r cause addr) := h.trapLanes

theorem PackageInv.checkTarget (h : PackageInv s) {c l va k} : PackageInv (s.checkTarget c l va k).1 := by
  unfold State.checkTarget
  extract_lets byReg landing
  refine .ite_fst h ?_
  split <;> exact h.blkAt.fst ‹_›

theorem PackageInv.leaveBlock (h : PackageInv s) {c lid tid ln word blk target k} :
    PackageInv (s.leaveBlock c lid tid ln word blk target k) := by
  unfold State.leaveBlock
  dsimp only
  split
  · exact .ite (PackageInv.ite h.ueRead h).updThread.resolveFaults (PackageInv.ite h.ueRead h).updThread.disposeTrap
  · split
    · exact .ite ((h.checkTarget.fst ‹_›).ite_then (·.ueRead)).updThread.resolveFaults
        ((h.checkTarget.fst ‹_›).ite_then (·.ueRead)).updThread.disposeTrap
    · exact (h.checkTarget.fst ‹_›).updThread.fileThread

theorem PackageInv.hubAdd32 (h : PackageInv s) {part va n} : PackageInv (s.hubAdd32 part va n) := by
  unfold State.hubAdd32
  split
  · exact (h.hubRead.fst ‹_›).hubWriteD
  · exact h.hubRead.fst ‹_›

theorem PackageInv.hubAdd64 (h : PackageInv s) {part va n} : PackageInv (s.hubAdd64 part va n) := by
  unfold State.hubAdd64
  split
  · exact (h.hubRead.fst ‹_›).hubWriteD
  · exact h.hubRead.fst ‹_›

theorem PackageInv.retireTeam (h : PackageInv s) {c lid team} : PackageInv (s.retireTeam c lid team) := by
  unfold State.retireTeam
  dsimp only
  refine .updRes (.updLaunch (.releasedBy (.mergeFlags ?_)))
  split
  · exact h
  · split
    · exact h.doneUndef
    · refine PackageInv.hubAdd32 ?_
      split
      · exact (h.hubRead.fst ‹_›).hubWriteD
      · exact h.hubRead.fst ‹_›

theorem PackageInv.releaseShep (h : PackageInv s) {c lid} : PackageInv (s.releaseShep c lid) := .ite h.updRes.updCore h

theorem PackageInv.tryRetire (h : PackageInv s) {c lid team} : PackageInv (s.tryRetire c lid team) :=
  .ite h.retireTeam.releaseShep h

theorem PackageInv.judgeExit (h : PackageInv s) {c lid tid} : PackageInv (s.judgeExit c lid tid) := h.setQuad

theorem PackageInv.exitThread (h : PackageInv s) {c lid tid} : PackageInv (s.exitThread c lid tid) := by
  unfold State.exitThread
  dsimp only
  exact h.judgeExit.updCore.tryRetire

theorem PackageInv.goAfter (h : PackageInv s) {c lid tid word blk} : PackageInv (s.goAfter c lid tid word blk) := by
  unfold State.goAfter
  split
  · exact (h.blkAt.fst ‹_›).fileThread
  · exact (h.blkAt.fst ‹_›).fileResume

theorem PackageInv.finishParked (h : PackageInv s) {c lid tid ws} : PackageInv (s.finishParked c lid tid ws) := by
  unfold State.finishParked
  dsimp only
  split
  · exact h.releaseRow.updThread.goAfter
  · exact h

theorem PackageInv.trapReturn (h : PackageInv s) {r n ln ws} : PackageInv (s.trapReturn r n ln ws) := by
  unfold State.trapReturn
  dsimp only
  split
  · exact h.updThread.updAgent.fileResume
  · exact h.updThread.updAgent.goAfter
  · exact h.updThread.updAgent.leaveBlock
  · exact h.updThread.updAgent.exitThread

/-! ### The functions of `Machine/Operands` -/

theorem PackageInv.latchFor (h : PackageInv s) {o es} : PackageInv (s.latchFor o es) := by
  unfold State.latchFor
  split
  · exact h.foldl fun _ _ h => h.updThread
  · exact h

theorem PackageInv.latch (h : PackageInv s) {r o} : PackageInv (s.latch r o) := h.latchFor

theorem PackageInv.raise (h : PackageInv s) {c lid flags} : PackageInv (s.raise c lid flags) := .ite h h.updRes

/-! ### The functions of `Machine/Flags` -/

theorem PackageInv.commitAwait (h : PackageInv s) {r o lat k rs await} :
    PackageInv (s.commitAwait r o lat k rs await) :=
  .ite h.raise.trapLanes h.raise.updAgent.trapLanesAt

theorem PackageInv.commit (h : PackageInv s) {r o lat k rs} : PackageInv (s.commit r o lat k rs) := h.commitAwait

theorem PackageInv.deliver (h : PackageInv s) {r key ws} : PackageInv (s.deliver r key ws) := h.updCore

/-! ### The functions of `Machine/Issue` -/

theorem PackageInv.fetchDecode (h : PackageInv s) {r} : PackageInv (s.fetchDecode r).1 := by
  unfold State.fetchDecode
  dsimp only
  split
  · exact h.fetchWord.fst ‹_›
  · split <;> exact h.fetchWord.fst ‹_›

theorem PackageInv.hintMiss (h : PackageInv s) {lid} : PackageInv (s.hintMiss lid) := h.updLaunch

theorem PackageInv.missOnce (h : PackageInv s) {r} : PackageInv (s.missOnce r) := .ite h h.hintMiss.updAgent

theorem PackageInv.judge (h : PackageInv s) {r} : PackageInv (s.judge r).1 := by
  unfold State.judge
  dsimp only
  split
  · exact h.updAgent
  · split
    · exact h.updAgent.fetchDecode
    · exact h.updAgent.fetchDecode
    · exact h.updAgent.fetchDecode
    · exact h.updAgent.fetchDecode.missOnce
    · exact (h.updAgent.fetchDecode.ite_else (·.missOnce)).updAgent

theorem PackageInv.grant (h : PackageInv s) {r pipeB} : PackageInv (s.grant r pipeB) := by
  unfold State.grant
  dsimp only
  exact (h.fetchDecode.ite_then (·.missOnce)).updAgent.update

theorem PackageInv.wake (h : PackageInv s) {r} : PackageInv (s.wake r) := h.updAgent

theorem PackageInv.restFor (h : PackageInv s) {r w} : PackageInv (s.restFor r w) := h.updAgent

theorem PackageInv.waitFor (h : PackageInv s) {r w} : PackageInv (s.waitFor r w) := h.updAgent

theorem PackageInv.waitStores (h : PackageInv s) {r spans} : PackageInv (s.waitStores r spans) := h.updAgent.waitFor

theorem PackageInv.meetBad (h : PackageInv s) {r i} : PackageInv (s.meetBad r i).1 := by
  unfold State.meetBad
  dsimp only
  split
  · dsimp only
    exact h.foldl fun _ _ h => h.ueMet
  · split
    · dsimp only
      exact (h.foldl fun _ _ h => h.ueMet).trapLanes
    · dsimp only
      refine PackageInv.foldl ?_ fun s x h => ?_
      · exact h.foldl fun _ _ h => h.ueMet
      · exact h.updAgent

theorem PackageInv.badWord (h : PackageInv s) {r why w} : PackageInv (s.badWord r why w) := by
  unfold State.badWord
  dsimp only
  split
  · exact (h.foldl fun _ _ h => .ite h.updThread h).updAgent
  · exact h.trapLanes

/-! ### The functions of `Machine/Control` -/

theorem PackageInv.endBlock (h : PackageInv s) {r f} : PackageInv (s.endBlock r f) := h.updAgent

/-! ### The functions of `Machine/Droves` -/

theorem PackageInv.formDrove (h : PackageInv s) {c q n f ms} : PackageInv (s.formDrove c q n f ms) := by
  unfold State.formDrove
  dsimp only
  refine .updCore (.setQuad ?_)
  refine PackageInv.foldl ?_ fun s x h => ?_
  · split <;> exact h.blkAt.fst ‹_›
  · exact h.releaseRow.updThread

theorem PackageInv.readyDroves (h : PackageInv s) {c q} : PackageInv (s.readyDroves c q).1 := by
  unfold State.readyDroves
  refine h.foldl_fst fun p x h => ?_
  split <;> exact h.judge.fst ‹_›

theorem PackageInv.chooseGo (h : PackageInv s) {c q} : PackageInv (State.choose.go s c q) := by
  unfold State.choose.go
  split
  exact (h.readyDroves.fst ‹_›).updCore

theorem PackageInv.choose (h : PackageInv s) {c q} : PackageInv (s.choose c q) := by
  unfold State.choose
  split
  · exact .ite h h.chooseGo
  · exact h.chooseGo

theorem PackageInv.usePipe (h : PackageInv s) {c q id pipeB} : PackageInv (s.usePipe c q id pipeB) := h.updCore

theorem PackageInv.grantShepherd (h : PackageInv s) {core lid} : PackageInv (s.grantShepherd core lid) := by
  unfold State.grantShepherd
  split
  · exact h
  · refine h.turnOpen fun s h => ?_
    split
    · split
      · exact (h.judge.fst ‹_›).turn fun _ h => h.grant
      · exact h.judge.fst ‹_›
    · exact h

theorem PackageInv.fileLane (h : PackageInv s) {r ln} : PackageInv (s.fileLane r ln) := by
  unfold State.fileLane
  dsimp only
  split
  · exact h.updCore
  · split
    · exact h.exitThread
    · exact h.updThread.leaveBlock
    · exact h

theorem PackageInv.refileInto (h : PackageInv s) {c q fold f n} : PackageInv (s.refileInto c q fold f n).1 := by
  unfold State.refileInto
  dsimp only
  exact h.setQuad.foldl fun _ _ h => h.updCore

theorem PackageInv.loadPerforms (h : PackageInv s) {c x} : PackageInv (s.loadPerforms c x) := h.takeLates

/-! ### The functions of `Machine/Bells` -/

theorem PackageInv.reach (h : PackageInv s) {c lid off n} : PackageInv (s.reach c lid off n) := .ite h.updRes h

theorem PackageInv.scratchWrite (h : PackageInv s) {c lid off bs} : PackageInv (s.scratchWrite c lid off bs) := h.updRes

theorem PackageInv.scratchStore (h : PackageInv s) {c lid who off bs} : PackageInv (s.scratchStore c lid who off bs) :=
  (PackageInv.ite h.ueMet h).scratchWrite

theorem PackageInv.setBell (h : PackageInv s) {c lid b x} : PackageInv (s.setBell c lid b x) := h.updRes

theorem PackageInv.bellCheck (h : PackageInv s) {c lid b} : PackageInv (s.bellCheck c lid b) := .ite h.setBell.updCore h

theorem PackageInv.bellCompletion (h : PackageInv s) {c lid b failed} : PackageInv (s.bellCompletion c lid b failed) :=
  h.setBell.bellCheck.released

theorem PackageInv.foldLanes (h : PackageInv s) {es f} (hf : ∀ s e, PackageInv s → PackageInv (f s e).1) :
    PackageInv (foldLanes es f s).1 := h.foldl_fst fun _ _ h => hf _ _ h

theorem PackageInv.binitLane (h : PackageInv s) {o es e} : PackageInv (binitLane o es s e).1 := by
  unfold Machine.binitLane
  dsimp only
  split
  · exact h
  · split
    · split
      · exact h
      · exact h.setBell
    · split
      · exact h
      · exact h.setBell

theorem PackageInv.barvLane (h : PackageInv s) {o e} : PackageInv (barvLane o s e).1 := by
  unfold Machine.barvLane
  dsimp only
  split
  · exact h
  · exact h.flushLoads.setBell.bellCheck.released

theorem PackageInv.bexpLane (h : PackageInv s) {o e} : PackageInv (bexpLane o s e).1 := by
  unfold Machine.bexpLane
  dsimp only
  split
  · exact h
  · exact h.setBell.bellCheck

theorem PackageInv.btestLane (h : PackageInv s) {o e} : PackageInv (btestLane o s e).1 := by
  unfold Machine.btestLane
  dsimp only
  split
  · exact h
  · split
    · exact h.acquireEpoch
    · exact h

theorem PackageInv.barvFirst (h : PackageInv s) {o e} : PackageInv (barvFirst o s e) := by
  unfold Machine.barvFirst
  split
  · exact h
  · split
    · exact (h.barvLane.fst ‹_›).updAgent

theorem PackageInv.barvThen (h : PackageInv s) {o t e} : PackageInv (barvThen o t s e).1 := by
  unfold Machine.barvThen
  dsimp only
  split
  · exact h
  · split
    · exact h.barvLane
    · exact h

theorem PackageInv.setChute (h : PackageInv s) {c lid n x} : PackageInv (s.setChute c lid n x) := h.updRes

theorem PackageInv.chinitLane (h : PackageInv s) {o first e} : PackageInv (chinitLane o first s e).1 := by
  unfold Machine.chinitLane
  dsimp only
  split
  · exact h
  · exact h.setChute

theorem PackageInv.pushHandle (h : PackageInv s) {c lid n v} : PackageInv (s.pushHandle c lid n v) :=
  h.scratchWrite.setChute

theorem PackageInv.popHandle (h : PackageInv s) {c lid n} : PackageInv (s.popHandle c lid n).1 := h.setChute

theorem PackageInv.popLane (h : PackageInv s) {o none_ e} : PackageInv (popLane o none_ s e).1 := by
  unfold Machine.popLane
  dsimp only
  split
  · exact h
  · exact h.popHandle.acquireEpoch

theorem PackageInv.chtryLane (h : PackageInv s) {o e} : PackageInv (chtryLane o s e).1 := by
  unfold Machine.chtryLane
  split
  · exact h
  · exact h.popLane

theorem PackageInv.chcloseLane (h : PackageInv s) {o e} : PackageInv (chcloseLane o s e).1 := by
  unfold Machine.chcloseLane
  dsimp only
  split
  · exact h
  · exact h.setChute

theorem PackageInv.retry (h : PackageInv s) {r p} : PackageInv (s.retry r p) := by
  unfold State.retry
  split
  · split
    · exact .ite (h.turn fun _ h => h.wake.update) h
    · exact h
  · exact h

theorem PackageInv.endCopy (h : PackageInv s) {c slot bell failed cause} :
    PackageInv (s.endCopy c slot bell failed cause) := by
  unfold State.endCopy
  split
  · dsimp only
    split
    · exact h.updCore.wakeCore.bellCompletion
    · exact h.updCore.wakeCore
  · exact h

/-! ### The functions of `Machine/Access` -/

theorem PackageInv.farDrop (h : PackageInv s) {l} : PackageInv (s.farDrop l) := h.unkeep.update

theorem PackageInv.acquire (h : PackageInv s) {c lid tid scope} : PackageInv (s.acquire c lid tid scope) :=
  (h.acquireEpoch.ite_then (·.l1Clear)).ite_then (·.farClear)

theorem PackageInv.releaseNow (h : PackageInv s) {c lid scope} : PackageInv (s.releaseNow c lid scope) :=
  (PackageInv.ite h.mergeFlags h).released

theorem PackageInv.raceAt (h : PackageInv s) {e a l n write atomic acq scope} :
    PackageInv (s.raceAt e a l n write atomic acq scope).1 :=
  h.raced

theorem PackageInv.remoteHeld (h : PackageInv s) {c l n scope x} (e : s.remoteHeld c l n scope = some (t, x)) :
    PackageInv t := by
  unfold State.remoteHeld at e
  dsimp only at e
  split at e
  · cases e
    exact h
  · split at e
    · cases e
      exact h.l1Drop.updCore
    · cases e

theorem PackageInv.loadLocal (h : PackageInv s) {e a l n scope acq sext keep dst} :
    PackageInv (s.loadLocal e a l n scope acq sext keep dst).1 := by
  unfold State.loadLocal
  dsimp only
  split
  · exact (PackageInv.ite h.takeOwn.acquire h.takeOwn).readL1 (n := n)
  · exact h.updCore

theorem PackageInv.loadV (h : PackageInv s) {e a n scope acq sext nc dst} :
    PackageInv (s.loadV e a n scope acq sext nc dst).1 := by
  unfold State.loadV
  dsimp only
  split
  · exact h
  · split
    · exact h.xlate.fst ‹_›
    · split
      · exact h.xlate.fst ‹_›
      · exact (h.xlate.fst ‹_›).flushLoads.emit.ite_then (·.acquire)
    · next hx =>
      have hx := h.xlate.fst hx
      split
      · next he =>
        split at he
        · cases he
        · have ht := (PackageInv.ite hx.l1Clear hx).remoteHeld he
          exact .ite ht.acquire ht
      · exact hx.sendRemote
    · split
      · exact h.xlate.fst ‹_›
      · split
        · split
          · exact (h.xlate.fst ‹_›).raceAt.fst ‹_›
          · exact ((h.xlate.fst ‹_›).raceAt.fst ‹_›).loadLocal
        · exact (h.xlate.fst ‹_›).loadLocal

theorem PackageInv.storeV (h : PackageInv s) {e a bs scope rel} : PackageInv (s.storeV e a bs scope rel).1 := by
  unfold State.storeV
  dsimp only
  split
  · exact h
  · split
    · exact h.xlate.fst ‹_›
    · split
      · exact h.xlate.fst ‹_›
      · exact (h.xlate.fst ‹_›).flushLoads.emit.ite_then (·.releaseNow)
    · exact (h.xlate.fst ‹_›).flushLoads.sendRemote
    · split
      · exact (h.xlate.fst ‹_›).raceAt.fst ‹_›
      · exact (((h.xlate.fst ‹_›).raceAt.fst ‹_›).ite_else (·.flushLoads.raceWrote)).coreStore.ite_then (·.released)

theorem PackageInv.grantLine (h : PackageInv s) {c pa} : PackageInv (s.grantLine c pa) := .ite h h.update

theorem PackageInv.atomHere (h : PackageInv s) {c lid tid l n op b x} :
    PackageInv (s.atomHere c lid tid l n op b x).1 := by
  unfold State.atomHere
  dsimp only
  split
  · exact h.leaveStale.argWrite.approach.hubPut.wrote.l1Drop.ite_then (·.updCore)
  · exact h.leaveStale.argWrite.approach.hubPut.l1Drop.ite_then (·.updCore)

theorem PackageInv.atomV (h : PackageInv s) {e a n op b x scope acq rel ret dst} :
    PackageInv (s.atomV e a n op b x scope acq rel ret dst).1 := by
  unfold State.atomV
  extract_lets c fault
  refine .ite_fst h ?_
  split
  · exact h.xlate.fst ‹_›
  · exact h.xlate.fst ‹_›
  · exact (h.xlate.fst ‹_›).flushLoads.farDrop.l1Drop.sendRemote
  · refine .ite_fst (h.xlate.fst ‹_›) ?_
    split
    · exact (h.xlate.fst ‹_›).raceAt.fst ‹_›
    · have ht := (h.xlate.fst ‹_›).raceAt.fst ‹_›
      extract_lets flushed granted
      have hg : PackageInv granted := by
        unfold granted
        split
        · exact ht.flushLoads.takeLates.grantLine
        · exact ht.flushLoads.takeLates
      exact (hg.atomHere.raceWrote.ite_then (·.releaseNow)).ite_then (·.acquire)

theorem PackageInv.foldMem (h : PackageInv s) {es f} (hf : ∀ s e, PackageInv s → PackageInv (f s e).1) :
    PackageInv (foldMem es f s).1 := by
  refine h.foldl_fst fun p e h => ?_
  split <;> exact (hf _ _ h).fst ‹_›

theorem PackageInv.askV (h : PackageInv s) {c lid tid part va n} : PackageInv (s.askV c lid tid part va n).1 := by
  unfold State.askV
  split
  · exact h.xlate.fst ‹_›
  · exact h.xlate.fst ‹_›
  · exact h.xlate.fst ‹_›
  · split
    · exact h.xlate.fst ‹_›
    · split
      · exact (h.xlate.fst ‹_›).takeOwn.coreBytes.fst ‹_›

theorem PackageInv.askLane (h : PackageInv s) {e va n} : PackageInv (s.askLane e va n).1 := h.askV

theorem PackageInv.askC (h : PackageInv s) {c part es va n} : PackageInv (s.askC c part es va n).1 := by
  unfold State.askC
  split
  · exact h.xlate.fst ‹_›
  · exact h.xlate.fst ‹_›
  · dsimp only
    split <;> exact h.xlate.fst ‹_›
  · split
    · exact h.xlate.fst ‹_›
    · exact (h.xlate.fst ‹_›).approach

theorem PackageInv.found (h : PackageInv s) {e ask} (hf : ∀ s, PackageInv s → PackageInv (ask s).1) :
    PackageInv (s.found e ask).1 := by
  unfold State.found
  split
  · exact h
  · exact h
  · exact hf s h

theorem PackageInv.sendFetches (h : PackageInv s) {es path n ask} (hf : ∀ s e, PackageInv s → PackageInv (ask s e).1) :
    PackageInv (s.sendFetches es path n ask).1 := by
  refine h.foldl_fst fun p e h => ?_
  split
  · exact ((h.found fun s h => hf s e h).fst ‹_›).sendRemote
  · exact (h.found fun s h => hf s e h).fst ‹_›

/-! ### The functions of `Machine/Memory` -/

theorem PackageInv.scrLane (h : PackageInv s) {e a n nb acc f}
    (hf : ∀ s core off, PackageInv s → PackageInv (f s core off).1) : PackageInv (scrLane e a n nb acc s f).1 := by
  unfold Machine.scrLane
  split
  · exact h
  · split
    · exact h.ueMet
    · exact hf _ _ _ (PackageInv.ite h.flushLoads h).reach

theorem PackageInv.tileLane (h : PackageInv s) {o e coord acc f}
    (hf : ∀ s core off, PackageInv s → PackageInv (f s core off).1) : PackageInv (tileLane o e coord acc s f).1 :=
  .ite_fst (h.scrLane hf) h

theorem PackageInv.argUndef {x} (h : PackageInv x.1) {c l n} : PackageInv (argUndef c l n x).1 := by
  unfold Machine.argUndef
  split
  · exact .ite_fst h h
  · exact h.updCore
  · exact h

theorem PackageInv.prefetch (h : PackageInv s) {e a policy} : PackageInv (s.prefetch e a policy) := by
  unfold State.prefetch
  split
  · exact h.xlate.fst ‹_›
  · exact h.xlate.fst ‹_›
  · dsimp only
    split
    · exact h.xlate.fst ‹_›
    · split
      · exact (h.xlate.fst ‹_›).ite_else (·.updCore)
      · exact (h.xlate.fst ‹_›).sendRemote
  · exact (h.xlate.fst ‹_›).ite_else (·.coreBytes)

theorem PackageInv.setStream (h : PackageInv s) {c lid n x} : PackageInv (s.setStream c lid n x) := h.updRes

theorem PackageInv.farTake (h : PackageInv s) {l bs} : PackageInv (s.farTake l bs) := h.unkeep.update

theorem PackageInv.putOther (h : PackageInv s) {l bs} : PackageInv (s.putOther l bs) := by
  unfold State.putOther
  dsimp only
  split
  · exact h.approach.hubPut.shadowClear.wrote
  · exact h.approach.hubPut.unkeep.update
  · exact h.approach.hubPut

theorem PackageInv.readC (h : PackageInv s) {c part es va n} : PackageInv (s.readC c part es va n).1 := by
  unfold State.readC
  split
  · exact h.askC.fst ‹_›
  · exact h.askC.fst ‹_›
  · dsimp only
    split
    · exact (h.askC.fst ‹_›).askRead.fst ‹_›
    · exact ((h.askC.fst ‹_›).askRead.fst ‹_›).ite_then (·.farTake)

theorem PackageInv.askElem (h : PackageInv s) {c lid n i size index l} :
    PackageInv (s.askElem c lid n i size index l) := by
  unfold State.askElem
  split
  · exact h.sendRemote

theorem PackageInv.putElem (h : PackageInv s) {c lid n i e} : PackageInv (s.putElem c lid n i e) := h.updRes

theorem PackageInv.fetchFrom (h : PackageInv s) {c lid n i a} : PackageInv (s.fetchFrom c lid n i a) := by
  unfold State.fetchFrom
  dsimp only
  split
  · exact ((PackageInv.ite_fst h h.askC).fst ‹_›).putElem
  · exact ((PackageInv.ite_fst h h.askC).fst ‹_›).putElem
  · exact ((PackageInv.ite_fst h h.askC).fst ‹_›).askElem

theorem PackageInv.fetchElem (h : PackageInv s) {c lid n i} : PackageInv (s.fetchElem c lid n i) := by
  unfold State.fetchElem
  dsimp only
  split
  · split
    · exact (h.askC.fst ‹_›).fetchFrom
    · exact (h.askC.fst ‹_›).putElem
    · exact (h.askC.fst ‹_›).askElem
  · exact h.fetchFrom

theorem PackageInv.wakeStream (h : PackageInv s) {c lid} : PackageInv (s.wakeStream c lid) := h.updCore

theorem PackageInv.popStream (h : PackageInv s) {c lid n tid size} : PackageInv (s.popStream c lid n tid size).1 := by
  unfold State.popStream
  dsimp only
  split
  · exact h
  · split
    · split
      · exact .ite h.fetchElem h
      · exact (PackageInv.ite h.fetchElem h).setStream
    · exact (PackageInv.ite h.fetchElem h).setStream
    · split
      · split <;> exact h.fetchElem
      · split <;> exact h

theorem PackageInv.descAsk (h : PackageInv s) {o e} : PackageInv (descAsk o s e).1 := h.askC

theorem PackageInv.openStream (h : PackageInv s) {o idx e} : PackageInv (openStream o idx s e).1 := by
  unfold Machine.openStream
  dsimp only
  split
  · exact h
  · split
    · exact (h.found fun _ h => h.descAsk).fst ‹_›
    · exact (h.found fun _ h => h.descAsk).fst ‹_›
    · split
      · exact (h.found fun _ h => h.descAsk).fst ‹_›
      · exact ((h.found fun _ h => h.descAsk).fst ‹_›).setStream

/-! ### The functions of `Machine/Atomic` -/

theorem PackageInv.scrAtomLane (h : PackageInv s) {o op ret e} : PackageInv (scrAtomLane o op ret s e).1 :=
  h.scrLane fun _ _ _ h => (h.scratchStore.ite_then (·.releaseNow)).ite_then (·.acquire)

theorem PackageInv.readSpan (h : PackageInv s) {rd fuel va n}
    (hf : ∀ s va n, PackageInv s → PackageInv (rd s va n).1) : PackageInv (readSpan rd fuel s va n).1 := by
  induction fuel generalizing s va n with
  | zero => exact h
  | succ fuel ih =>
    unfold Machine.readSpan
    split
    · exact h
    · dsimp only
      split
      · exact (hf _ _ _ h).fst ‹_›
      · have ht := (hf _ _ _ h).fst ‹_›
        split <;> exact (ih ht).fst ‹_›

theorem PackageInv.readF (h : PackageInv s) {part va n} : PackageInv (s.readF part va n).1 := by
  unfold State.readF
  split
  · exact h.xlate.fst ‹_›
  · split
    · exact (h.xlate.fst ‹_›).askRead.fst ‹_›
    · split
      · exact (h.xlate.fst ‹_›).askRead.fst ‹_›
      · exact ((h.xlate.fst ‹_›).askRead.fst ‹_›).approach

theorem PackageInv.collAsk (h : PackageInv s) {o e} : PackageInv (collAsk o s e).1 := h.askLane

theorem PackageInv.collLane (h : PackageInv s) {o e} : PackageInv (collLane o s e).1 := by
  unfold Machine.collLane
  refine .ite_fst h ?_
  split
  · exact (h.found fun s h => h.collAsk).fst ‹_›
  · exact (h.found fun s h => h.collAsk).fst ‹_›
  · have ht := (h.found fun s h => h.collAsk).fst ‹_›
    refine .ite_fst ht (.ite_fst ht ?_)
    have hr : ∀ s va n, PackageInv s → PackageInv (s.readF e.l.part va n).1 := fun s va n h => h.readF
    exact ((ht.readSpan hr).ite_then (·.ueRead)).update

theorem PackageInv.writeF (h : PackageInv s) {part va bs} : PackageInv (s.writeF part va bs) := by
  unfold State.writeF
  refine h.foldl fun s x h => ?_
  dsimp only
  split
  · split
    · exact ((h.xlate.fst ‹_›).askWrite.fst ‹_›).putOther
    · exact (h.xlate.fst ‹_›).askWrite.fst ‹_›
  · exact h.xlate.fst ‹_›

theorem PackageInv.addF (h : PackageInv s) {part va n} : PackageInv (s.addF part va n) := by
  unfold State.addF
  split
  · split
    · exact ((h.xlate.fst ‹_›).askNow.fst ‹_›).farDrop
    · exact ((h.xlate.fst ‹_›).askNow.fst ‹_›).ite_else (·.putOther)
    · exact (h.xlate.fst ‹_›).askNow.fst ‹_›
  · exact h.xlate.fst ‹_›

/-! ### The functions of `Machine/Narrow` -/

theorem PackageInv.outOvf (h : PackageInv s) {c lid n} : PackageInv (s.outOvf c lid n) := h.raise.updRes

theorem PackageInv.queueAppends (h : PackageInv s) {r o} : PackageInv (s.queueAppends r o) := h.updCore.updAgent

theorem PackageInv.dropAppends (h : PackageInv s) {r} : PackageInv (s.dropAppends r) := h.updCore.wakeCore.wakeCore

/-! ### The functions of `Machine/Copy` -/

theorem PackageInv.cpyIssue (h : PackageInv s) {o e} : PackageInv (cpyIssue o s e).1 := by
  unfold Machine.cpyIssue
  dsimp only
  split
  · exact h
  · split
    · exact h
    · split
      · exact h
      · split <;> exact h

theorem PackageInv.layoutIssue (h : PackageInv s) {kind o e} : PackageInv (layoutIssue kind o s e).1 := by
  unfold Machine.layoutIssue
  dsimp only
  split
  · exact h
  · split
    · exact (h.found fun _ h => h.descAsk).fst ‹_›
    · exact (h.found fun _ h => h.descAsk).fst ‹_›
    · split
      · exact (h.found fun _ h => h.descAsk).fst ‹_›
      · split <;> exact (h.found fun _ h => h.descAsk).fst ‹_›

theorem PackageInv.readM (h : PackageInv s) {c part es va n} : PackageInv (s.readM c part es va n).1 := by
  unfold State.readM
  split
  · exact h.xlate.fst ‹_›
  · split
    · exact h.xlate.fst ‹_›
    · split
      · exact (h.xlate.fst ‹_›).coreBytes.fst ‹_›

theorem PackageInv.cpymxIssue (h : PackageInv s) {o e} : PackageInv (cpymxIssue o s e).1 := by
  unfold Machine.cpymxIssue
  dsimp only
  split
  · exact h
  · split
    · exact h.readM.fst ‹_›
    · split
      · exact (h.readM.fst ‹_›).readM.fst ‹_›
      · split
        · exact (h.readM.fst ‹_›).readM.fst ‹_›
        · exact (h.readM.fst ‹_›).readM.fst ‹_›
        · split <;> exact (h.readM.fst ‹_›).readM.fst ‹_›

theorem PackageInv.ldgsIssue (h : PackageInv s) {o e} : PackageInv (ldgsIssue o s e).1 := by
  unfold Machine.ldgsIssue
  dsimp only
  split
  · exact h
  · split
    · exact h.xlate.fst ‹_›
    · split
      · exact h.xlate.fst ‹_›
      · split <;> exact h.xlate.fst ‹_›

theorem PackageInv.startCopy (h : PackageInv s) {c x} : PackageInv (s.startCopy c x).1 :=
  .ite h.updCore.endCopy h.updCore

theorem PackageInv.copyStart (h : PackageInv s) {o ret f r}
    (hf : ∀ o s e, PackageInv s → PackageInv (f o s e).1) : PackageInv (copyStart o ret f r s) := by
  unfold Machine.copyStart
  dsimp only
  split
  · exact h.waitFor
  · refine PackageInv.commit (PackageInv.foldl_fst ?_ fun p x h => ?_)
    · exact h.foldl_fst fun p e h => hf o p.1 e h
    · split
      · exact h
      · exact h.startCopy

theorem PackageInv.readSpan64 (h : PackageInv s) {c part es fuel va n} :
    PackageInv (s.readSpan64 c part es fuel va n).1 := by
  induction fuel generalizing s va n with
  | zero => exact h
  | succ fuel ih =>
    cases n with
    | zero => exact h
    | succ n =>
      rw [State.readSpan64.eq_3 _ _ _ _ _ _ _ (Nat.succ_ne_zero n)]
      split
      · exact h.readC.fst ‹_›
      · have ht := h.readC.fst ‹_›
        split <;> exact (ih ht).fst ‹_›

theorem PackageInv.putSpan64 (h : PackageInv s) {c part fuel va bs} : PackageInv (s.putSpan64 c part fuel va bs).1 := by
  induction fuel generalizing s va bs with
  | zero => exact h
  | succ fuel ih =>
    cases bs with
    | nil => exact h
    | cons b bs =>
      unfold State.putSpan64
      dsimp only
      split
      · exact h.xlate.fst ‹_›
      · exact h.xlate.fst ‹_›
      · have hx := h.xlate.fst ‹_›
        split
        · exact hx.askWrite.fst ‹_›
        · have ha := hx.askWrite.fst ‹_›
          split <;> exact (ih ha).fst ‹_›

theorem PackageInv.rowIn (h : PackageInv s) {c x y r} : PackageInv (s.rowIn c x y r).1 := by
  unfold State.rowIn
  dsimp only
  split
  · exact h.readSpan64.fst ‹_›
  · split <;> exact h.readSpan64.fst ‹_›

theorem PackageInv.sharedByte (h : PackageInv s) {c part va} : PackageInv (s.sharedByte c part va).1 := by
  unfold State.sharedByte
  split
  · exact h.xlate.fst ‹_›
  · split
    · exact (h.xlate.fst ‹_›).askRead.fst ‹_›
    · exact ((h.xlate.fst ‹_›).askRead.fst ‹_›).approach

theorem PackageInv.rowOut (h : PackageInv s) {c x y r} : PackageInv (s.rowOut c x y r).1 := by
  unfold State.rowOut
  dsimp only
  split
  · exact h
  · split
    · exact h.reach
    · split
      · exact (PackageInv.ite_fst h.reach.sharedByte h.reach).fst ‹_›
      · have ht := (PackageInv.ite_fst h.reach.sharedByte h.reach).fst ‹_›
        split <;> exact ht.putSpan64.fst ‹_›

theorem PackageInv.runIn (h : PackageInv s) {c x off n} : PackageInv (s.runIn c x off n).1 := by
  unfold State.runIn
  dsimp only
  split <;> exact h.readC.fst ‹_›

theorem PackageInv.copyPieces (h : PackageInv s) {c x} : PackageInv (s.copyPieces c x).1 := by
  unfold State.copyPieces
  dsimp only
  split
  · exact h.foldl_fst fun _ _ h => h.runIn
  · refine h.foldl_fst fun p x h => ?_
    dsimp only
    split
    · exact h.rowOut
    · exact h.rowIn

theorem PackageInv.doPut (h : PackageInv s) {c lid who p} : PackageInv (s.doPut c lid who p) := by
  unfold State.doPut
  split
  · exact h.scratchStore
  · exact (PackageInv.ite h.ueMet h).updRes
  · exact h.partLog.putOther

theorem PackageInv.copyStatus (h : PackageInv s) {c slot flags} : PackageInv (s.copyStatus c slot flags) := h.updCore

theorem PackageInv.failWith (h : PackageInv s) {c slot cause addr ps} :
    PackageInv (s.failWith c slot cause addr ps) := by
  unfold State.failWith
  split
  · split
    · dsimp only
      refine PackageInv.endCopy ?_
      split
      · exact (h.foldl fun _ _ h => h.doPut).copyStatus.raise.fqRecord.ueMet
      · exact (h.foldl fun _ _ h => h.doPut).copyStatus.raise.fqRecord
    · exact h
  · exact h

theorem PackageInv.failCopy (h : PackageInv s) {c slot cause addr} : PackageInv (s.failCopy c slot cause addr) := by
  unfold State.failCopy
  split
  · split
    · split
      exact (h.copyPieces.fst ‹_›).failWith
    · exact h
  · exact h

/-! ### The functions of `Machine/FrontEnd` -/

theorem PackageInv.qPut (h : PackageInv s) {q off bs} : PackageInv (s.qPut q off bs) := h.getD fun _ e => h.privWrite e

theorem PackageInv.haltQueue (h : PackageInv s) {q} : PackageInv (s.haltQueue q) := h.update

theorem PackageInv.restartQueue (h : PackageInv s) {q} : PackageInv (s.restartQueue q) := h.update

theorem PackageInv.qStop (h : PackageInv s) {q d code val} : PackageInv (s.qStop q d code val) :=
  h.qPut.qPut.qPut.haltQueue

theorem PackageInv.setFront (h : PackageInv s) {f} : PackageInv (s.setFront f) := h.update

theorem PackageInv.setSlots (h : PackageInv s) {t} : PackageInv (s.setSlots t) := h.setFront.setReg

theorem PackageInv.mapSlot (h : PackageInv s) {n q} : PackageInv (s.mapSlot n q) := h.setSlots

theorem PackageInv.freeSlotOf (h : PackageInv s) {n rescan} : PackageInv (s.freeSlotOf n rescan) := by
  unfold State.freeSlotOf
  split
  · exact h
  · dsimp only
    split
    · exact h.setFront.updLaunch.setSlots.setFront.ite_then (·.setFront)
    · exact h.setSlots.setFront.ite_then (·.setFront)

theorem PackageInv.takeRescan (h : PackageInv s) {n} : PackageInv (s.takeRescan n) := by
  unfold State.takeRescan
  split
  · exact h.setFront.mapSlot
  · exact h

theorem PackageInv.evictFor (h : PackageInv s) {sl} : PackageInv (s.evictFor sl) := by
  unfold State.evictFor
  split
  · exact h.freeSlotOf.setSlots
  · exact h

theorem PackageInv.signal (h : PackageInv s) {q} : PackageInv (s.signal q) := by
  unfold State.signal
  split
  · exact h.setSlots
  · dsimp only
    split
    · exact h.setFront.mapSlot.setSlots
    · split
      · exact h.setFront.setSlots.evictFor
      · exact h.setFront.evictFor

theorem PackageInv.signalStore (h : PackageInv s) {q d v} : PackageInv (s.signalStore q d v) :=
  .ite h.signal.privFill.haltQueue
    (.ite h.signal.privFill.restartQueue
      (.ite h.signal.privFill.restartQueue.qStop h.signal.privFill.restartQueue.qPut))

theorem PackageInv.judgeDoorbell (h : PackageInv s) {q v} : PackageInv (s.judgeDoorbell q v) := by
  unfold State.judgeDoorbell
  split
  · exact h
  · exact .ite h h.signalStore

theorem PackageInv.mbSubmit (h : PackageInv s) : PackageInv s.mbSubmit := h.setReg.update

theorem PackageInv.unmask (h : PackageInv s) {off} : PackageInv (s.unmask off) := .ite h.setFront.emit h

theorem PackageInv.countObjects (h : PackageInv s) {l} : PackageInv (s.countObjects l) := by
  unfold State.countObjects
  refine h.foldl fun s x h => ?_
  split
  · exact h
  · split
    · exact .ite h h.hubAdd64
    · exact h

theorem PackageInv.dropHead (h : PackageInv s) {lid} : PackageInv (s.dropHead lid) := h.setFront

theorem PackageInv.unserve (h : PackageInv s) {part} : PackageInv (s.unserve part) := h.setFront

theorem PackageInv.dropDoomed (h : PackageInv s) : PackageInv s.dropDoomed := h.update

theorem PackageInv.releaseLaunch (h : PackageInv s) {lid} : PackageInv (s.releaseLaunch lid) := by
  unfold State.releaseLaunch
  exact h.foldl fun _ _ h => h.updCore

theorem PackageInv.wakeAll (h : PackageInv s) {w} : PackageInv (s.wakeAll w) := h.update

theorem PackageInv.completeLaunch (h : PackageInv s) {lid outcome reject cause addr} :
    PackageInv (s.completeLaunch lid outcome reject cause addr) := by
  unfold State.completeLaunch
  extract_lets l written counted released dropped freed
  have hw : PackageInv written := by
    unfold written
    split
    · exact (h.hubWriteD.ite_then (·.doneUndef)).ite_else (·.hubAdd64)
    · exact h
  have hd : PackageInv dropped := hw.countObjects.releaseLaunch.dropHead
  have hf : PackageInv freed := by
    unfold freed
    split
    · exact hd.setFront.wakeAll
    · exact hd
  exact hf.update.dropDoomed

theorem PackageInv.rejectLaunch (h : PackageInv s) {lid code cause addr} :
    PackageInv (s.rejectLaunch lid code cause addr) :=
  h.completeLaunch

theorem PackageInv.setPass (h : PackageInv s) {c v} : PackageInv (s.setPass c v) := h.setFront

theorem PackageInv.makeReady (h : PackageInv s) {c lid} : PackageInv (s.makeReady c lid) := by
  unfold State.makeReady
  dsimp only
  refine PackageInv.updLaunch ?_
  split
  · exact .ite h.setPass h
  · exact h

theorem PackageInv.notReady (h : PackageInv s) {c} : PackageInv (s.notReady c) := by
  unfold State.notReady
  split
  · exact h.setFront
  · exact h

theorem PackageInv.readDependence (h : PackageInv s) {c lid} : PackageInv (s.readDependence c lid) := by
  unfold State.readDependence
  dsimp only
  split
  · exact h
  · split
    · exact h.makeReady
    · split
      · exact (h.hubRead.fst ‹_›).rejectLaunch
      · exact .ite (h.hubRead.fst ‹_›).makeReady (h.hubRead.fst ‹_›).notReady

theorem PackageInv.setHead (h : PackageInv s) {slot lid} : PackageInv (s.setHead slot lid) := h.setSlots

theorem PackageInv.checkHead (h : PackageInv s) {c lid} : PackageInv (s.checkHead c lid) := by
  unfold State.checkHead
  extract_lets l filled
  have hf : PackageInv filled := h.foldl fun _ _ h => h.ite_else (·.privFill)
  exact .ite hf.rejectLaunch (.ite hf.rejectLaunch (.ite hf.completeLaunch hf.readDependence))

theorem PackageInv.addLaunch (h : PackageInv s) {l} : PackageInv (s.addLaunch l).1 := h.update

theorem PackageInv.readRecord (h : PackageInv s) {sl d} : PackageInv (s.readRecord sl d).1 := by
  unfold State.readRecord
  split
  · split
    · exact h
    · split
      exact h.hubRead.fst ‹_›
  · split
    · exact h.hubRead.fst ‹_›

theorem PackageInv.leaveStopped (h : PackageInv s) {part c lid} : PackageInv (s.leaveStopped part c lid) := by
  unfold State.leaveStopped
  split
  · dsimp only
    refine .unserve (.notReady (.updLaunch ?_))
    split
    · exact h.haltQueue
    · exact h
  · exact h

theorem PackageInv.cacheImage (h : PackageInv s) {e} : PackageInv (s.cacheImage e) := .ite h.setFront h.update

theorem PackageInv.touchImage (h : PackageInv s) {l cores} : PackageInv (s.touchImage l cores) := h.setFront

theorem PackageInv.bind (h : PackageInv s) {lid} : PackageInv (s.bind lid) := by
  unfold State.bind
  extract_lets l
  split
  · have ht := h.hubRead.fst ‹_›
    extract_lets bs hdr bound bindable
    refine .ite ht.rejectLaunch ?_
    split
    · exact ht.rejectLaunch
    · exact .ite ht.rejectLaunch ht.cacheImage.updLaunch
  · exact (h.hubRead.fst ‹_›).rejectLaunch

theorem PackageInv.patchesOf (h : PackageInv s) {l cores} : PackageInv (s.patchesOf l cores).1 := by
  unfold State.patchesOf
  refine h.foldl_fst fun p x h => ?_
  split <;> exact h.hubRead.fst ‹_›

theorem PackageInv.clearDone (h : PackageInv s) {l} : PackageInv (s.clearDone l) := by
  unfold State.clearDone
  split
  · exact h
  · dsimp only
    exact h.hubWriteD.foldl fun _ _ h => h.hubWriteD

theorem PackageInv.placedClient (h : PackageInv s) {c l} : PackageInv (s.placedClient c l) := by
  unfold State.placedClient
  dsimp only
  split
  · exact h.setPass.setSlots
  · exact h.setPass.setFront

theorem PackageInv.regain (h : PackageInv s) {q} : PackageInv (s.regain q) := by
  unfold State.regain
  split
  · exact h
  · dsimp only
    split
    · exact h.setFront.takeRescan
    · exact h.setFront

theorem PackageInv.nodeEntry (h : PackageInv s) {part graph n} : PackageInv (s.nodeEntry part graph n).1 := by
  unfold State.nodeEntry
  split
  · split
    · exact h
    · split <;> exact h.hubRead.fst ‹_›
  · exact h

theorem PackageInv.nodeWidth (h : PackageInv s) {part e} : PackageInv (s.nodeWidth part e).1 := by
  unfold State.nodeWidth
  split <;> exact h.hubRead.fst ‹_›

theorem PackageInv.hubWriteC (h : PackageInv s) {part va bs} : PackageInv (s.hubWriteC part va bs) := h.hubWriteOn

/-! ### The functions of `Machine/Partition` -/

theorem PackageInv.applyAnswer (h : PackageInv s) {w ok va} : PackageInv (s.applyAnswer w ok va) := by
  unfold State.applyAnswer
  split
  · split
    · split
      · exact .ite h h.disposeTrap
      · exact h
    · exact h
  · dsimp only
    split
    · exact .ite h (.ite h.wake h.stopLaunch)
    · exact h
  · split
    · exact .ite h (.ite h.updCore h.failCopy)
    · exact h
  · exact h

theorem PackageInv.setPstat (h : PackageInv s) {n state result busy} : PackageInv (s.setPstat n state result busy) :=
  h.setReg

theorem PackageInv.setResult (h : PackageInv s) {n result} : PackageInv (s.setResult n result) := h.setPstat

theorem PackageInv.setPMap (h : PackageInv s) {n v} : PackageInv (s.setPMap n v) := h.setReg

theorem PackageInv.updPart (h : PackageInv s) {n f} : PackageInv (s.updPart n f) := h.update

theorem PackageInv.haltPart (h : PackageInv s) {n} : PackageInv (s.haltPart n) := by
  unfold State.haltPart
  split
  · dsimp only
    exact (h.setPstat.foldl fun _ _ h => h.renewElig.updCore).updPart
  · exact h.setResult

theorem PackageInv.pcmd (h : PackageInv s) {n states f} (hf : ∀ s, PackageInv s → PackageInv (f s)) :
    PackageInv (s.pcmd n states f) := .ite h (.ite (hf s h) h.setResult)

theorem PackageInv.coreHalted (h : PackageInv s) {c} : PackageInv (s.coreHalted c) := h.updCore.update

theorem PackageInv.mapAgents (h : PackageInv s) {f} : PackageInv (s.mapAgents f) := h.update

theorem PackageInv.writeImage (h : PackageInv s) {area} : PackageInv (s.writeImage area) := by
  unfold State.writeImage
  refine h.foldl fun s x h => ?_
  dsimp only
  split
  · exact h.devWrite.spoilImages
  · exact h.hubPut
  · exact h

theorem PackageInv.renameShadow (h : PackageInv s) {f} : PackageInv (s.renameShadow f) := h.update

theorem PackageInv.moveNames (h : PackageInv s) {n plan} : PackageInv (s.moveNames n plan) := h.renameShadow.update

theorem PackageInv.discardLaunch (h : PackageInv s) {ks lid} : PackageInv (s.discardLaunch ks lid) :=
  h.stopLaunch.updLaunch.completeLaunch

/-! ### The functions of `Machine/System` -/

theorem PackageInv.tretAsk (h : PackageInv s) {e} : PackageInv (tretAsk s e).1 := h.askLane

theorem PackageInv.tretRead (h : PackageInv s) {e} : PackageInv (s.tretRead e).1 := by
  unfold State.tretRead
  split
  · exact h
  · split <;> exact (h.found fun _ h => h.tretAsk).fst ‹_›

theorem PackageInv.tretFrames (h : PackageInv s) {es} : PackageInv (tretFrames es s).1 := by
  unfold Machine.tretFrames
  refine h.foldl_fst fun p x h => ?_
  split
  · exact h.tretRead.fst ‹_›

theorem PackageInv.tretLane (h : PackageInv s) {r e ws} : PackageInv (s.tretLane r e ws) := .ite h.updCore h.trapReturn

/-- A write of MIGTHRESH, QIDLE or WGTIMER outside its range fails (R209). -/
theorem PackageInv.sysWrite (h : PackageInv s) {lid n v} (e : s.sysWrite lid n v = .ok t) : PackageInv t := by
  have ⟨hmem, hmig, hmig', hidle, hidle', htimer⟩ := h
  unfold State.sysWrite at e
  dsimp only at e
  split at e
  · split at e <;> cases e
    exact h.updLaunch
  · split at e <;> cases e
    exact h.updLaunch
  · cases e
    exact h.updLaunch
  · cases e
    exact h.updLaunch
  · cases e
    exact h.updLaunch
  · split at e <;> cases e
    exact ⟨hmem, ‹_ ∧ _›.1, ‹_ ∧ _›.2, hidle, hidle', htimer⟩
  · split at e <;> cases e
    exact ⟨hmem, hmig, hmig', ‹_ ∧ _›.1, ‹_ ∧ _›.2, htimer⟩
  · split at e <;> cases e
    exact ⟨hmem, hmig, hmig', hidle, hidle', ‹_ ∧ _›⟩
  all_goals cases e

theorem PackageInv.cctlPlaces (h : PackageInv s) {o es} : PackageInv (s.cctlPlaces o es).1 := by
  unfold State.cctlPlaces
  refine h.foldl_fst fun p x h => ?_
  split <;> exact h.xlate.fst ‹_›

theorem PackageInv.haltName (h : PackageInv s) {r p} : PackageInv (s.haltName r p) := .ite h h.haltPart.updAgent

/-! ### The functions of `Machine/Fabric` -/

theorem PackageInv.setFab (h : PackageInv s) {f} : PackageInv (s.setFab f) := h.update

theorem PackageInv.reply (h : PackageInv s) {r a} : PackageInv (s.reply r a) := h.emit

theorem PackageInv.homeFault (h : PackageInv s) {n r} : PackageInv (s.homeFault n r) := by
  unfold State.homeFault
  dsimp only
  split <;> exact (h.fqRecord.fst ‹_›).reply

theorem PackageInv.outsideWrite (h : PackageInv s) {pa mask who bs} : PackageInv (s.outsideWrite pa mask who bs) := by
  unfold State.outsideWrite
  dsimp only
  split
  · exact h.partLog.approach.devWrite.wrote
  · exact h.foldl fun _ _ h => .ite h.partLog.approach.devWrite.wrote h

theorem PackageInv.homeAccess (h : PackageInv s) {r pa} : PackageInv (s.homeAccess r pa) := by
  unfold State.homeAccess
  dsimp only
  split
  · exact .ite h.approach.reply (h.approach.outsideWrite.ite_else (·.shadowClear)).reply
  · exact (h.approach.outsideWrite.ite_else (·.shadowClear)).reply
  · exact .ite h.approach.reply h.approach.reply

theorem PackageInv.counted (h : PackageInv s) {n r e level} : PackageInv (s.counted n r e level) := .ite h.setFab h

theorem PackageInv.homeServe (h : PackageInv s) {r} : PackageInv (s.homeServe r) := by
  unfold State.homeServe
  split
  · exact h.reply
  · dsimp only
    split
    · exact h.setFab
    · split
      · exact (h.leaf.fst ‹_›).homeFault
      · split
        · exact (h.leaf.fst ‹_›).emit
        · split
          · exact .ite (h.leaf.fst ‹_›).setFab (h.leaf.fst ‹_›).homeAccess.counted
          · exact (h.leaf.fst ‹_›).reply.counted
          · exact (h.leaf.fst ‹_›).homeFault

theorem PackageInv.homeTake (h : PackageInv s) {r} : PackageInv (s.homeTake r) := h.setFab.homeServe

theorem PackageInv.homeEarly (h : PackageInv s) {fuel} : PackageInv (State.homeEarly fuel s) := by
  induction fuel generalizing s with
  | zero => exact h
  | succ fuel ih =>
    unfold State.homeEarly
    split
    · exact ih h.setFab.homeTake
    · exact h

theorem PackageInv.serveWaiting (h : PackageInv s) : PackageInv s.serveWaiting := by
  unfold State.serveWaiting
  dsimp only
  exact h.setFab.foldl fun _ _ h => h.homeServe

theorem PackageInv.endRemote (h : PackageInv s) {idx r} : PackageInv (s.endRemote idx r) := by
  unfold State.endRemote
  dsimp only
  split
  · exact h.setFab
  · split
    · exact .ite h.setFab.wake h.setFab
    · exact h.setFab

theorem PackageInv.dropSectors (h : PackageInv s) {c key n} : PackageInv (s.dropSectors c key n) := h.setFab.l1Drop

theorem PackageInv.farFill (h : PackageInv s) {idx r bs} : PackageInv (s.farFill idx r bs) :=
  .ite (.ite (h.dropSectors.setFab.ite_then (·.updCore)) h.dropSectors) h

theorem PackageInv.overtaken (h : PackageInv s) {key n} : PackageInv (s.overtaken key n) := h.unkeep

theorem PackageInv.storeAccepted (h : PackageInv s) {r bs} : PackageInv (s.storeAccepted r bs) :=
  h.setFab.overtaken.updCore.ite_then (·.releaseNow)

theorem PackageInv.homeNotice (h : PackageInv s) {r} : PackageInv (s.homeNotice r) := by
  unfold State.homeNotice
  split
  · exact h
  · dsimp only
    exact h.fqRecord.setFab

theorem PackageInv.failLane (h : PackageInv s) {idx r cause} : PackageInv (s.failLane idx r cause) := by
  unfold State.failLane
  dsimp only
  split
  · exact h.deliver.endRemote
  · exact .ite (h.deliver.endRemote.ite_then (·.ueLane)).shepTrap
      (.ite (h.deliver.endRemote.ite_then (·.ueLane)).updAgent (h.deliver.endRemote.ite_then (·.ueLane)).parkLanes)

theorem PackageInv.fetched (h : PackageInv s) {idx r e} : PackageInv (s.fetched idx r e) := h.updAgent.endRemote

theorem PackageInv.framed (h : PackageInv s) {idx r cause} : PackageInv (s.framed idx r cause) := by
  unfold State.framed
  dsimp only
  split
  · split
    · exact h.endRemote.stopEntry
    · exact h.endRemote.beginHandler
  · exact h.endRemote

theorem PackageInv.elemCame (h : PackageInv s) {idx r strm i index e} :
    PackageInv (s.elemCame idx r strm i index e) := by
  unfold State.elemCame
  dsimp only
  refine PackageInv.wakeStream ?_
  split
  · exact h.endRemote.fetchFrom
  · exact h.endRemote.putElem

theorem PackageInv.failParked (h : PackageInv s) {idx r cause} : PackageInv (s.failParked idx r cause) := by
  unfold State.failParked
  dsimp only
  split
  · split
    · exact (PackageInv.ite h.endRemote.ueRead h.endRemote).disposeTrap
    · exact h.endRemote
  · exact h.endRemote

theorem PackageInv.againParked (h : PackageInv s) {idx r} : PackageInv (s.againParked idx r) := by
  unfold State.againParked
  dsimp only
  split
  · exact h.endRemote.fileResume
  · exact h.endRemote

theorem PackageInv.failRemote (h : PackageInv s) {idx r cause} : PackageInv (s.failRemote idx r cause) := by
  unfold State.failRemote
  extract_lets dropped quiet told
  have ht : PackageInv told := h.setFab.ite_then (·.homeNotice)
  refine .ite ht.failParked ?_
  split
  · exact ht
  · exact ht.fetched
  · exact ht.framed
  · exact ht.elemCame
  · exact ht.failLane

theorem PackageInv.dataCame (h : PackageInv s) {idx r bs} : PackageInv (s.dataCame idx r bs) := by
  unfold State.dataCame
  extract_lets who acq give
  have hacq : ∀ {s}, PackageInv s → PackageInv (acq s) := fun h => h.ite_then (·.acquire)
  have hgive : ∀ {s ws}, PackageInv s → PackageInv (give s ws) := fun h =>
    .ite h.endRemote.finishParked h.deliver.endRemote
  split
  · exact hgive (hacq h).farFill
  · exact h.farFill.endRemote
  · exact hgive (hacq (h.dropSectors.overtaken.updCore.ite_then (·.releaseNow)))
  · exact .ite h.farFill.againParked h.farFill.fetched
  · exact h.farFill.elemCame
  · exact h

theorem PackageInv.resend (h : PackageInv s) {idx r} : PackageInv (s.resend idx r) := by
  unfold State.resend
  split
  · exact (h.sendPackets.fst ‹_›).setFab

theorem PackageInv.sendAgain (h : PackageInv s) {idx r} : PackageInv (s.sendAgain idx r) := by
  unfold State.sendAgain
  exact h.setFab.foldl fun _ _ h => h.emit

theorem PackageInv.nowPending (h : PackageInv s) {idx r} : PackageInv (s.nowPending idx r) := by
  unfold State.nowPending
  split
  · exact h.endRemote
  · exact h.setFab.parkPending

theorem PackageInv.setRate (h : PackageInv s) {pkg r} : PackageInv (s.setRate pkg r) := h.setFab

theorem PackageInv.moveRecord (h : PackageInv s) {part va who frame} : PackageInv (s.moveRecord part va who frame) :=
  h.fqRecord

theorem PackageInv.dropMove (h : PackageInv s) {m} : PackageInv (s.dropMove m) := h.setFab

theorem PackageInv.takeFrame (h : PackageInv s) {n} (e : s.takeFrame = some (t, n)) : PackageInv t := by
  unfold State.takeFrame at e
  dsimp only at e
  split at e
  · cases e
  · split at e
    · cases e
      exact h.setReg
    · cases e

theorem PackageInv.giveFrame (h : PackageInv s) {frame} : PackageInv (s.giveFrame frame) :=
  (h.getD fun _ e => h.privWrite e).setReg

theorem PackageInv.sendPage (h : PackageInv s) {m va} : PackageInv (s.sendPage m va) := by
  unfold State.sendPage
  split
  · split
    · dsimp only
      exact (h.approach.foldl fun _ _ h => h.emit).setFab
    · exact h.dropMove.serveWaiting
  · exact h.dropMove.serveWaiting

theorem PackageInv.pageGone (h : PackageInv s) {m va} : PackageInv (s.pageGone m va) := by
  unfold State.pageGone
  dsimp only
  split
  · exact .ite h.dropMove.devWrite.invalidate.setFab.moveRecord.serveWaiting h.dropMove.serveWaiting
  · exact h.dropMove.serveWaiting

theorem PackageInv.receivePage (h : PackageInv s) {m frame va} : PackageInv (s.receivePage m frame va) := by
  unfold State.receivePage
  dsimp only
  split
  · split
    · exact (h.dropMove.foldl fun _ _ h => h.emit).devWrite.devWrite.dropRemotePage.invalidate.moveRecord
    · exact h.dropMove.giveFrame
  · exact h.dropMove.giveFrame

theorem PackageInv.askFrame (h : PackageInv s) {part va pkg granted} : PackageInv (s.askFrame part va pkg granted) :=
  .ite (.ite h.setFab.setFab h.setFab.setFab) (.ite h.setFab.emit h)

theorem PackageInv.grantFrame (h : PackageInv s) {part va} : PackageInv (s.grantFrame part va) := by
  unfold State.grantFrame
  dsimp only
  split
  · split
    · split
      · exact (h.takeFrame ‹_›).setFab.emit
      · exact h.emit
    · exact h
  · exact h

theorem PackageInv.answer (h : PackageInv s) {w ok va} : PackageInv (s.answer w ok va) := by
  unfold State.answer
  split
  · exact .ite h.homeServe h.reply
  · split
    · exact .ite h.applyAnswer h.updPart
    · exact h

theorem PackageInv.answerAll (h : PackageInv s) {r ok} : PackageInv (s.answerAll r ok) := by
  unfold State.answerAll
  exact h.foldl fun _ _ h => h.answer

theorem PackageInv.biasCmd (h : PackageInv s) {toHost} : PackageInv (s.biasCmd toHost) :=
  .ite h (.ite h.setReg h.setReg.setFab)

theorem PackageInv.recallHost (h : PackageInv s) {f n} : PackageInv (s.recallHost f n) := by
  unfold State.recallHost
  refine h.foldl fun s x h => ?_
  dsimp only
  exact h.foldl fun _ _ h => .ite h.devWrite h

theorem PackageInv.inboundFault (h : PackageInv s) {part off va write} :
    PackageInv (s.inboundFault part off va write) :=
  .ite h.fqRecord h.fqRecord.emit

theorem PackageInv.hostAccess (h : PackageInv s) {off pa n va write} : PackageInv (s.hostAccess off pa n va write) := by
  unfold State.hostAccess
  split
  · exact h.outsideWrite.shadowClear
  · exact .ite h.ueLog.emit h.approach.emit

/-! ### The functions of `Machine/Sync` -/

theorem PackageInv.acquireAll (h : PackageInv s) {es scope} : PackageInv (s.acquireAll es scope) := by
  unfold State.acquireAll
  exact h.foldl fun _ _ h => h.acquire

theorem PackageInv.fenceRel (h : PackageInv s) {e scope} : PackageInv (s.fenceRel e scope) :=
  .ite h.releaseNow h.updCore

theorem PackageInv.markQueue (h : PackageInv s) {r} : PackageInv (s.markQueue r) := h.updAgent

/-! ### The functions of `Machine/Matrix` -/

theorem PackageInv.enqueue (h : PackageInv s) {c m lid who lanes bell} :
    PackageInv (s.enqueue c m lid who lanes bell) :=
  h.updCore

theorem PackageInv.putTile (h : PackageInv s) {c lid t ws} : PackageInv (s.putTile c lid t ws) := h.updRes

theorem PackageInv.engineReads (h : PackageInv s) {c lid gs} : PackageInv (s.engineReads c lid gs) := by
  unfold State.engineReads
  exact h.foldl fun _ _ h => h.reach

theorem PackageInv.engineMet (h : PackageInv s) {core q g} : PackageInv (s.engineMet core q g) := h.ueMet.updCore

theorem PackageInv.engError (h : PackageInv s) {c lid e} : PackageInv (s.engError c lid e) := h.updRes

theorem PackageInv.enterWord (h : PackageInv s) {core slot} : PackageInv (s.enterWord core slot) := by
  unfold State.enterWord
  split
  · split
    · exact h
    · dsimp only
      split
      · split
        · exact h.engError.updRes.endCopy.bellCompletion
        · exact h.engError.updRes.endCopy
      · exact h.enqueue.endCopy
  · exact h

/-! ### The functions of `Machine/Errors` -/

theorem PackageInv.setErrs (h : PackageInv s) {f} : PackageInv (s.setErrs f) := h.update

theorem PackageInv.chipOut (h : PackageInv s) {chip unit loc} : PackageInv (s.chipOut chip unit loc) :=
  .ite h.chipLeaves.errLog h

theorem PackageInv.noSpare (h : PackageInv s) {unit loc} : PackageInv (s.noSpare unit loc) :=
  .ite h.setErrs.setErrs (.ite h.setErrs.setErrs.serviceFaulty (.ite h.setErrs.chipOut h.setErrs))

theorem PackageInv.laneRecord (h : PackageInv s) {unit loc} : PackageInv (s.laneRecord unit loc) := h.errLog

theorem PackageInv.spareLoc (h : PackageInv s) {unit loc lasting} : PackageInv (s.spareLoc unit loc lasting) :=
  .ite ((PackageInv.ite h.errLog h).setErrs.ite_then (·.laneRecord)) (PackageInv.ite h.errLog h).noSpare

theorem PackageInv.spare (h : PackageInv s) {unit loc} : PackageInv (s.spare unit loc) :=
  .ite (.ite h.setFab h) (.ite h h.spareLoc)

theorem PackageInv.setCounter (h : PackageInv s) {x} : PackageInv (s.setCounter x) := h.setErrs

theorem PackageInv.countUe (h : PackageInv s) {unit loc} : PackageInv (s.countUe unit loc) :=
  h.closeWindows.setCounter.ite_then (·.spare)

theorem PackageInv.markSector (h : PackageInv s) {sector} : PackageInv (s.markSector sector) := by
  unfold State.markSector
  dsimp only
  exact (h.foldl fun _ _ h => h.takeLates).setErrs.countUe

theorem PackageInv.markAddr (h : PackageInv s) {part va} : PackageInv (s.markAddr part va) := by
  unfold State.markAddr
  split
  · exact h.markSector
  · exact h

theorem PackageInv.dropL1Sector (h : PackageInv s) {c pa dirty} : PackageInv (s.dropL1Sector c pa dirty) := by
  unfold State.dropL1Sector
  dsimp only
  split
  · split
    · exact h
    · exact (h.foldl fun _ _ h => h.perform).updCore.markSector
  · exact h.l1Drop

theorem PackageInv.failWord (h : PackageInv s) {c lid tid g} : PackageInv (s.failWord c lid tid g) := by
  unfold State.failWord
  split
  · dsimp only
    refine PackageInv.countUe ?_
    split
    · exact h.updThread
    · exact h
    · exact h
    · exact h.updRes

theorem PackageInv.failLaneGranule (h : PackageInv s) {r a lane g} : PackageInv (s.failLaneGranule r a lane g) := by
  unfold State.failLaneGranule
  dsimp only
  split
  · split
    · exact h.markSector
    · exact h.trapLanes
  · exact h.updAgent.failWord
  · exact h.failWord

theorem PackageInv.laneDone (h : PackageInv s) {port lane kind left} : PackageInv (s.laneDone port lane kind left) :=
  (PackageInv.ite h.errLog h).setFab.setErrs.laneRecord

theorem PackageInv.portDown (h : PackageInv s) {port} : PackageInv (s.portDown port) := by
  unfold State.portDown
  exact h.foldl fun _ _ h => h.sendAgain

/-! ### The functions of `Machine/Firmware` -/

theorem PackageInv.setFw (h : PackageInv s) {f} : PackageInv (s.setFw f) := h.update

theorem PackageInv.setLead (h : PackageInv s) {up} : PackageInv (s.setLead up) := h.setReg

theorem PackageInv.activate (h : PackageInv s) {live} : PackageInv (s.activate live) :=
  .ite h.setFw.discardImages h.setFw

theorem PackageInv.applyRepair (h : PackageInv s) : PackageInv s.applyRepair := by
  unfold State.applyRepair
  split
  · exact h
  · exact h.setReg.setReg.update

theorem PackageInv.resetPart : PackageInv s.resetPart := Proofs.packageInv_reset.update

theorem PackageInv.perform9 (h : PackageInv s) {c} : PackageInv (s.perform9 c).1 := by
  unfold State.perform9
  split
  · exact h
  · exact h
  · exact h.setFw
  · exact h.activate
  · exact h.setFw
  · exact h.setFw
  · exact h
  · exact .resetPart
  · exact h.emit

theorem PackageInv.completeCmd (h : PackageInv s) {c status res} : PackageInv (s.completeCmd c status res) := by
  unfold State.completeCmd
  dsimp only
  split
  · exact h.setFw.setFw.setReg.msix
  · exact h.setFw.setFw.emit

theorem PackageInv.runJournal (h : PackageInv s) : PackageInv s.runJournal := by
  unfold State.runJournal
  split
  · exact h
  · split
    · exact .ite h.perform9.emit h.perform9
    · split
      · split
        exact (h.perform9.fst ‹_›).completeCmd
      · exact h.completeCmd

theorem PackageInv.boot (h : PackageInv s) : PackageInv s.boot := h.setFw

theorem PackageInv.command (h : PackageInv s) {op m} : PackageInv (s.command op m) := by
  unfold State.command
  dsimp only
  split
  · exact h
  · split
    · exact h.setFw
    · split
      · exact .ite h.runJournal h
      · split
        · exact .ite h.setFw h
        · exact h

theorem PackageInv.tripPart (h : PackageInv s) {event} : PackageInv (s.tripPart event) := h.update.setFw.emit

theorem PackageInv.initGranules (h : PackageInv s) : PackageInv s.initGranules := h.update

/-! ### The functions of `Machine/Loader` -/

theorem PackageInv.startLoader (h : PackageInv s) {cmd} : PackageInv (s.startLoader cmd) := .ite h h.setFront.setReg

theorem PackageInv.dropImage (h : PackageInv s) {n im} : PackageInv (s.dropImage n im) :=
  .ite h.setFront h.setFront.discardImages

/-! ### The functions of `Machine/Shepherd` -/

theorem PackageInv.spawnThread (h : PackageInv s) {c lid tid entry} : PackageInv (s.spawnThread c lid tid entry) :=
  h.setThread.acquireEpoch.leaveBlock

theorem PackageInv.spawnRange (h : PackageInv s) {c t lid a b} : PackageInv (s.spawnRange c t lid a b) := by
  unfold State.spawnRange
  dsimp only
  exact h.released.updRes.foldl fun _ _ h => h.spawnThread

theorem PackageInv.dpopLane (h : PackageInv s) {o e} : PackageInv (dpopLane o s e).1 := by
  unfold Machine.dpopLane
  dsimp only
  split
  · exact h
  · exact h.updRes.acquireEpoch

/-! ### The functions of `Machine/Team` -/

theorem PackageInv.voteTeam (h : PackageInv s) {o r a es} : PackageInv (voteTeam o r a s es).1 := by
  unfold Machine.voteTeam
  dsimp only
  split
  · exact h
  · split
    · exact h
    · dsimp only
      exact h.updRes.foldl fun _ _ h => h.released

/-! ### The functions of `Machine/Work` -/

theorem PackageInv.workAsk (h : PackageInv s) {past n o e} : PackageInv (workAsk past n o s e).1 := by
  unfold Machine.workAsk
  dsimp only
  split
  · split
    · exact (h.xlate.fst ‹_›).l1Drop.askLane
    · exact h.xlate.fst ‹_›
  · exact h.askLane

theorem PackageInv.workRaced (h : PackageInv s) {e a n acq} : PackageInv (s.workRaced e a n acq).1 := by
  unfold State.workRaced
  split
  · exact h
  · split
    · exact (h.xlate.fst ‹_›).raceAt
    · exact h.xlate.fst ‹_›

theorem PackageInv.readV (h : PackageInv s) {o e n past} : PackageInv (s.readV o e n past).1 := by
  unfold State.readV
  dsimp only
  split
  · exact h
  · split <;> exact (h.found fun _ h => h.workAsk).fst ‹_›

theorem PackageInv.handOver (h : PackageInv s) {q i ws} : PackageInv (s.handOver q i ws) := by
  unfold State.handOver
  split
  · exact h.setSlots
  · exact h

theorem PackageInv.enqLane (h : PackageInv s) {o e} : PackageInv (enqLane o s e).1 := by
  unfold Machine.enqLane
  dsimp only
  split
  · exact h.readV.fst ‹_›
  · split
    · exact (h.readV.fst ‹_›).workRaced.fst ‹_›
    · split
      · exact (h.readV.fst ‹_›).workRaced.fst ‹_›
      · split
        · exact ((h.readV.fst ‹_›).workRaced.fst ‹_›).flushLoads.releaseNow.hubWrite.fst ‹_›
        · exact (((h.readV.fst ‹_›).workRaced.fst ‹_›).flushLoads.releaseNow.hubWrite.fst ‹_›).signalStore.ite_then (·.handOver)

/-- The state that REC leaves behind one lane. -/
def recState : RecOut → State
  | .missing s | .full s | .done s => s

theorem PackageInv.rec_ite {c : Prop} [Decidable c] {x y : RecOut} (hx : PackageInv (recState x))
    (hy : PackageInv (recState y)) : PackageInv (recState (if c then x else y)) := by
  split
  · exact hx
  · exact hy

theorem PackageInv.recDone (h : PackageInv s) : PackageInv (recState (.done s)) := h

theorem PackageInv.gatherRec (h : PackageInv s) {part graph n x} :
    PackageInv (recState (s.gatherRec part graph n x)) := by
  unfold State.gatherRec
  split
  · exact h.nodeEntry.fst ‹_›
  · have ht := h.nodeEntry.fst ‹_›
    refine PackageInv.rec_ite ht (PackageInv.setFront (.ite_fst ?_ ?_)).recDone
    · exact ht.nodeWidth
    · exact ht

theorem PackageInv.recLanes (h : PackageInv s) {o es bad ok} : PackageInv (recLanes o es s bad ok).1 := by
  induction es generalizing s bad ok with
  | nil => exact h
  | cons e es ih =>
    have hg := h.gatherRec (part := e.l.part) (graph := e.l.recW 9) (n := (e.a32 o).toNat) (x := (e.b32 o, e.c32 o))
    unfold Machine.recLanes
    split <;> rename_i heq <;> rw [heq] at hg
    · exact ih hg
    · exact hg
    · exact ih hg

theorem PackageInv.cntLane (h : PackageInv s) {o e} : PackageInv (cntLane o s e).1 := by
  unfold Machine.cntLane
  split
  · exact h.readV.fst ‹_›
  · split
    · split <;> exact (h.readV.fst ‹_›).workRaced.fst ‹_›
    · exact h.readV.fst ‹_›

theorem PackageInv.cancelOne (h : PackageInv s) {lid} : PackageInv (s.cancelOne lid) := by
  unfold State.cancelOne
  dsimp only
  split
  · exact (PackageInv.ite h.updLaunch h).cancelLaunch
  · exact h
  · exact .ite h.updLaunch h.completeLaunch

theorem PackageInv.recordAt (h : PackageInv s) {q d i} : PackageInv (s.recordAt q d i).1 := by
  unfold State.recordAt
  dsimp only
  split
  · split
    · exact h
    · split <;> exact h.hubRead.fst ‹_›
  · split <;> exact h.hubRead.fst ‹_›

theorem PackageInv.unreadNamed {s} (h : PackageInv s.1) {id job q} : PackageInv (State.unreadNamed id job s q).1 := by
  unfold State.unreadNamed
  split
  · exact h
  · refine h.foldl_fst fun p x h => ?_
    dsimp only
    split <;> exact h.recordAt.fst ‹_›

theorem PackageInv.batchesNamed (h : PackageInv s) {id job} : PackageInv (s.batchesNamed id job).1 := by
  unfold State.batchesNamed
  refine h.foldl_fst fun p x h => ?_
  split <;> exact h.nodeEntry.fst ‹_›

theorem PackageInv.cancelById (h : PackageInv s) {id job} : PackageInv (s.cancelById id job).1 := by
  unfold State.cancelById
  dsimp only
  split
  · dsimp only
    exact (h.foldl_fst fun _ _ h => h.unreadNamed).batchesNamed
  · dsimp only
    refine PackageInv.foldl ?_ fun s x h => ?_
    · exact (h.foldl_fst fun _ _ h => h.unreadNamed).batchesNamed.setFront
    · exact h.cancelOne

theorem PackageInv.cancelObject (h : PackageInv s) {level id job} : PackageInv (s.cancelObject level id job).1 := by
  unfold State.cancelObject
  split
  · exact h
  · split
    · exact h
    · dsimp only
      split
      · exact ((h.privWrite ‹_›).foldl fun _ _ h => h.cancelOne).setFront
      · exact (h.privWrite ‹_›).foldl fun _ _ h => h.cancelOne

/-! ### The functions of `Machine/Turns` -/

theorem PackageInv.inTurn (h : PackageInv s) {i} (e : s.inTurn i = some t) : PackageInv t := by
  unfold State.inTurn at e
  split at e
  · cases e
    exact h
  · split at e
    · cases e
    · cases e
      exact h.update

/-! ### The functions of `Machine/Step` -/

theorem PackageInv.unblock (h : PackageInv s) : PackageInv s.unblock := h.update

theorem PackageInv.putOff (h : PackageInv s) {r i} : PackageInv (s.putOff r i) := by
  unfold State.putOff
  dsimp only
  refine .update (.waitFor ?_)
  split
  · exact h.latch
  · exact h

theorem PackageInv.afterIssue (h : PackageInv s) (ht : PackageInv t) {r i} : PackageInv (t.afterIssue r i s) :=
  .ite ht.putOff h.update

theorem PackageInv.advance (h : PackageInv s) : PackageInv s.advance := h.update

theorem PackageInv.newCycle (h : PackageInv s) : PackageInv s.newCycle := h.advance.update

end Sys2Proof.Claims
end

section
/-! PROOFS. What the instructions and events do (R12, R209): each goes on to a next state, an instruction
where an agent issues it, and the next state keeps `PackageInv`. -/

namespace Sys2Proof.Claims

open Sys2Proof Sys2Proof.Machine

variable {s t : State}

/-- A step goes on, and keeps the invariant where it held before. -/
def Goes (s : State) (o : Host.Outcome State Fault Refusal) : Prop := ∃ t, o = .next t ∧ (PackageInv s → PackageInv t)

theorem Goes.next (h : PackageInv s → PackageInv t) : Goes s (.next t) := ⟨t, rfl, h⟩

theorem Goes.ite {c : Prop} [Decidable c] {x y} (hx : Goes s x) (hy : Goes s y) : Goes s (if c then x else y) := by
  split
  · exact hx
  · exact hy

/-! ### The instructions and events of `Machine/Flags` -/

theorem Goes.laneOp {r} (hr : s.cur = some r) {o lat k f} : Goes s (laneOp o lat k f s) := by
  unfold Machine.laneOp
  rw [hr]
  exact .next fun h => h.latch.commit

/-! ### The instructions and events of `Machine/Team` -/

theorem Goes.teamOp {r} (hr : s.cur = some r) {o k f} : Goes s (teamOp o k f s) := by
  unfold Machine.teamOp
  rw [hr]
  exact .next fun h => h.latch.commit

/-! ### The instructions and events of `Machine/Flags` -/

theorem Goes.agentOp {r} (hr : s.cur = some r) {f} (hf : ∀ r s, PackageInv s → PackageInv (f r s)) :
    Goes s (agentOp f s) := by
  unfold Machine.agentOp
  rw [hr]
  exact .next (hf r s)

theorem Goes.privileged {r} (hr : s.cur = some r) {f} (hf : Goes s (f s)) : Goes s (privileged f s) := by
  unfold Machine.privileged
  rw [hr]
  exact .ite hf (.next fun h => h.trapLanes)

/-! ### The instructions and events of `Machine/Issue` -/

theorem Goes.heldOp {r} (hr : s.cur = some r) {o hold f} (hf : Goes s (f s)) : Goes s (heldOp o hold f s) := by
  unfold Machine.heldOp
  rw [hr]
  dsimp only
  split
  · exact .next fun h => h.latch.waitStores
  · exact hf

/-! ### The instructions and events of `Machine/Control` -/

theorem Goes.terminator {r} (hr : s.cur = some r) {o f} : Goes s (terminator o f s) := by
  unfold Machine.terminator
  rw [hr]
  exact .next fun h => h.latch.endBlock

/-! ### The instructions and events of `Machine/Bells` -/

theorem Goes.seqOp {r} (hr : s.cur = some r) {o k f} (hf : ∀ s e, PackageInv s → PackageInv (f s e).1) :
    Goes s (seqOp o k f s) := by
  unfold Machine.seqOp
  rw [hr]
  exact .next fun h => (h.latch.foldLanes hf).commit

/-! ### The instructions and events of `Machine/Access` -/

theorem Goes.memOp {r} (hr : s.cur = some r) {o k addr f} (hf : ∀ s e, PackageInv s → PackageInv (f s e).1) :
    Goes s (memOp o k addr f s) := by
  refine Goes.agentOp hr fun r s h => ?_
  dsimp only
  split
  · exact h.latch.waitFor
  · exact (h.latch.foldMem hf).commitAwait.ite_then (·.restFor)

theorem Goes.fetchOp {r} (hr : s.cur = some r) {o path n lanes ask f}
    (ha : ∀ s e, PackageInv s → PackageInv (ask s e).1) (hf : ∀ r s, PackageInv s → PackageInv (f r s)) :
    Goes s (fetchOp o path n lanes ask f s) := by
  refine Goes.agentOp hr fun r s h => ?_
  dsimp only
  split
  · exact ((h.latch.sendFetches ha).fst ‹_›).waitFor
  · exact hf _ _ ((h.latch.sendFetches ha).fst ‹_›)

/-! ### The instructions and events of `Machine/Copy` -/

theorem Goes.copyOp {r} (hr : s.cur = some r) {o ret f} (hf : ∀ o s e, PackageInv s → PackageInv (f o s e).1) :
    Goes s (copyOp o ret f s) := Goes.agentOp hr fun _ _ h => h.latch.copyStart hf

/-! ### The instructions and events of `Machine/System` -/

theorem Goes.cctlOp {r} (hr : s.cur = some r) {o wb f} (hf : ∀ s c part ps, PackageInv s → PackageInv (f s c part ps)) :
    Goes s (cctlOp o wb f s) := by
  refine Goes.agentOp hr fun r s h => ?_
  dsimp only
  split
  · exact h.latch.cctlPlaces.waitStores
  · exact (hf _ _ _ _ h.latch.cctlPlaces).commit

/-- A shepherd's instruction that completes leaves a state of the invariant. -/
def ShepKeeps : ShepOut → Prop
  | .done s _ => PackageInv s
  | _ => True

theorem ShepKeeps.ite {c : Prop} [Decidable c] {x y} (hx : ShepKeeps x) (hy : ShepKeeps y) :
    ShepKeeps (if c then x else y) := by
  split
  · exact hx
  · exact hy

/-! ### The instructions and events of `Machine/Shepherd` -/

theorem Goes.shepOp {r} (hr : s.cur = some r) {o k f} (hf : ∀ s e, PackageInv s → ShepKeeps (f s e)) :
    Goes s (shepOp o k f s) := by
  refine Goes.agentOp hr fun r s h => ?_
  dsimp only
  split
  · next e es _ =>
    have hd := hf _ e (h.latch (r := r) (o := o))
    split
    · exact h.latch.commit
    · exact h.latch.waitFor
    · next heq =>
      rw [heq] at hd
      exact PackageInv.commit hd
  · exact h.latch.commit

/-! ### The instructions and events of `Machine/Control` -/

theorem Goes.execNop {r} (hr : s.cur = some r) {o} : Goes s (execNop o s) := .laneOp hr

theorem Goes.execBlk {r} (hr : s.cur = some r) {ctl live team landing} : Goes s (execBlk ctl live team landing s) :=
  .agentOp hr fun _ _ h => .ite h.updAgent h.endBlock

theorem Goes.execBr {r} (hr : s.cur = some r) {o} : Goes s (execBr o s) := .terminator hr

theorem Goes.execCbr {r} (hr : s.cur = some r) {o} : Goes s (execCbr o s) := .terminator hr

theorem Goes.execIbr {r} (hr : s.cur = some r) {o} : Goes s (execIbr o s) := .terminator hr

theorem Goes.execCall {r} (hr : s.cur = some r) {o} : Goes s (execCall o s) := .terminator hr

theorem Goes.execIcall {r} (hr : s.cur = some r) {o} : Goes s (execIcall o s) := .terminator hr

theorem Goes.execRet {r} (hr : s.cur = some r) {o} : Goes s (execRet o s) := .terminator hr

theorem Goes.execExit {r} (hr : s.cur = some r) {o} : Goes s (execExit o s) := .terminator hr

theorem Goes.execJoin {r} (hr : s.cur = some r) {o} : Goes s (execJoin o s) := .terminator hr

theorem Goes.execYield {r} (hr : s.cur = some r) {o} : Goes s (execYield o s) :=
  .agentOp hr fun _ _ h => .ite h.updAgent h.updAgent.restFor

theorem Goes.execSleep {r} (hr : s.cur = some r) {o} : Goes s (execSleep o s) := by
  unfold Machine.execSleep
  rw [hr]
  dsimp only
  split
  · exact .next fun h => h.latch.waitFor.trapLanes
  · exact .next fun h => (h.latch.foldl fun _ _ h => h.acquireEpoch).commit

theorem Goes.execBkpt {r} (hr : s.cur = some r) {o} : Goes s (execBkpt o s) := .laneOp hr

theorem Goes.execProbe {r} (hr : s.cur = some r) {o} : Goes s (execProbe o s) := by
  unfold Machine.execProbe
  rw [hr]
  dsimp only
  exact .next fun h => (h.foldl fun _ _ h => h.updThread).commit

/-! ### The instructions and events of `Machine/Droves` -/

theorem Goes.execResultLanding {core ag} : Goes s (execResultLanding core ag s) :=
  .next fun h => h.turnOpen fun _ h => h.updAgent

theorem Goes.execDroveFormation {core q} : Goes s (execDroveFormation core q s) := by
  unfold Machine.execDroveFormation
  refine .next fun h => ?_
  refine h.turn fun s h => ?_
  split
  · exact .ite h h.formDrove
  · exact h

theorem Goes.execFoldAgeExpiry {core q fold} : Goes s (execFoldAgeExpiry core q fold s) := by
  unfold Machine.execFoldAgeExpiry
  refine .next fun h => ?_
  split
  · split
    · exact .ite h.setQuad h
    · exact h
  · exact h

theorem Goes.execDroveIssue {core q pipeB} : Goes s (execDroveIssue core q pipeB s) := by
  unfold Machine.execDroveIssue
  refine .next fun h => ?_
  split
  · exact h
  · refine h.turnOpen fun s h => ?_
    dsimp only
    split
    · split
      · exact .ite (h.choose.turn fun _ h => h.updCore.usePipe.grant) h.choose
      · exact h.choose
    · exact h.choose

theorem Goes.execBlockExitFiling {core ag} : Goes s (execBlockExitFiling core ag s) := by
  unfold Machine.execBlockExitFiling
  dsimp only
  refine .next fun h => ?_
  split
  · refine h.turn fun s h => ?_
    split
    · exact h
    · exact (h.updAgent.foldl fun _ _ h => h.fileLane).updAgent.reap
  · exact h

theorem Goes.execLiveInFetch {core ag} : Goes s (execLiveInFetch core ag s) := .next fun h => h.updAgent

theorem Goes.execPenDemandRead {core ag reg} : Goes s (execPenDemandRead core ag reg s) := .next fun h => h.updAgent

theorem Goes.execStrayRefile {core q} : Goes s (execStrayRefile core q s) := by
  unfold Machine.execStrayRefile
  refine .next fun h => ?_
  split
  · exact h
  · refine h.turnOpen fun s h => ?_
    dsimp only
    split
    · split
      · exact h
      · split
        · exact h.refileInto.setQuad
        · split
          · exact h.blkAt.refileInto.setQuad
          · exact h
    · split
      · exact h
      · split
        · exact h.refileInto.setQuad
        · split
          · exact h.blkAt.refileInto.setQuad
          · exact h

theorem Goes.execSpill {core q} : Goes s (execSpill core q s) := by
  unfold Machine.execSpill
  refine .next fun h => ?_
  refine h.turnOpen fun s h => ?_
  dsimp only
  split
  · split
    · exact h.setQuad.foldl fun _ _ h => h.updThread
    · exact h
  · exact h

theorem Goes.execThreadPark {core ag lane} : Goes s (execThreadPark core ag lane s) := by
  unfold Machine.execThreadPark
  dsimp only
  refine .next fun h => ?_
  split
  · split
    · exact h
    · refine h.turnOpen fun s h => ?_
      split
      · exact h.parkPending.ite_else (·.parkLanes)
      · exact h.parkPending
  · exact h

theorem Goes.execFaultResolutionResume {core lid tid} : Goes s (execFaultResolutionResume core lid tid s) := by
  unfold Machine.execFaultResolutionResume
  refine .next fun h => ?_
  split
  · split
    · split
      · split
        · exact h.leaveBlock
        · exact h.fileResume
      · exact h
    · exact h
  · exact h

theorem Goes.execSleepWake {core ag} : Goes s (execSleepWake core ag s) := by
  unfold Machine.execSleepWake
  dsimp only
  refine .next fun h => ?_
  split
  · split
    · exact .ite (h.turn fun _ h => h.updAgent.update) h
    · exact h
  · exact h

theorem Goes.execYieldExpiry {core ag} : Goes s (execYieldExpiry core ag s) := by
  unfold Machine.execYieldExpiry
  dsimp only
  refine .next fun h => ?_
  split
  · split
    · exact h.readyDroves.ite_then (·.wake)
    · exact h
  · exact h

theorem Goes.execTrackerEntryDrained {core idx} : Goes s (execTrackerEntryDrained core idx s) := by
  unfold Machine.execTrackerEntryDrained
  refine .next fun h => ?_
  split
  · exact .ite h h.updCore.tryRetire
  · exact h

theorem Goes.execAccessPerformed {core idx} : Goes s (execAccessPerformed core idx s) := by
  unfold Machine.execAccessPerformed
  refine .next fun h => ?_
  split
  · exact h.turnOpen fun _ h => .ite h.perform h
  · split
    · exact h.turnOpen fun _ h => h.loadPerforms
    · exact h

/-! ### The instructions and events of `Machine/Bells` -/

theorem Goes.execBinit {r} (hr : s.cur = some r) {o} : Goes s (execBinit o s) := by
  unfold Machine.execBinit
  rw [hr]
  dsimp only
  exact .next fun h => (h.latch.foldLanes fun _ _ h => h.binitLane).commit

theorem Goes.execBarv {r} (hr : s.cur = some r) {o} : Goes s (execBarv o s) := by
  unfold Machine.execBarv
  rw [hr]
  dsimp only
  split
  · exact .seqOp hr fun _ _ h => h.barvThen
  · split
    · exact .next fun h => (h.latch.foldl fun _ _ h => h.barvFirst).updAgent.waitFor
    · exact .seqOp hr fun _ _ h => h.barvLane

theorem Goes.execBtest {r} (hr : s.cur = some r) {o} : Goes s (execBtest o s) := .seqOp hr fun _ _ h => h.btestLane

theorem Goes.execBexp {r} (hr : s.cur = some r) {o} : Goes s (execBexp o s) := .seqOp hr fun _ _ h => h.bexpLane

theorem Goes.execBwait {r} (hr : s.cur = some r) {o} : Goes s (execBwait o s) := by
  unfold Machine.execBwait
  rw [hr]
  dsimp only
  split
  · exact .next fun h => (h.latch.foldl fun _ _ h => h.acquireEpoch).commit
  · exact .next fun h => h.latch.updAgent.waitFor.trapLanes

theorem Goes.execChinit {r} (hr : s.cur = some r) {o} : Goes s (execChinit o s) := by
  unfold Machine.execChinit
  rw [hr]
  dsimp only
  exact .next fun h => (h.latch.foldLanes fun _ _ h => h.chinitLane).commit

theorem Goes.execChpush {r} (hr : s.cur = some r) {o} : Goes s (execChpush o s) := by
  unfold Machine.execChpush
  rw [hr]
  dsimp only
  split
  · exact .next fun h => (h.latch.flushLoads.foldLanes fun _ _ h => h.pushHandle.released).commit
  · exact .next fun h => h.latch.waitFor.trapLanes

theorem Goes.execChpop {r} (hr : s.cur = some r) {o} : Goes s (execChpop o s) := by
  unfold Machine.execChpop
  rw [hr]
  dsimp only
  split
  · exact .next fun h => (h.latch.foldLanes fun _ _ h => h.popLane).commit
  · exact .next fun h => h.latch.waitFor.trapLanes

theorem Goes.execChtry {r} (hr : s.cur = some r) {o} : Goes s (execChtry o s) := .seqOp hr fun _ _ h => h.chtryLane

theorem Goes.execChclose {r} (hr : s.cur = some r) {o} : Goes s (execChclose o s) :=
  .seqOp hr fun _ _ h => h.chcloseLane

theorem Goes.execChuteWaitSatisfied {core ag} : Goes s (execChuteWaitSatisfied core ag s) := by
  unfold Machine.execChuteWaitSatisfied
  dsimp only
  refine .next fun h => ?_
  split
  · split
    · exact .ite h h.retry
    · exact h
  · exact h

/-! ### The instructions and events of `Machine/Memory` -/

theorem Goes.execLd {r} (hr : s.cur = some r) {o} : Goes s (execLd o s) := by
  unfold Machine.execLd
  dsimp only
  refine .heldOp hr ?_
  exact .memOp hr fun _ _ h => h.loadV

theorem Goes.execSt {r} (hr : s.cur = some r) {o} : Goes s (execSt o s) := by
  unfold Machine.execSt
  refine .heldOp hr ?_
  exact .memOp hr fun _ _ h => h.storeV

theorem Goes.execLds {r} (hr : s.cur = some r) {o} : Goes s (execLds o s) := by
  unfold Machine.execLds
  dsimp only
  exact .seqOp hr fun _ _ h => h.scrLane fun _ _ _ h => h

theorem Goes.execSts {r} (hr : s.cur = some r) {o} : Goes s (execSts o s) := by
  unfold Machine.execSts
  dsimp only
  refine .heldOp hr ?_
  exact .seqOp hr fun _ _ h => h.scrLane fun _ _ _ h => h.scratchStore

theorem Goes.execLdsx {r} (hr : s.cur = some r) {o} : Goes s (execLdsx o s) :=
  .seqOp hr fun _ _ h => h.tileLane fun _ _ _ h => h

theorem Goes.execStsx {r} (hr : s.cur = some r) {o} : Goes s (execStsx o s) := by
  unfold Machine.execStsx
  refine .heldOp hr ?_
  exact .seqOp hr fun _ _ h => h.tileLane fun _ _ _ h => h.scratchStore

theorem Goes.execLdk {r} (hr : s.cur = some r) {o} : Goes s (execLdk o s) := by
  unfold Machine.execLdk
  dsimp only
  refine .memOp hr fun s x1 h => ?_
  split
  · exact h
  · split
    · exact h
    · exact h.loadV.argUndef

theorem Goes.execPref {r} (hr : s.cur = some r) {o} : Goes s (execPref o s) := by
  unfold Machine.execPref
  refine .agentOp hr fun _ s h => ?_
  dsimp only
  exact (h.latch.foldl fun _ _ h => h.prefetch).commit

theorem Goes.execSpop {r} (hr : s.cur = some r) {o} : Goes s (execSpop o s) := by
  unfold Machine.execSpop
  refine .agentOp hr fun _ s h => ?_
  dsimp only
  split
  · refine .trapLanes (.waitFor ?_)
    refine h.latch.foldl_fst fun p x h => ?_
    split
    · exact h
    · split
      · exact (h.popStream.fst ‹_›).updAgent
      · exact h.popStream.fst ‹_›
      · exact (h.popStream.fst ‹_›).ueMet
      · exact h.popStream.fst ‹_›
  · refine PackageInv.commit ?_
    refine h.latch.foldl_fst fun p x h => ?_
    split
    · exact h
    · split
      · exact (h.popStream.fst ‹_›).updAgent
      · exact h.popStream.fst ‹_›
      · exact (h.popStream.fst ‹_›).ueMet
      · exact h.popStream.fst ‹_›

theorem Goes.execStreamFetch {core lid strm} : Goes s (execStreamFetch core lid strm s) := by
  unfold Machine.execStreamFetch
  dsimp only
  exact .next fun h => .ite h h.fetchElem.setStream.wakeStream

theorem Goes.streamOp {r} (hr : s.cur = some r) {o idx} : Goes s (streamOp o idx s) := by
  unfold Machine.streamOp
  refine .fetchOp hr (fun _ _ h => h.descAsk) (fun _ s h => ?_)
  split
  · exact ((h.foldLanes fun _ _ h => h.openStream).fst ‹_›).commit

theorem Goes.execStrm {r} (hr : s.cur = some r) {o} : Goes s (execStrm o s) := .streamOp hr

theorem Goes.execStrmx {r} (hr : s.cur = some r) {o} : Goes s (execStrmx o s) := .streamOp hr

/-! ### The instructions and events of `Machine/Atomic` -/

theorem Goes.atomInstr {r} (hr : s.cur = some r) {o op ret} : Goes s (atomInstr o op ret s) := by
  unfold Machine.atomInstr
  dsimp only
  refine .heldOp hr ?_
  exact .memOp hr fun _ _ h => h.atomV

theorem Goes.execAtom {r} (hr : s.cur = some r) {o} : Goes s (execAtom o s) := .atomInstr hr

theorem Goes.execAtomc {r} (hr : s.cur = some r) {o} : Goes s (execAtomc o s) := .atomInstr hr

theorem Goes.execRed {r} (hr : s.cur = some r) {o} : Goes s (execRed o s) := .atomInstr hr

theorem Goes.execAtoms {r} (hr : s.cur = some r) {o} : Goes s (execAtoms o s) := by
  unfold Machine.execAtoms
  refine .heldOp hr ?_
  exact .seqOp hr fun _ _ h => h.scrAtomLane

theorem Goes.execAtomsc {r} (hr : s.cur = some r) {o} : Goes s (execAtomsc o s) := by
  unfold Machine.execAtomsc
  refine .heldOp hr ?_
  exact .seqOp hr fun _ _ h => h.scrAtomLane

theorem Goes.execReds {r} (hr : s.cur = some r) {o} : Goes s (execReds o s) := by
  unfold Machine.execReds
  refine .heldOp hr ?_
  exact .seqOp hr fun _ _ h => h.scrAtomLane

theorem Goes.execColl {r} (hr : s.cur = some r) {o} : Goes s (execColl o s) := by
  unfold Machine.execColl
  refine .fetchOp hr (fun _ _ h => h.collAsk) (fun _ s h => ?_)
  split
  · exact ((h.foldMem fun _ _ h => h.collLane).fst ‹_›).commitAwait

theorem Goes.execCollectiveDone {idx others mismatch} : Goes s (execCollectiveDone idx others mismatch s) := by
  unfold Machine.execCollectiveDone
  refine .next fun h => ?_
  split
  · exact (h.update.deliver.ite_else (·.writeF)).mergeFlags.addF.released
  · exact h

/-! ### The instructions and events of `Machine/Bits` -/

theorem Goes.bitOp {r} (hr : s.cur = some r) {o f} : Goes s (bitOp o f s) := .laneOp hr

theorem Goes.execAnd {r} (hr : s.cur = some r) {o} : Goes s (execAnd o s) := .bitOp hr

theorem Goes.execOr {r} (hr : s.cur = some r) {o} : Goes s (execOr o s) := .bitOp hr

theorem Goes.execXor {r} (hr : s.cur = some r) {o} : Goes s (execXor o s) := .bitOp hr

theorem Goes.execAndn {r} (hr : s.cur = some r) {o} : Goes s (execAndn o s) := .bitOp hr

theorem Goes.execShl {r} (hr : s.cur = some r) {o} : Goes s (execShl o s) := .bitOp hr

theorem Goes.execShr {r} (hr : s.cur = some r) {o} : Goes s (execShr o s) := .bitOp hr

theorem Goes.execShra {r} (hr : s.cur = some r) {o} : Goes s (execShra o s) := .bitOp hr

theorem Goes.execRotl {r} (hr : s.cur = some r) {o} : Goes s (execRotl o s) := .bitOp hr

theorem Goes.execBfx {r} (hr : s.cur = some r) {o} : Goes s (execBfx o s) := .bitOp hr

theorem Goes.execBfi {r} (hr : s.cur = some r) {o} : Goes s (execBfi o s) := .bitOp hr

theorem Goes.execPopc {r} (hr : s.cur = some r) {o} : Goes s (execPopc o s) := .bitOp hr

theorem Goes.execClz {r} (hr : s.cur = some r) {o} : Goes s (execClz o s) := .bitOp hr

theorem Goes.execBrev {r} (hr : s.cur = some r) {o} : Goes s (execBrev o s) := .bitOp hr

theorem Goes.execLut3 {r} (hr : s.cur = some r) {o} : Goes s (execLut3 o s) := .bitOp hr

theorem Goes.execBperm {r} (hr : s.cur = some r) {o} : Goes s (execBperm o s) := .bitOp hr

theorem Goes.execFns {r} (hr : s.cur = some r) {o} : Goes s (execFns o s) := .bitOp hr

/-! ### The instructions and events of `Machine/Compare` -/

theorem Goes.execIcmp {r} (hr : s.cur = some r) {o} : Goes s (execIcmp o s) := .laneOp hr

theorem Goes.execFcmp {r} (hr : s.cur = some r) {o} : Goes s (execFcmp o s) := .laneOp hr

theorem Goes.execCmp64 {r} (hr : s.cur = some r) {o} : Goes s (execCmp64 o s) := .laneOp hr

theorem Goes.execSel {r} (hr : s.cur = some r) {o} : Goes s (execSel o s) := .laneOp hr

theorem Goes.execMov {r} (hr : s.cur = some r) {o} : Goes s (execMov o s) := .laneOp hr

theorem Goes.execMovi {r} (hr : s.cur = some r) {o} : Goes s (execMovi o s) := .laneOp hr

theorem Goes.execMov64 {r} (hr : s.cur = some r) {o} : Goes s (execMov64 o s) := .laneOp hr

theorem Goes.execPset {r} (hr : s.cur = some r) {o} : Goes s (execPset o s) := .laneOp hr

theorem Goes.execPmov {r} (hr : s.cur = some r) {o} : Goes s (execPmov o s) := .laneOp hr

theorem Goes.execSread {r} (hr : s.cur = some r) {o} : Goes s (execSread o s) := .laneOp hr

theorem Goes.execAdd64 {r} (hr : s.cur = some r) {o} : Goes s (execAdd64 o s) := .laneOp hr

theorem Goes.execSub64 {r} (hr : s.cur = some r) {o} : Goes s (execSub64 o s) := .laneOp hr

theorem Goes.execShl64 {r} (hr : s.cur = some r) {o} : Goes s (execShl64 o s) := .laneOp hr

/-! ### The instructions and events of `Machine/Fp` -/

theorem Goes.fpOp {r} (hr : s.cur = some r) {o lat f} : Goes s (fpOp o lat f s) := .laneOp hr

theorem Goes.execFadd {r} (hr : s.cur = some r) {o} : Goes s (execFadd o s) := .fpOp hr

theorem Goes.execFsub {r} (hr : s.cur = some r) {o} : Goes s (execFsub o s) := .fpOp hr

theorem Goes.execFmul {r} (hr : s.cur = some r) {o} : Goes s (execFmul o s) := .fpOp hr

theorem Goes.execFfma {r} (hr : s.cur = some r) {o} : Goes s (execFfma o s) := .fpOp hr

theorem Goes.execFmin {r} (hr : s.cur = some r) {o} : Goes s (execFmin o s) := .fpOp hr

theorem Goes.execFmax {r} (hr : s.cur = some r) {o} : Goes s (execFmax o s) := .fpOp hr

theorem Goes.execFrcp {r} (hr : s.cur = some r) {o} : Goes s (execFrcp o s) := .fpOp hr

theorem Goes.execFrsq {r} (hr : s.cur = some r) {o} : Goes s (execFrsq o s) := .fpOp hr

theorem Goes.execFsqrt {r} (hr : s.cur = some r) {o} : Goes s (execFsqrt o s) := .fpOp hr

theorem Goes.execFex2 {r} (hr : s.cur = some r) {o} : Goes s (execFex2 o s) := .fpOp hr

theorem Goes.execFlg2 {r} (hr : s.cur = some r) {o} : Goes s (execFlg2 o s) := .fpOp hr

theorem Goes.execFsin {r} (hr : s.cur = some r) {o} : Goes s (execFsin o s) := .fpOp hr

theorem Goes.execFcos {r} (hr : s.cur = some r) {o} : Goes s (execFcos o s) := .fpOp hr

theorem Goes.execFrnd {r} (hr : s.cur = some r) {o} : Goes s (execFrnd o s) := .fpOp hr

theorem Goes.execFclass {r} (hr : s.cur = some r) {o} : Goes s (execFclass o s) := .fpOp hr

theorem Goes.execFscale {r} (hr : s.cur = some r) {o} : Goes s (execFscale o s) := .fpOp hr

theorem Goes.execFdiv {r} (hr : s.cur = some r) {o} : Goes s (execFdiv o s) := .laneOp hr

/-! ### The instructions and events of `Machine/Narrow` -/

theorem Goes.execCvt {r} (hr : s.cur = some r) {o} : Goes s (execCvt o s) := .laneOp hr

theorem Goes.pkOp {r} (hr : s.cur = some r) {o f} : Goes s (pkOp o f s) := by
  unfold Machine.pkOp
  dsimp only
  exact .laneOp hr

theorem Goes.execPkadd {r} (hr : s.cur = some r) {o} : Goes s (execPkadd o s) := .pkOp hr

theorem Goes.execPkmul {r} (hr : s.cur = some r) {o} : Goes s (execPkmul o s) := .pkOp hr

theorem Goes.execPkfma {r} (hr : s.cur = some r) {o} : Goes s (execPkfma o s) := .pkOp hr

theorem Goes.execPkmin {r} (hr : s.cur = some r) {o} : Goes s (execPkmin o s) := .pkOp hr

theorem Goes.execPkmax {r} (hr : s.cur = some r) {o} : Goes s (execPkmax o s) := .pkOp hr

theorem Goes.dotOp {r} (hr : s.cur = some r) {o n} : Goes s (dotOp o n s) := by
  unfold Machine.dotOp
  dsimp only
  exact .laneOp hr

theorem Goes.execDot4 {r} (hr : s.cur = some r) {o} : Goes s (execDot4 o s) := .dotOp hr

theorem Goes.execDot8 {r} (hr : s.cur = some r) {o} : Goes s (execDot8 o s) := .dotOp hr

theorem Goes.execTdot {r} (hr : s.cur = some r) {o} : Goes s (execTdot o s) := by
  unfold Machine.execTdot
  dsimp only
  exact .laneOp hr

theorem Goes.execLnsm {r} (hr : s.cur = some r) {o} : Goes s (execLnsm o s) := by
  unfold Machine.execLnsm
  dsimp only
  exact .pkOp hr

theorem Goes.execLnsa {r} (hr : s.cur = some r) {o} : Goes s (execLnsa o s) := .pkOp hr

theorem Goes.execRngk {r} (hr : s.cur = some r) {o} : Goes s (execRngk o s) := .laneOp hr

theorem Goes.execCvtd {r} (hr : s.cur = some r) {o} : Goes s (execCvtd o s) := .laneOp hr

theorem Goes.execCvtb {r} (hr : s.cur = some r) {o} : Goes s (execCvtb o s) := by
  unfold Machine.execCvtb
  refine .agentOp hr fun r s h => ?_
  dsimp only
  have hl := h.latch (r := r) (o := o)
  exact .ite hl.trapWord (.ite (.ite hl.waitFor hl.queueAppends.waitFor)
    (.ite ((PackageInv.ite hl.dropAppends hl).ite_else (·.outOvf)).trapLanes
      (((PackageInv.ite hl.dropAppends hl).ite_else (·.outOvf)).updRes.ite_else (·.raise)).commit))

/-! ### The instructions and events of `Machine/Copy` -/

theorem Goes.layoutOp {r} (hr : s.cur = some r) {kind o} : Goes s (layoutOp kind o s) :=
  .fetchOp hr (fun _ _ h => h.descAsk) fun _ _ h => h.copyStart fun _ _ _ h => h.layoutIssue

theorem Goes.execCpy {r} (hr : s.cur = some r) {o} : Goes s (execCpy o s) := .copyOp hr fun _ _ _ h => h.cpyIssue

theorem Goes.execCpyt {r} (hr : s.cur = some r) {o} : Goes s (execCpyt o s) := .layoutOp hr

theorem Goes.execCpysc {r} (hr : s.cur = some r) {o} : Goes s (execCpysc o s) := .layoutOp hr

theorem Goes.execCpymx {r} (hr : s.cur = some r) {o} : Goes s (execCpymx o s) := .copyOp hr fun _ _ _ h => h.cpymxIssue

theorem Goes.execCpyr {r} (hr : s.cur = some r) {o} : Goes s (execCpyr o s) := .layoutOp hr

theorem Goes.execLdgs {r} (hr : s.cur = some r) {o} : Goes s (execLdgs o s) := .copyOp hr fun _ _ _ h => h.ldgsIssue

theorem Goes.execCopyFault {core slot cause addr} : Goes s (execCopyFault core slot cause addr s) := by
  unfold Machine.execCopyFault
  refine .next fun h => ?_
  split
  · dsimp only
    split
    · exact (h.xlate.fst ‹_›).ite_then (·.failCopy)
    · exact h.xlate.fst ‹_›
  · exact h

/-! ### The instructions and events of `Machine/FrontEnd` -/

theorem Goes.execDoorbellSignal {q w} : Goes s (execDoorbellSignal q w s) := by
  unfold Machine.execDoorbellSignal
  refine .next fun h => ?_
  split
  · exact h
  · dsimp only
    split
    · exact h.setFront.judgeDoorbell
    · split
      · exact .ite h.setFront h.setFront.judgeDoorbell
      · exact h

theorem Goes.execDoorbellLowHalf {q v} : Goes s (execDoorbellLowHalf q v s) := .next fun h => .ite h h.setFront

theorem Goes.execDoorbellLatchExpiry {q} : Goes s (execDoorbellLatchExpiry q s) := by
  unfold Machine.execDoorbellLatchExpiry
  refine .next fun h => ?_
  split
  · exact .ite h.setFront h
  · exact h

theorem Goes.execQueueIdleUnmap {slot} : Goes s (execQueueIdleUnmap slot s) := by
  unfold Machine.execQueueIdleUnmap
  refine .next fun h => ?_
  split
  · exact .ite h.freeSlotOf.takeRescan h
  · exact h

theorem Goes.execHostRegisterWrite {off v} : Goes s (execHostRegisterWrite off v s) := by
  unfold Machine.execHostRegisterWrite
  extract_lets mbBusy u
  refine .next fun h => ?_
  have hu : PackageInv u := h.ite_then (·.closeWindows)
  refine .ite hu (.ite (hu.ite_else (·.update)) (.ite (hu.ite_then (·.mbSubmit)) (.ite hu (.ite hu ?_))))
  split
  · exact hu.setReg.unmask
  · exact hu

theorem Goes.execLaunchRecordRead {slot} : Goes s (execLaunchRecordRead slot s) := by
  unfold Machine.execLaunchRecordRead
  refine .next fun h => ?_
  split
  · exact h
  · split
    · exact h
    · split
      · exact .ite h.setFront.setHead.completeLaunch h.setFront.setHead.readDependence
      · split
        · exact h
        · split
          · exact h.haltQueue
          · split
            · exact h
            · dsimp only
              split
              · exact (h.readRecord.fst ‹_›).qStop
              · exact .ite (h.readRecord.fst ‹_›).qPut.addLaunch.setHead.setFront.completeLaunch
                  (h.readRecord.fst ‹_›).qPut.addLaunch.setHead.checkHead

theorem Goes.execDependenceRead {slot} : Goes s (execDependenceRead slot s) := by
  unfold Machine.execDependenceRead
  refine .next fun h => ?_
  split
  · exact h.readDependence
  · exact h

theorem Goes.execArbiterDecision {part} : Goes s (execArbiterDecision part s) := by
  unfold Machine.execArbiterDecision
  extract_lets u held
  refine .next fun h => ?_
  have hu : PackageInv u := by
    unfold u
    split
    · exact h.leaveStopped
    · exact h
  refine .ite hu ?_
  split
  · exact hu.setFront
  · exact hu.unserve

theorem Goes.execBinding {part} : Goes s (execBinding part s) := by
  unfold Machine.execBinding
  refine .next fun h => ?_
  split
  · exact .ite h.bind h
  · exact h

theorem Goes.execPlacement {part} : Goes s (execPlacement part s) := by
  unfold Machine.execPlacement
  refine .next fun h => ?_
  split
  · dsimp only
    split
    · exact h
    · split
      · exact h.leaveStopped
      · split
        · exact h.updLaunch.leaveStopped
        · split
          · exact (h.hubRead.fst ‹_›).rejectLaunch.unserve
          · refine PackageInv.farClear ?_
            refine PackageInv.foldl ?_ fun s x h => ?_
            · refine .unserve (.placedClient ?_)
              refine PackageInv.foldl ?_ fun s x h => ?_
              · refine .clearDone (.setFront (.updLaunch (.touchImage ?_)))
                refine (h.hubRead.fst ‹_›).foldl_fst fun p x h => ?_
                exact h.patchesOf
              · exact h.updCore
            · exact h.l1Clear
  · exact h

theorem Goes.execLaunchCompletion {lid} : Goes s (execLaunchCompletion lid s) := by
  unfold Machine.execLaunchCompletion
  refine .next fun h => ?_
  split
  · split
    · exact h
    · extract_lets merged
      have hm : PackageInv merged := h.foldl fun _ _ h => h.mergeFlags
      split
      extract_lets ended l overflow rebound again outcome
      refine .ite ?_ hm.updLaunch.completeLaunch
      split
      · exact hm.updLaunch.releaseLaunch.updLaunch.dropDoomed.setFront.regain
      · exact hm.updLaunch.releaseLaunch.updLaunch
  · exact h

theorem Goes.execFlagMergeToHub {core lid} : Goes s (execFlagMergeToHub core lid s) := .next fun h => h.mergeFlags

theorem Goes.execEnablePropagation {core lid} : Goes s (execEnablePropagation core lid s) :=
  .next fun h => .ite h.updRes h

theorem Goes.execBatchTimerExpiry {graph node} : Goes s (execBatchTimerExpiry graph node s) := .next fun h => h.setFront

theorem Goes.execBatchLaunch {graph node} : Goes s (execBatchLaunch graph node s) := by
  unfold Machine.execBatchLaunch
  dsimp only
  refine .next fun h => ?_
  split
  · exact h
  · split
    · exact h
    · split
      · exact h
      · split
        · split
          · refine .completeLaunch (.setFront (.addLaunch ?_))
            refine PackageInv.foldl ?_ fun s x h => ?_
            · refine PackageInv.hubWriteC ?_
              split <;> exact (h.nodeEntry.fst ‹_›).hubRead.fst ‹_›
            · exact h.hubWriteC
          · refine .checkHead (.setFront (.addLaunch ?_))
            refine PackageInv.foldl ?_ fun s x h => ?_
            · refine PackageInv.hubWriteC ?_
              split <;> exact (h.nodeEntry.fst ‹_›).hubRead.fst ‹_›
            · exact h.hubWriteC
        · exact h.nodeEntry.fst ‹_›

/-! ### The instructions and events of `Machine/Partition` -/

theorem Goes.execPmapWrite {n v} : Goes s (execPmapWrite n v s) := by
  unfold Machine.execPmapWrite
  dsimp only
  exact .next fun h => .ite h (.ite h.setPMap h.setPMap.setPstat)

theorem Goes.execPcmdHalt {n} : Goes s (execPcmdHalt n s) := .next fun h => h.pcmd fun _ h => h.haltPart

theorem Goes.execHaltDone {n} : Goes s (execHaltDone n s) := by
  unfold Machine.execHaltDone
  refine .next fun h => ?_
  split
  · exact h
  · dsimp only
    exact (h.foldl fun _ _ h => h.coreHalted).setPstat.mapAgents

theorem Goes.execCopyHaltTimeout {core slot} : Goes s (execCopyHaltTimeout core slot s) := by
  unfold Machine.execCopyHaltTimeout
  refine .next fun h => ?_
  split
  · exact .ite h.updCore h
  · exact h

theorem Goes.execPcmdSave {n} : Goes s (execPcmdSave n s) :=
  .next fun h => h.pcmd fun _ h => .ite h.setResult h.updPart.setPstat

theorem Goes.execSaveDone {n} : Goes s (execSaveDone n s) := by
  unfold Machine.execSaveDone
  dsimp only
  refine .next fun h => ?_
  split
  · exact h
  · split
    · exact h.updPart.setPstat
    · exact (h.foldl fun _ _ h => h.writeImage).renameShadow.update.updPart.setPMap.setReg.setPstat.serviceFaulty

theorem Goes.execPcmdRestore {n} : Goes s (execPcmdRestore n s) :=
  .next fun h => h.pcmd fun _ h => .ite h.setResult h.setPMap.setPstat

theorem Goes.execRestoreDone {n bad} : Goes s (execRestoreDone n bad s) := by
  unfold Machine.execRestoreDone
  refine .next fun h => ?_
  split
  · exact h
  · dsimp only
    refine PackageInv.foldl ?_ fun s x h => ?_
    · exact (h.foldl fun _ _ h => h.foldl fun _ _ h => h.setCore).moveNames.updPart.setReg.setPstat
    · exact h.stopLaunch

theorem Goes.execPcmdResume {n} : Goes s (execPcmdResume n s) := by
  unfold Machine.execPcmdResume
  refine .next fun h => ?_
  refine h.pcmd fun s h => ?_
  dsimp only
  refine .setPstat (.updPart (.update ?_))
  refine PackageInv.foldl ?_ fun s x h => ?_
  · exact h.foldl fun _ _ h => h.applyAnswer
  · exact h.updCore

theorem Goes.execPcmdDiscard {n} : Goes s (execPcmdDiscard n s) := by
  unfold Machine.execPcmdDiscard
  refine .next fun h => ?_
  refine h.pcmd fun s h => ?_
  dsimp only
  exact (h.foldl fun _ _ h => h.discardLaunch).update.setPMap.setReg.setPstat.serviceFaulty

/-! ### The instructions and events of `Machine/System` -/

theorem Goes.execTrap {r} (hr : s.cur = some r) {o} : Goes s (execTrap o s) := .laneOp hr

theorem Goes.execTret {r} (hr : s.cur = some r) {o} : Goes s (execTret o s) := by
  unfold Machine.execTret
  refine .fetchOp hr (fun _ _ h => h.tretAsk) fun r s h => ?_
  extract_lets es flushed landed
  have hf : PackageInv flushed := h.ite_else (·.flushLoads)
  refine .ite hf.waitFor ?_
  split
  · next u outs he =>
    have hu : PackageInv u := (hf.ite_else (·.updAgent)).tretFrames.fst he
    refine .ite hu.waitFor (.ite hu.waitFor ?_)
    refine (PackageInv.commit (hu.foldl fun s x h => ?_)).reap
    split
    · exact h.tretLane
    · exact h

theorem Goes.execSrd {r} (hr : s.cur = some r) {o} : Goes s (execSrd o s) := .laneOp hr

theorem Goes.execSwr {r} (hr : s.cur = some r) {o} : Goes s (execSwr o s) := by
  unfold Machine.execSwr
  dsimp only
  split
  · refine .privileged hr ?_
    refine .seqOp hr fun s x1 h => ?_
    split
    · exact h.sysWrite ‹_›
    · exact h
  · refine .seqOp hr fun s x1 h => ?_
    split
    · exact h.sysWrite ‹_›
    · exact h

theorem Goes.execCctlWb {r} (hr : s.cur = some r) {o} : Goes s (execCctlWb o s) := .cctlOp hr fun _ _ _ _ h => h

theorem Goes.execCctlInv {r} (hr : s.cur = some r) {o} : Goes s (execCctlInv o s) :=
  .cctlOp hr fun _ _ _ _ h => h.l1Drop

theorem Goes.execCctlFarinv {r} (hr : s.cur = some r) {o} : Goes s (execCctlFarinv o s) :=
  .cctlOp hr fun _ _ _ _ h => h.unkeep.update

theorem Goes.execCctlIcinv {r} (hr : s.cur = some r) {o} : Goes s (execCctlIcinv o s) :=
  .cctlOp hr fun _ _ _ _ h => h.updCore

theorem Goes.execTlbi {r} (hr : s.cur = some r) {o} : Goes s (execTlbi o s) := by
  unfold Machine.execTlbi
  refine .privileged hr ?_
  exact .seqOp hr fun _ _ h => h.invalidate

theorem Goes.execHalt {r} (hr : s.cur = some r) {o} : Goes s (execHalt o s) := by
  unfold Machine.execHalt
  refine .privileged hr ?_
  refine .agentOp hr fun _ s h => ?_
  dsimp only
  split
  · exact (h.latch.foldl fun _ _ h => h.haltName).waitFor.trapLanes
  · exact (h.latch.foldl fun _ _ h => h.haltName).commit

/-! ### The instructions and events of `Machine/Fabric` -/

theorem Goes.execHomeRequest {r} : Goes s (execHomeRequest r s) :=
  .next fun h => .ite h (.ite h.homeTake.homeEarly h.setFab)

theorem Goes.execHomeReply {idx a} : Goes s (execHomeReply idx a s) := by
  unfold Machine.execHomeReply
  refine .next fun h => ?_
  split
  · exact h
  · split
    · exact h.updPart
    · split
      · exact h.dataCame
      · exact .ite h.storeAccepted.endRemote.finishParked h.storeAccepted.deliver.endRemote
      · exact h.storeAccepted.framed
      · exact h
      · exact h.failRemote
      · exact h.nowPending
      · exact h.endRemote
      · exact .ite h.againParked h.resend

theorem Goes.execNotHereReply {idx peer} : Goes s (execNotHereReply idx peer s) := by
  unfold Machine.execNotHereReply
  refine .next fun h => ?_
  split
  · exact h
  · exact .ite (.ite h.wentTo.updPart h.wentTo.failRemote) h.wentTo.resend

theorem Goes.execRequestRetryTimeout {idx} : Goes s (execRequestRetryTimeout idx s) := by
  unfold Machine.execRequestRetryTimeout
  refine .next fun h => ?_
  split
  · exact h
  · exact .ite h (.ite h.failRemote h.sendAgain)

theorem Goes.execCongestionMarkEcho {pkg} : Goes s (execCongestionMarkEcho pkg s) :=
  .next fun h => .ite h.setRate h.setRate

theorem Goes.execRateRecoveryTick {pkg} : Goes s (execRateRecoveryTick pkg s) := by
  unfold Machine.execRateRecoveryTick
  refine .next fun h => ?_
  split
  · exact h
  · exact .ite h h.setRate

theorem Goes.execMigration {part va pkg granted} : Goes s (execMigration part va pkg granted s) := by
  unfold Machine.execMigration
  dsimp only
  refine .next fun h => ?_
  split
  · split
    · exact h
    · split
      · exact h.receivePage
      · exact .ite h.pageGone h.sendPage
  · exact .ite h.grantFrame h.askFrame

theorem Goes.execMigrationAbandon {part va} : Goes s (execMigrationAbandon part va s) := by
  unfold Machine.execMigrationAbandon
  refine .next fun h => ?_
  split
  · split
    · exact h
    · dsimp only
      split
      · exact h.dropMove.giveFrame
      · exact h.dropMove.serveWaiting
  · exact h

theorem Goes.execFqack {v} : Goes s (execFqack v s) := by
  unfold Machine.execFqack
  dsimp only
  refine .next fun h => ?_
  split
  · exact h
  · split
    · exact h
    · exact .ite h.setFq.answerAll h.setFq

theorem Goes.execFaultTimeout {queue slot} : Goes s (execFaultTimeout queue slot s) := by
  unfold Machine.execFaultTimeout
  refine .next fun h => ?_
  split
  · exact h
  · exact .ite h (h.getD fun _ e => h.privWrite e).setFq.answerAll

theorem Goes.execBiascmdToDevice : Goes s (execBiascmdToDevice s) := .next fun h => h.biasCmd

theorem Goes.execBiascmdToHost : Goes s (execBiascmdToHost s) := .next fun h => h.biasCmd

theorem Goes.execBiasChangeDone : Goes s (execBiasChangeDone s) := by
  unfold Machine.execBiasChangeDone
  refine .next fun h => ?_
  split
  · exact h
  · dsimp only
    split
    · exact h
    · refine .serveWaiting (.wakeAll (.setReg (.setFab ?_)))
      split
      · exact h.foldl fun _ _ h => h.l1Drop
      · exact h.recallHost.emit

theorem Goes.execTlbicmd {v} : Goes s (execTlbicmd v s) := .next fun h => .ite h h.setReg.setFab

theorem Goes.execTlbiDone : Goes s (execTlbiDone s) := by
  unfold Machine.execTlbiDone
  refine .next fun h => ?_
  split
  · exact h
  · exact h.invalidate.setReg.setFab

theorem Goes.execInboundAccess {off n write} : Goes s (execInboundAccess off n write s) := by
  unfold Machine.execInboundAccess
  dsimp only
  refine .next fun h => ?_
  split
  · exact h.inboundFault
  · split
    · exact (h.xlate.fst ‹_›).hostAccess
    · exact (h.xlate.fst ‹_›).inboundFault

theorem Goes.execHostMemoryAccess {pa n write} : Goes s (execHostMemoryAccess pa n write s) := by
  unfold Machine.execHostMemoryAccess
  dsimp only
  exact .next fun h => .ite h h.hostAccess

theorem Goes.execCxlCacheSnoop {line} : Goes s (execCxlCacheSnoop line s) := by
  unfold Machine.execCxlCacheSnoop
  dsimp only
  refine .next fun h => ?_
  split
  · exact h
  · exact (h.foldl fun _ _ h => h.l1Drop).setFab

theorem Goes.execConfigurationRequest : Goes s (execConfigurationRequest s) := .next fun h => h.emit

theorem Goes.execContendedMarkExpiry {line} : Goes s (execContendedMarkExpiry line s) := by
  unfold Machine.execContendedMarkExpiry
  refine .next fun h => ?_
  split
  · split
    · exact .ite h.setFab h
    · exact h
  · exact h

/-! ### The instructions and events of `Machine/Sync` -/

theorem Goes.execFence {r} (hr : s.cur = some r) {o} : Goes s (execFence o s) := by
  unfold Machine.execFence
  refine .agentOp hr fun _ s h => ?_
  dsimp only
  refine PackageInv.commit ?_
  split
  · refine PackageInv.acquireAll ?_
    split
    · exact (PackageInv.ite h h.flushLoads).foldl fun _ _ h => h.fenceRel
    · exact .ite h h.flushLoads
  · split
    · exact (PackageInv.ite h h.flushLoads).foldl fun _ _ h => h.fenceRel
    · exact .ite h h.flushLoads

theorem Goes.execXfence {r} (hr : s.cur = some r) {o} : Goes s (execXfence o s) := by
  unfold Machine.execXfence
  refine .agentOp hr fun _ s h => ?_
  dsimp only
  split
  · exact (PackageInv.ite h.markQueue h).commit
  · split
    · split
      · exact h.markQueue.flushLoads.waitStores
      · split
        · exact h.markQueue.flushLoads.waitFor
        · refine PackageInv.commit ?_
          refine PackageInv.foldl ?_ fun s x h => ?_
          · exact (h.markQueue.flushLoads.l1Clear.ite_then (·.farClear)).foldl fun _ _ h => h.joined
          · exact h.acquireEpoch
    · split
      · exact h.flushLoads.waitStores
      · split
        · exact h.flushLoads.waitFor
        · exact ((h.flushLoads.l1Clear.ite_then (·.farClear)).foldl fun _ _ h => h.joined).commit

/-! ### The instructions and events of `Machine/Matrix` -/

theorem Goes.matOp {r} (hr : s.cur = some r) {opc o k} : Goes s (matOp opc o k s) := by
  unfold Machine.matOp
  refine .agentOp hr fun _ s h => ?_
  dsimp only
  split
  · exact h.latchFor.commit
  · split
    · exact h.latchFor.commit
    · exact .ite h.latchFor.waitFor (.ite h.latchFor.enqueue.commit h.latchFor.enqueue.commitAwait)

theorem Goes.execMcfg {r} (hr : s.cur = some r) {o} : Goes s (execMcfg o s) := .matOp hr

theorem Goes.execMma {r} (hr : s.cur = some r) {o} : Goes s (execMma o s) := .matOp hr

theorem Goes.execMmag {r} (hr : s.cur = some r) {o} : Goes s (execMmag o s) := .matOp hr

theorem Goes.execMmas {r} (hr : s.cur = some r) {o} : Goes s (execMmas o s) := .matOp hr

theorem Goes.execMzero {r} (hr : s.cur = some r) {o} : Goes s (execMzero o s) := .matOp hr

theorem Goes.execMload {r} (hr : s.cur = some r) {o} : Goes s (execMload o s) := .matOp hr

theorem Goes.execMloadSc {r} (hr : s.cur = some r) {o} : Goes s (execMloadSc o s) := .matOp hr

theorem Goes.execMstore {r} (hr : s.cur = some r) {o} : Goes s (execMstore o s) := .matOp hr

theorem Goes.execMstatSet {r} (hr : s.cur = some r) {o} : Goes s (execMstatSet o s) := .matOp hr

theorem Goes.execModrain {r} (hr : s.cur = some r) {o} : Goes s (execModrain o s) := .matOp hr

theorem Goes.execMstat {r} (hr : s.cur = some r) {o} : Goes s (execMstat o s) := .laneOp hr

theorem Goes.execMstatSync {r} (hr : s.cur = some r) {o} : Goes s (execMstatSync o s) := by
  unfold Machine.execMstatSync
  refine .agentOp hr fun _ s h => ?_
  dsimp only
  split
  · exact h.markQueue.commit
  · split
    · exact h.markQueue.waitFor
    · split
      · exact h.markQueue.updRes.commit
      · exact (h.markQueue.foldl fun _ _ h => h.acquireEpoch).commit

theorem Goes.execMstatList {r} (hr : s.cur = some r) {o} : Goes s (execMstatList o s) :=
  .agentOp hr fun _ _ h => .ite h.latch.markQueue.commit (.ite h.latch.markQueue.waitFor h.latch.markQueue.commit)

theorem Goes.execGatherRead {core} : Goes s (execGatherRead core s) := by
  unfold Machine.execGatherRead
  refine .next fun h => ?_
  split
  · extract_lets ready g met
    have hmet : PackageInv met := by
      unfold met
      split
      · exact h.ueMet
      · exact h
    exact .ite hmet.engineReads.updCore h
  · exact h

theorem PackageInv.runMultiply (h : PackageInv s) {c q rows sb} : PackageInv (s.runMultiply c q rows sb).s := by
  unfold State.runMultiply
  dsimp only
  exact h.putTile

theorem PackageInv.runMma (h : PackageInv s) {c q} : PackageInv (s.runMma c q).s := by
  unfold State.runMma
  exact h.runMultiply

theorem PackageInv.runMmag (h : PackageInv s) {c q g} : PackageInv (s.runMmag c q g).s := by
  unfold State.runMmag
  dsimp only
  split
  · exact h
  · exact h.runMultiply

theorem PackageInv.runMload (h : PackageInv s) {c q} : PackageInv (s.runMload c q).s := by
  unfold State.runMload
  exact h.putTile

theorem PackageInv.runMloadSc (h : PackageInv s) {c q} : PackageInv (s.runMloadSc c q).s := by
  unfold State.runMloadSc
  exact h.updRes

theorem PackageInv.runMstore (h : PackageInv s) {c q} : PackageInv (s.runMstore c q).s := by
  unfold State.runMstore
  dsimp only
  exact h.foldl fun _ _ h => h.scratchWrite

theorem PackageInv.runMstatSet (h : PackageInv s) {c q} : PackageInv (s.runMstatSet c q).s := by
  unfold State.runMstatSet
  exact h.updLaunch.updRes

theorem PackageInv.runModrain (h : PackageInv s) {c q} : PackageInv (s.runModrain c q).s := by
  unfold State.runModrain
  exact h.scratchWrite.updRes

theorem PackageInv.runMat (h : PackageInv s) {c q d} (e : s.runMat c q = some d) : PackageInv d.s := by
  unfold State.runMat at e
  split at e
  · injection e with e
    exact e ▸ h.updRes
  · split at e
    · split at e
      · injection e with e
        exact e ▸ h.runMmag
      · cases e
    · cases e
  · injection e with e
    rw [← e]
    exact h.putTile
  · injection e with e
    rw [← e]
    split
    · exact h.runMloadSc
    · exact h.runMload
  · injection e with e
    exact e ▸ h.runMstore
  · injection e with e
    exact e ▸ h.runMstatSet
  · injection e with e
    exact e ▸ h.runModrain
  · cases e
  · injection e with e
    exact e ▸ h.runMma

theorem Goes.execMatrixExecute {core} : Goes s (execMatrixExecute core s) := by
  unfold Machine.execMatrixExecute
  refine .next fun h => ?_
  split
  · split
    · exact h
    · split
      · split
        · exact h.wake.update
        · exact h
      · split
        · exact h.engineMet
        · split
          · exact (h.runMat ‹_›).engineReads.updCore
          · exact h
  · exact h

theorem Goes.execMatrixComplete {core} : Goes s (execMatrixComplete core s) := by
  unfold Machine.execMatrixComplete
  refine .next fun h => ?_
  split
  · split
    · exact h
    · extract_lets rest noted counted freed delivered told
      have hnoted : PackageInv noted := by
        unfold noted
        split
        · exact h.updCore.engError
        · exact h.updCore.raise
      have hfreed : PackageInv freed := hnoted.updRes.ite_then (·.released)
      have hdelivered : PackageInv delivered := by
        unfold delivered
        split
        · exact hfreed.deliver
        · exact hfreed.deliver
        · exact hfreed
      have htold : PackageInv told := by
        unfold told
        split
        · exact hdelivered.bellCompletion
        · exact hdelivered
      exact htold.wakeCore.wakeCore
  · exact h

theorem Goes.execCpymxWordEntry {core slot} : Goes s (execCpymxWordEntry core slot s) :=
  .next fun h => h.enterWord.wakeCore

theorem Goes.execCopyLanded {core slot} : Goes s (execCopyLanded core slot s) := by
  unfold Machine.execCopyLanded
  refine .next fun h => ?_
  split
  · split
    · exact h
    · split
      · split
        · dsimp only
          split
          · exact ((h.copyPieces.fst ‹_›).foldl fun _ _ h => h.doPut).copyStatus.raise.updCore.enterWord
          · exact ((h.copyPieces.fst ‹_›).foldl fun _ _ h => h.doPut).copyStatus.raise.endCopy
        · split
          · dsimp only
            split
            · exact ((h.copyPieces.fst ‹_›).localFault.fst ‹_›).updCore
            · exact ((h.copyPieces.fst ‹_›).localFault.fst ‹_›).failWith
            · exact (h.copyPieces.fst ‹_›).localFault.fst ‹_›
          · exact (h.copyPieces.fst ‹_›).failWith
  · exact h

/-! ### The instructions and events of `Machine/Errors` -/

theorem Goes.execErrackWrite {v} : Goes s (execErrackWrite v s) := by
  unfold Machine.execErrackWrite
  dsimp only
  exact .next fun h => .ite h h.setReg.setErrs

theorem Goes.execCeWindowBoundary : Goes s (execCeWindowBoundary s) := .next fun h => h.closeWindows

theorem Goes.execCorrectedError {unit loc} : Goes s (execCorrectedError unit loc s) :=
  .next fun h => .ite h ((h.closeWindows.setCounter.ite_then (·.errLog)).ite_then (·.spare))

theorem Goes.execUncorrectableConsumed {k} : Goes s (execUncorrectableConsumed k s) := by
  unfold Machine.execUncorrectableConsumed
  dsimp only
  refine .next fun h => ?_
  split
  · split
    · exact .ite h h.failLaneGranule
    · exact h
  · split
    · exact .ite h h.failLaneGranule
    · exact h
  · split
    · split
      · exact h
      · split
        · split
          · exact h.markSector
          · exact h.failCopy
        · exact h.failWord
    · exact h
  · split
    · exact .ite h h.failWord
    · exact h
  · split
    · refine PackageInv.setFab (PackageInv.ueRead ?_)
      split
      · exact h.markSector
      · exact h
    · exact h
  · exact h.markSector.ueLog.emit
  · exact h.markSector
  · exact h.dropL1Sector
  · exact h.dropL1Sector

theorem Goes.execScrub {unit loc} : Goes s (execScrub unit loc s) := .next fun h => .ite h.errLog h

theorem Goes.execHbmRefresh {bank} : Goes s (execHbmRefresh bank s) := .next fun h => h

theorem Goes.execCoreLogicError {core} : Goes s (execCoreLogicError core s) := by
  unfold Machine.execCoreLogicError
  refine .next fun h => ?_
  split
  · exact h
  · dsimp only
    exact (h.foldl fun _ _ h => h.stopLaunch).setFab.retireCore

theorem Goes.execLaneSample {port lane low} : Goes s (execLaneSample port lane low s) := by
  unfold Machine.execLaneSample
  dsimp only
  exact .next fun h => .ite (.ite h.setFab h) (.ite h (.ite h.setFab.spareLoc h.setFab))

theorem Goes.execLaneSwap {port} : Goes s (execLaneSwap port s) := by
  unfold Machine.execLaneSwap
  refine .next fun h => ?_
  split
  · exact .ite h h.setReg.laneDone
  · exact h

theorem Goes.execPortDegrade {port} : Goes s (execPortDegrade port s) := by
  unfold Machine.execPortDegrade
  refine .next fun h => ?_
  split
  · exact .ite h (h.laneDone.setFab.ite_then (·.portDown))
  · exact h

/-! ### The instructions and events of `Machine/Firmware` -/

theorem Goes.execLeaseRenewal {who epoch} : Goes s (execLeaseRenewal who epoch s) :=
  .next fun h => .ite h.setFw h

theorem Goes.execLeaseLapse : Goes s (execLeaseLapse s) := .next fun h => .ite h.setFw.setLead h

theorem Goes.execLeaseClaim {who} : Goes s (execLeaseClaim who s) :=
  .next fun h => .ite h ((PackageInv.ite h h.boot).setFw.setLead.runJournal.ite_then (·.msix))

theorem Goes.execIdentity {m} : Goes s (execIdentity m s) := .next fun h => h.command

theorem Goes.execAttest {m} : Goes s (execAttest m s) := .next fun h => h.command

theorem Goes.execFwstage {m} : Goes s (execFwstage m s) := .next fun h => h.command

theorem Goes.execFwactivate {m} : Goes s (execFwactivate m s) := .next fun h => h.command

theorem Goes.execFwabort {m} : Goes s (execFwabort m s) := .next fun h => h.command

theorem Goes.execPowercap {m} : Goes s (execPowercap m s) := .next fun h => h.command

theorem Goes.execTelemetry {m} : Goes s (execTelemetry m s) := .next fun h => h.command

theorem Goes.execReset {m} : Goes s (execReset m s) := .next fun h => h.command

theorem Goes.execSwconfig {m} : Goes s (execSwconfig m s) := .next fun h => h.command

theorem Goes.execSidebandMessage {opcode seq payload} : Goes s (execSidebandMessage opcode seq payload s) :=
  .next fun h => .ite h.emit (.ite h h.setFw)

theorem Goes.execUpdateLockTimeout : Goes s (execUpdateLockTimeout s) := by
  unfold Machine.execUpdateLockTimeout
  refine .next fun h => ?_
  split
  · exact .ite h.setFw h
  · exact h

theorem Goes.execThrottleTick {avgMw temps} : Goes s (execThrottleTick avgMw temps s) :=
  .next fun h => .ite h.setFw (.ite h.setFw.tripPart (.ite h.setFw.setFw (.ite h.setFw.setFw h.setFw)))

theorem Goes.execThermalTrip : Goes s (execThermalTrip s) := by
  unfold Machine.execThermalTrip
  dsimp only
  exact .next fun h => .ite h h.setFw.tripPart

theorem Goes.execBrownOut {rail} : Goes s (execBrownOut rail s) := .next fun h => .ite h h.tripPart

theorem Goes.execPerstDeassert : Goes s (execPerstDeassert s) := .next fun h => .ite h.setFw h

theorem Goes.execBringupStageDone : Goes s (execBringupStageDone s) :=
  .next fun h => .ite h ((PackageInv.ite h.setFw.applyRepair.initGranules h.setFw).ite_then (·.update)).setReg

/-! ### The instructions and events of `Machine/Integer` -/

theorem Goes.intOp {r} (hr : s.cur = some r) {o f} : Goes s (intOp o f s) := by
  unfold Machine.intOp
  dsimp only
  exact .laneOp hr

theorem Goes.execIadd {r} (hr : s.cur = some r) {o} : Goes s (execIadd o s) := .intOp hr

theorem Goes.execIsub {r} (hr : s.cur = some r) {o} : Goes s (execIsub o s) := .intOp hr

theorem Goes.execImul {r} (hr : s.cur = some r) {o} : Goes s (execImul o s) := .intOp hr

theorem Goes.execImulh {r} (hr : s.cur = some r) {o} : Goes s (execImulh o s) := .intOp hr

theorem Goes.execImad {r} (hr : s.cur = some r) {o} : Goes s (execImad o s) := .intOp hr

theorem Goes.execImadw {r} (hr : s.cur = some r) {o} : Goes s (execImadw o s) := by
  unfold Machine.execImadw
  dsimp only
  exact .laneOp hr

theorem Goes.execImin {r} (hr : s.cur = some r) {o} : Goes s (execImin o s) := .intOp hr

theorem Goes.execImax {r} (hr : s.cur = some r) {o} : Goes s (execImax o s) := .intOp hr

theorem Goes.execIabs {r} (hr : s.cur = some r) {o} : Goes s (execIabs o s) := .laneOp hr

theorem Goes.execIaddc {r} (hr : s.cur = some r) {o} : Goes s (execIaddc o s) := .laneOp hr

theorem Goes.execIsubb {r} (hr : s.cur = some r) {o} : Goes s (execIsubb o s) := .laneOp hr

theorem Goes.execIdiv {r} (hr : s.cur = some r) {o} : Goes s (execIdiv o s) := by
  unfold Machine.execIdiv
  dsimp only
  exact .laneOp hr

theorem Goes.execIrem {r} (hr : s.cur = some r) {o} : Goes s (execIrem o s) := by
  unfold Machine.execIrem
  dsimp only
  exact .laneOp hr

theorem Goes.execIsad {r} (hr : s.cur = some r) {o} : Goes s (execIsad o s) := .intOp hr

theorem Goes.execIclamp {r} (hr : s.cur = some r) {o} : Goes s (execIclamp o s) := .intOp hr

theorem Goes.execLea {r} (hr : s.cur = some r) {o} : Goes s (execLea o s) := .laneOp hr

/-! ### The instructions and events of `Machine/Loader` -/

theorem Goes.execImageRegister : Goes s (execImageRegister s) := .next fun h => h.startLoader

theorem Goes.execImageUnregister : Goes s (execImageUnregister s) := .next fun h => h.startLoader

theorem Goes.execLoaderDone : Goes s (execLoaderDone s) := by
  unfold Machine.execLoaderDone
  refine .next fun h => ?_
  split
  · exact h
  · dsimp only
    split
    · split
      · exact h.setFront.setFront.setReg
      · exact h.setFront.setReg
    · split
      · exact h.setFront.dropImage.setReg
      · exact h.setFront.setReg

/-! ### The instructions and events of `Machine/Shepherd` -/

theorem Goes.shepBranch {r} (hr : s.cur = some r) {o k f} : Goes s (shepBranch o k f s) := by
  unfold Machine.shepBranch
  refine .agentOp hr fun _ s h => ?_
  dsimp only
  split
  · exact h.latch.commit.ite_then (·.updAgent)
  · exact h.latch.commit

theorem Goes.execSbr {r} (hr : s.cur = some r) {o} : Goes s (execSbr o s) := .shepBranch hr

theorem Goes.execSjmp {r} (hr : s.cur = some r) {o} : Goes s (execSjmp o s) := .shepBranch hr

theorem Goes.execSloop {r} (hr : s.cur = some r) {o} : Goes s (execSloop o s) := .shepBranch hr

theorem Goes.execSpawn {r} (hr : s.cur = some r) {o} : Goes s (execSpawn o s) := by
  unfold Machine.execSpawn
  exact .shepOp hr fun s e h => .ite trivial (.ite trivial h.flushLoads.spawnRange)

theorem Goes.execDpush {r} (hr : s.cur = some r) {o} : Goes s (execDpush o s) := by
  unfold Machine.execDpush
  exact .shepOp hr fun s e h => .ite trivial (.ite trivial h.flushLoads.updRes.released)

theorem Goes.execDpop {r} (hr : s.cur = some r) {o} : Goes s (execDpop o s) := by
  unfold Machine.execDpop
  refine .agentOp hr fun _ s h => ?_
  dsimp only
  exact .ite h.latch.waitFor (h.latch.foldLanes fun _ _ h => h.dpopLane).commit

theorem Goes.execSwait {r} (hr : s.cur = some r) {o} : Goes s (execSwait o s) := by
  unfold Machine.execSwait
  exact .shepOp hr fun s e h => .ite trivial (.ite trivial h.acquireEpoch)

theorem Goes.execScond {r} (hr : s.cur = some r) {o} : Goes s (execScond o s) := by
  unfold Machine.execScond
  exact .shepOp hr fun s e h => .ite (.ite trivial h.updRes) (.ite trivial (.ite trivial h.updRes.acquireEpoch))

theorem Goes.execShalt {r} (hr : s.cur = some r) {o} : Goes s (execShalt o s) :=
  .agentOp hr fun _ _ h => .ite h.commit h.commit.updAgent.updRes.releaseShep

theorem Goes.execShepherdWaitSatisfied {core ag} : Goes s (execShepherdWaitSatisfied core ag s) :=
  .next fun h => h.retry

theorem Goes.execDpopWaitSatisfied {core ag} : Goes s (execDpopWaitSatisfied core ag s) := by
  unfold Machine.execDpopWaitSatisfied
  dsimp only
  refine .next fun h => ?_
  split
  · split
    · exact .ite h h.retry
    · exact h
  · exact h

/-! ### The instructions and events of `Machine/Team` -/

theorem Goes.execShfl {r} (hr : s.cur = some r) {o} : Goes s (execShfl o s) := .teamOp hr

theorem Goes.execShflu {r} (hr : s.cur = some r) {o} : Goes s (execShflu o s) := .teamOp hr

theorem Goes.execShfld {r} (hr : s.cur = some r) {o} : Goes s (execShfld o s) := .teamOp hr

theorem Goes.execShflx {r} (hr : s.cur = some r) {o} : Goes s (execShflx o s) := .teamOp hr

theorem Goes.execVall {r} (hr : s.cur = some r) {o} : Goes s (execVall o s) := .teamOp hr

theorem Goes.execVany {r} (hr : s.cur = some r) {o} : Goes s (execVany o s) := .teamOp hr

theorem Goes.execBallot {r} (hr : s.cur = some r) {o} : Goes s (execBallot o s) := .teamOp hr

theorem Goes.execMatchT {r} (hr : s.cur = some r) {o} : Goes s (execMatchT o s) := .teamOp hr

theorem Goes.execElect {r} (hr : s.cur = some r) {o} : Goes s (execElect o s) := .teamOp hr

theorem Goes.execTred {r} (hr : s.cur = some r) {o} : Goes s (execTred o s) := .teamOp hr

theorem Goes.execTscan {r} (hr : s.cur = some r) {o} : Goes s (execTscan o s) := .teamOp hr

theorem Goes.execTvote {r} (hr : s.cur = some r) {o} : Goes s (execTvote o s) := by
  unfold Machine.execTvote
  refine .agentOp hr fun _ s h => ?_
  dsimp only
  split
  · exact h.latch.trapWord
  · refine PackageInv.commit ?_
    refine (PackageInv.ite h.latch h.latch.flushLoads).foldl_fst fun p x h => ?_
    exact h.voteTeam

/-! ### The instructions and events of `Machine/Work` -/

theorem Goes.execEnq {r} (hr : s.cur = some r) {o} : Goes s (execEnq o s) := by
  unfold Machine.execEnq
  refine .heldOp hr ?_
  refine .fetchOp hr (fun _ _ h => h.workAsk) (fun _ s h => ?_)
  dsimp only
  exact .ite h.waitFor (h.foldLanes fun _ _ h => h.enqLane).commit

theorem Goes.execRecN {r} (hr : s.cur = some r) {o} : Goes s (execRecN o s) := by
  unfold Machine.execRecN
  refine .agentOp hr fun _ s h => ?_
  dsimp only
  exact .ite h.latch.recLanes.updAgent.waitFor.trapLanes h.latch.recLanes.commit

theorem Goes.execCntadd {r} (hr : s.cur = some r) {o} : Goes s (execCntadd o s) := by
  unfold Machine.execCntadd
  refine .heldOp hr ?_
  exact .memOp hr fun _ _ h => h.atomV

theorem Goes.execCntwait {r} (hr : s.cur = some r) {o} : Goes s (execCntwait o s) := by
  unfold Machine.execCntwait
  refine .heldOp hr ?_
  refine .fetchOp hr (fun _ _ h => h.workAsk) (fun _ s h => ?_)
  dsimp only
  split
  · exact h.waitFor
  · split
    · exact ((h.foldLanes fun _ _ h => h.cntLane).foldl fun _ _ h => h.acquire).commit
    · exact .ite (h.foldLanes fun _ _ h => h.cntLane).updAgent.dropLanes
        (h.foldLanes fun _ _ h => h.cntLane).updAgent.waitFor.trapLanes

theorem Goes.execCntwaitSatisfied {core ag} : Goes s (execCntwaitSatisfied core ag s) := .next fun h => h.retry

theorem Goes.execCancel {r} (hr : s.cur = some r) {o} : Goes s (execCancel o s) := by
  unfold Machine.execCancel
  refine .seqOp hr fun s x1 h => ?_
  dsimp only
  split
  · exact h.cancelById
  · exact h.cancelObject

end Sys2Proof.Claims
end

section
/-! PROOFS. What a step does (R12, R21, R64, R209, R326, R385): no step stops the machine, each keeps `PackageInv`, and
without an agent that issues the step is the head of the agenda. -/

namespace Sys2Proof.Claims

open Sys2Proof Sys2Proof.Machine

variable {s t : State}

/-! ### Who issues -/

/-- An agent has been granted its issue. -/
def Issues (r : AgentRef) (s : State) : Prop := s.cur = some r

theorem Issues.ite {r} {c : Prop} [Decidable c] (hs : Issues r s) (ht : Issues r t) :
    Issues r (if c then s else t) := by
  split
  · exact hs
  · exact ht

theorem Issues.of_eq {r} (h : Issues r s) (e : t.cur = s.cur) : Issues r t := e.trans h

theorem Issues.update {r} (h : Issues r s) {agenda tick cycles phase nanos cores launches nextLid mem front fabric
    parts errs fw shadow shadowWas migThresh qIdle wgTimer} :
    Issues r { s with agenda, tick, cycles, phase, nanos, cores, launches, nextLid, mem, front, fabric, parts, errs, fw,
                      shadow, shadowWas, migThresh, qIdle, wgTimer } := h

theorem Issues.getD {r} {o : Option State} (h : Issues r s) (ho : ∀ t, o = some t → Issues r t) :
    Issues r (o.getD s) := by
  cases o with
  | none => exact h
  | some t => exact ho t rfl

theorem Issues.foldl {r α} {f : State → α → State} {l : List α} (h : Issues r s)
    (hf : ∀ s x, Issues r s → Issues r (f s x)) : Issues r (l.foldl f s) := by
  induction l generalizing s with
  | nil => exact h
  | cons x l ih => exact ih (hf s x h)

theorem Issues.fst {r α} {p : State × α} {a} (h : Issues r p.1) (e : p = (t, a)) : Issues r t := by
  rw [e] at h
  exact h

theorem Issues.leaf {r} (h : Issues r s) {c path part va} : Issues r (s.leaf c path part va).1 :=
  h.of_eq (State.leaf_keep State.cur c (fun _ _ => by cases c <;> rfl) (fun _ _ _ => rfl) s path part va)

theorem Issues.xlate {r} (h : Issues r s) {c path part va acc} : Issues r (s.xlate c path part va acc).1 :=
  h.of_eq (State.xlate_keep State.cur c (fun _ _ => by cases c <;> rfl) (fun _ _ _ => rfl) s path part va acc)

theorem Issues.approach {r} (h : Issues r s) {who l n} : Issues r (s.approach who l n) := by
  unfold State.approach
  split
  · exact .ite h.update h.update
  · exact h

theorem Issues.hubPut {r} (h : Issues r s) {l bs} : Issues r (s.hubPut l bs) := by
  unfold State.hubPut
  split
  · exact .ite h h.update
  · exact h.update
  · exact h.update
  · exact h

theorem Issues.privFill {r} (h : Issues r s) {va} : Issues r (s.privFill va) := .ite h h.leaf

theorem Issues.privWrite {r} (h : Issues r s) {va bs} (e : s.privWrite va bs = some t) : Issues r t := by
  unfold State.privWrite at e
  split at e
  · cases e
    exact h.privFill.approach.hubPut
  · cases e

theorem Issues.msix {r} (h : Issues r s) {v} : Issues r (s.msix v) := .ite h.update h.update

theorem Issues.closeWindows {r} (h : Issues r s) : Issues r s.closeWindows := .ite h h.update

theorem Issues.errLog {r} (h : Issues r s) {f} : Issues r (s.errLog f) := by
  unfold State.errLog
  refine .ite h.closeWindows ?_
  cases s.closeWindows.errs.lost with
  | some x => exact h.closeWindows.update.getD fun _ e => h.closeWindows.update.privWrite e
  | none =>
    extract_lets next noRoom ws
    generalize e : s.closeWindows.privWrite _ _ = o
    cases o with
    | none => exact h.closeWindows
    | some t => exact (Issues.ite (h.closeWindows.privWrite e).update (h.closeWindows.privWrite e)).update.msix

theorem Issues.ueLog {r} (h : Issues r s) {sector launch who addr} : Issues r (s.ueLog sector launch who addr) := by
  unfold State.ueLog
  split
  exact h.errLog

theorem Issues.ueMet {r} (h : Issues r s) {c lid tid who g} : Issues r (s.ueMet c lid tid who g) := by
  unfold State.ueMet
  split
  · exact h.ueLog
  · split
    exact h.errLog

theorem Issues.fetchMem {r} (h : Issues r s) {c part va} : Issues r (s.fetchMem c part va).1 := by
  unfold State.fetchMem
  split
  · split
    · exact h.xlate.fst ‹_›
    · exact (h.xlate.fst ‹_›).approach
  · exact h.xlate.fst ‹_›

theorem Issues.icFill {r} (h : Issues r s) {c part va w} : Issues r (s.icFill c part va w) := h.update

theorem Issues.fetchWord {r} (h : Issues r s) {c l va} : Issues r (s.fetchWord c l va).1 := by
  unfold State.fetchWord
  split
  · exact h
  · dsimp only
    split
    · split
      · split
        · exact h
        · exact h.icFill
      · exact h
    · split
      · exact (h.fetchMem.fst ‹_›).icFill
      · exact h.fetchMem.fst ‹_›

theorem Issues.fetchDecode {r} (h : Issues r s) {q} : Issues r (s.fetchDecode q).1 := by
  unfold State.fetchDecode
  dsimp only
  split
  · exact h.fetchWord.fst ‹_›
  · split <;> exact h.fetchWord.fst ‹_›

/-- Where the instruction goes on with the lanes that have read no uncorrectable register, its agent still issues. -/
theorem Issues.meetBad {r} (h : Issues r s) {q i} (e : s.meetBad q i = (t, true)) : Issues r t := by
  unfold State.meetBad at e
  extract_lets a bad u park at e
  have hu : Issues r u := h.foldl fun _ _ h => h.ueMet
  clear_value u
  split at e
  · cases e
    exact hu
  · split at e
    · cases e
    · cases e
      exact hu.foldl fun _ _ h => h.update

/-- What an agent that issues executes, and every event, goes on and keeps the invariant. -/
theorem Goes.exec {r i} (hr : isInstruction i = true → s.cur = some r) : Goes s (exec i s) := by
  cases i with
  | nop _ => exact .execNop (hr rfl)
  | blk _ live team landing => exact .execBlk (hr rfl) (live := live) (team := team) (landing := landing)
  | br _ => exact .execBr (hr rfl)
  | cbr _ => exact .execCbr (hr rfl)
  | ibr _ => exact .execIbr (hr rfl)
  | call _ => exact .execCall (hr rfl)
  | icall _ => exact .execIcall (hr rfl)
  | ret _ => exact .execRet (hr rfl)
  | exit _ => exact .execExit (hr rfl)
  | join _ => exact .execJoin (hr rfl)
  | yield _ => exact .execYield (hr rfl)
  | sleep _ => exact .execSleep (hr rfl)
  | bkpt _ => exact .execBkpt (hr rfl)
  | probe _ => exact .execProbe (hr rfl)
  | iadd _ => exact .execIadd (hr rfl)
  | isub _ => exact .execIsub (hr rfl)
  | imul _ => exact .execImul (hr rfl)
  | imulh _ => exact .execImulh (hr rfl)
  | imad _ => exact .execImad (hr rfl)
  | imadw _ => exact .execImadw (hr rfl)
  | imin _ => exact .execImin (hr rfl)
  | imax _ => exact .execImax (hr rfl)
  | iabs _ => exact .execIabs (hr rfl)
  | iaddc _ => exact .execIaddc (hr rfl)
  | isubb _ => exact .execIsubb (hr rfl)
  | idiv _ => exact .execIdiv (hr rfl)
  | irem _ => exact .execIrem (hr rfl)
  | isad _ => exact .execIsad (hr rfl)
  | iclamp _ => exact .execIclamp (hr rfl)
  | lea _ => exact .execLea (hr rfl)
  | and _ => exact .execAnd (hr rfl)
  | or _ => exact .execOr (hr rfl)
  | xor _ => exact .execXor (hr rfl)
  | andn _ => exact .execAndn (hr rfl)
  | shl _ => exact .execShl (hr rfl)
  | shr _ => exact .execShr (hr rfl)
  | shra _ => exact .execShra (hr rfl)
  | rotl _ => exact .execRotl (hr rfl)
  | bfx _ => exact .execBfx (hr rfl)
  | bfi _ => exact .execBfi (hr rfl)
  | popc _ => exact .execPopc (hr rfl)
  | clz _ => exact .execClz (hr rfl)
  | brev _ => exact .execBrev (hr rfl)
  | lut3 _ => exact .execLut3 (hr rfl)
  | bperm _ => exact .execBperm (hr rfl)
  | fns _ => exact .execFns (hr rfl)
  | icmp _ => exact .execIcmp (hr rfl)
  | fcmp _ => exact .execFcmp (hr rfl)
  | sel _ => exact .execSel (hr rfl)
  | mov _ => exact .execMov (hr rfl)
  | movi _ => exact .execMovi (hr rfl)
  | mov64 _ => exact .execMov64 (hr rfl)
  | pset _ => exact .execPset (hr rfl)
  | pmov _ => exact .execPmov (hr rfl)
  | sread _ => exact .execSread (hr rfl)
  | add64 _ => exact .execAdd64 (hr rfl)
  | sub64 _ => exact .execSub64 (hr rfl)
  | shl64 _ => exact .execShl64 (hr rfl)
  | cmp64 _ => exact .execCmp64 (hr rfl)
  | fadd _ => exact .execFadd (hr rfl)
  | fsub _ => exact .execFsub (hr rfl)
  | fmul _ => exact .execFmul (hr rfl)
  | ffma _ => exact .execFfma (hr rfl)
  | fmin _ => exact .execFmin (hr rfl)
  | fmax _ => exact .execFmax (hr rfl)
  | frcp _ => exact .execFrcp (hr rfl)
  | frsq _ => exact .execFrsq (hr rfl)
  | fsqrt _ => exact .execFsqrt (hr rfl)
  | fex2 _ => exact .execFex2 (hr rfl)
  | flg2 _ => exact .execFlg2 (hr rfl)
  | fsin _ => exact .execFsin (hr rfl)
  | fcos _ => exact .execFcos (hr rfl)
  | frnd _ => exact .execFrnd (hr rfl)
  | fclass _ => exact .execFclass (hr rfl)
  | fscale _ => exact .execFscale (hr rfl)
  | cvt _ => exact .execCvt (hr rfl)
  | cvtb _ => exact .execCvtb (hr rfl)
  | cvtd _ => exact .execCvtd (hr rfl)
  | pkadd _ => exact .execPkadd (hr rfl)
  | pkmul _ => exact .execPkmul (hr rfl)
  | pkfma _ => exact .execPkfma (hr rfl)
  | pkmin _ => exact .execPkmin (hr rfl)
  | pkmax _ => exact .execPkmax (hr rfl)
  | dot4 _ => exact .execDot4 (hr rfl)
  | dot8 _ => exact .execDot8 (hr rfl)
  | lnsm _ => exact .execLnsm (hr rfl)
  | lnsa _ => exact .execLnsa (hr rfl)
  | tdot _ => exact .execTdot (hr rfl)
  | rngk _ => exact .execRngk (hr rfl)
  | fdiv _ => exact .execFdiv (hr rfl)
  | shfl _ => exact .execShfl (hr rfl)
  | shflu _ => exact .execShflu (hr rfl)
  | shfld _ => exact .execShfld (hr rfl)
  | shflx _ => exact .execShflx (hr rfl)
  | vall _ => exact .execVall (hr rfl)
  | vany _ => exact .execVany (hr rfl)
  | ballot _ => exact .execBallot (hr rfl)
  | tred _ => exact .execTred (hr rfl)
  | tscan _ => exact .execTscan (hr rfl)
  | matchT _ => exact .execMatchT (hr rfl)
  | elect _ => exact .execElect (hr rfl)
  | tvote _ => exact .execTvote (hr rfl)
  | ld _ => exact .execLd (hr rfl)
  | st _ => exact .execSt (hr rfl)
  | lds _ => exact .execLds (hr rfl)
  | sts _ => exact .execSts (hr rfl)
  | ldsx _ => exact .execLdsx (hr rfl)
  | stsx _ => exact .execStsx (hr rfl)
  | ldk _ => exact .execLdk (hr rfl)
  | pref _ => exact .execPref (hr rfl)
  | spop _ => exact .execSpop (hr rfl)
  | ldgs _ => exact .execLdgs (hr rfl)
  | atom _ => exact .execAtom (hr rfl)
  | atomc _ => exact .execAtomc (hr rfl)
  | red _ => exact .execRed (hr rfl)
  | atoms _ => exact .execAtoms (hr rfl)
  | atomsc _ => exact .execAtomsc (hr rfl)
  | reds _ => exact .execReds (hr rfl)
  | coll _ => exact .execColl (hr rfl)
  | fence _ => exact .execFence (hr rfl)
  | xfence _ => exact .execXfence (hr rfl)
  | binit _ => exact .execBinit (hr rfl)
  | barv _ => exact .execBarv (hr rfl)
  | bwait _ => exact .execBwait (hr rfl)
  | btest _ => exact .execBtest (hr rfl)
  | bexp _ => exact .execBexp (hr rfl)
  | chinit _ => exact .execChinit (hr rfl)
  | chpush _ => exact .execChpush (hr rfl)
  | chpop _ => exact .execChpop (hr rfl)
  | chtry _ => exact .execChtry (hr rfl)
  | chclose _ => exact .execChclose (hr rfl)
  | cpy _ => exact .execCpy (hr rfl)
  | cpyt _ => exact .execCpyt (hr rfl)
  | cpysc _ => exact .execCpysc (hr rfl)
  | cpymx _ => exact .execCpymx (hr rfl)
  | strm _ => exact .execStrm (hr rfl)
  | strmx _ => exact .execStrmx (hr rfl)
  | cpyr _ => exact .execCpyr (hr rfl)
  | mcfg _ => exact .execMcfg (hr rfl)
  | mma _ => exact .execMma (hr rfl)
  | mmag _ => exact .execMmag (hr rfl)
  | mmas _ => exact .execMmas (hr rfl)
  | mzero _ => exact .execMzero (hr rfl)
  | mload _ => exact .execMload (hr rfl)
  | mloadSc _ => exact .execMloadSc (hr rfl)
  | mstore _ => exact .execMstore (hr rfl)
  | mstat _ => exact .execMstat (hr rfl)
  | mstatSet _ => exact .execMstatSet (hr rfl)
  | mstatSync _ => exact .execMstatSync (hr rfl)
  | mstatList _ => exact .execMstatList (hr rfl)
  | modrain _ => exact .execModrain (hr rfl)
  | sbr _ => exact .execSbr (hr rfl)
  | sjmp _ => exact .execSjmp (hr rfl)
  | sloop _ => exact .execSloop (hr rfl)
  | spawn _ => exact .execSpawn (hr rfl)
  | dpush _ => exact .execDpush (hr rfl)
  | dpop _ => exact .execDpop (hr rfl)
  | swait _ => exact .execSwait (hr rfl)
  | scond _ => exact .execScond (hr rfl)
  | shalt _ => exact .execShalt (hr rfl)
  | enq _ => exact .execEnq (hr rfl)
  | recN _ => exact .execRecN (hr rfl)
  | cntadd _ => exact .execCntadd (hr rfl)
  | cntwait _ => exact .execCntwait (hr rfl)
  | cancel _ => exact .execCancel (hr rfl)
  | trap _ => exact .execTrap (hr rfl)
  | tret _ => exact .execTret (hr rfl)
  | srd _ => exact .execSrd (hr rfl)
  | swr _ => exact .execSwr (hr rfl)
  | cctlWb _ => exact .execCctlWb (hr rfl)
  | cctlInv _ => exact .execCctlInv (hr rfl)
  | cctlFarinv _ => exact .execCctlFarinv (hr rfl)
  | cctlIcinv _ => exact .execCctlIcinv (hr rfl)
  | tlbi _ => exact .execTlbi (hr rfl)
  | halt _ => exact .execHalt (hr rfl)
  | resultLanding _ _ => exact .execResultLanding
  | droveFormation _ _ => exact .execDroveFormation
  | foldAgeExpiry _ _ _ => exact .execFoldAgeExpiry
  | droveIssue _ _ _ => exact .execDroveIssue
  | blockExitFiling _ _ => exact .execBlockExitFiling
  | liveInFetch _ _ => exact .execLiveInFetch
  | strayRefile _ _ => exact .execStrayRefile
  | spill _ _ => exact .execSpill
  | threadPark _ _ _ => exact .execThreadPark
  | faultResolutionResume _ _ _ => exact .execFaultResolutionResume
  | sleepWake _ _ => exact .execSleepWake
  | yieldExpiry _ _ => exact .execYieldExpiry
  | trackerEntryDrained _ _ => exact .execTrackerEntryDrained
  | copyLanded _ _ => exact .execCopyLanded
  | copyFault _ _ _ _ => exact .execCopyFault
  | streamFetch _ _ _ => exact .execStreamFetch
  | cpymxWordEntry _ _ => exact .execCpymxWordEntry
  | matrixExecute _ => exact .execMatrixExecute
  | matrixComplete _ => exact .execMatrixComplete
  | gatherRead _ => exact .execGatherRead
  | chuteWaitSatisfied _ _ => exact .execChuteWaitSatisfied
  | shepherdWaitSatisfied _ _ => exact .execShepherdWaitSatisfied
  | dpopWaitSatisfied _ _ => exact .execDpopWaitSatisfied
  | cntwaitSatisfied _ _ => exact .execCntwaitSatisfied
  | flagMergeToHub _ _ => exact .execFlagMergeToHub
  | enablePropagation _ _ => exact .execEnablePropagation
  | hostRegisterWrite _ _ => exact .execHostRegisterWrite
  | doorbellSignal _ _ => exact .execDoorbellSignal
  | doorbellLowHalf _ _ => exact .execDoorbellLowHalf
  | doorbellLatchExpiry _ => exact .execDoorbellLatchExpiry
  | queueIdleUnmap _ => exact .execQueueIdleUnmap
  | launchRecordRead _ => exact .execLaunchRecordRead
  | dependenceRead _ => exact .execDependenceRead
  | arbiterDecision _ => exact .execArbiterDecision
  | binding _ => exact .execBinding
  | placement _ => exact .execPlacement
  | launchCompletion _ => exact .execLaunchCompletion
  | batchTimerExpiry _ _ => exact .execBatchTimerExpiry
  | batchLaunch _ _ => exact .execBatchLaunch
  | imageRegister => exact .execImageRegister
  | imageUnregister => exact .execImageUnregister
  | loaderDone => exact .execLoaderDone
  | homeRequest _ => exact .execHomeRequest
  | homeReply _ _ => exact .execHomeReply
  | notHereReply _ _ => exact .execNotHereReply
  | requestRetryTimeout _ => exact .execRequestRetryTimeout
  | congestionMarkEcho _ => exact .execCongestionMarkEcho
  | rateRecoveryTick _ => exact .execRateRecoveryTick
  | migration _ _ _ _ => exact .execMigration
  | migrationAbandon _ _ => exact .execMigrationAbandon
  | fqack _ => exact .execFqack
  | faultTimeout _ _ => exact .execFaultTimeout
  | biascmdToDevice => exact .execBiascmdToDevice
  | biascmdToHost => exact .execBiascmdToHost
  | biasChangeDone => exact .execBiasChangeDone
  | tlbicmd _ => exact .execTlbicmd
  | tlbiDone => exact .execTlbiDone
  | inboundAccess _ _ _ => exact .execInboundAccess
  | hostMemoryAccess _ _ _ => exact .execHostMemoryAccess
  | collectiveDone _ _ _ => exact .execCollectiveDone
  | laneSwap _ => exact .execLaneSwap
  | laneSample _ _ _ => exact .execLaneSample
  | portDegrade _ => exact .execPortDegrade
  | pcmdHalt _ => exact .execPcmdHalt
  | pcmdSave _ => exact .execPcmdSave
  | pcmdRestore _ => exact .execPcmdRestore
  | pcmdResume _ => exact .execPcmdResume
  | pcmdDiscard _ => exact .execPcmdDiscard
  | haltDone _ => exact .execHaltDone
  | saveDone _ => exact .execSaveDone
  | restoreDone _ _ => exact .execRestoreDone
  | copyHaltTimeout _ _ => exact .execCopyHaltTimeout
  | pmapWrite _ _ => exact .execPmapWrite
  | errackWrite _ => exact .execErrackWrite
  | ceWindowBoundary => exact .execCeWindowBoundary
  | correctedError _ _ => exact .execCorrectedError
  | uncorrectableConsumed _ => exact .execUncorrectableConsumed
  | scrub _ _ => exact .execScrub
  | hbmRefresh bank => exact .execHbmRefresh (bank := bank)
  | coreLogicError _ => exact .execCoreLogicError
  | leaseRenewal _ _ => exact .execLeaseRenewal
  | leaseClaim _ => exact .execLeaseClaim
  | leaseLapse => exact .execLeaseLapse
  | sidebandMessage _ _ _ => exact .execSidebandMessage
  | identity _ => exact .execIdentity
  | attest _ => exact .execAttest
  | fwstage _ => exact .execFwstage
  | fwactivate _ => exact .execFwactivate
  | fwabort _ => exact .execFwabort
  | updateLockTimeout => exact .execUpdateLockTimeout
  | powercap _ => exact .execPowercap
  | telemetry _ => exact .execTelemetry
  | reset _ => exact .execReset
  | swconfig _ => exact .execSwconfig
  | throttleTick _ _ => exact .execThrottleTick
  | thermalTrip => exact .execThermalTrip
  | brownOut _ => exact .execBrownOut
  | perstDeassert => exact .execPerstDeassert
  | bringupStageDone => exact .execBringupStageDone
  | penDemandRead _ _ _ => exact .execPenDemandRead
  | accessPerformed _ _ => exact .execAccessPerformed
  | cxlCacheSnoop _ => exact .execCxlCacheSnoop
  | configurationRequest => exact .execConfigurationRequest
  | contendedMarkExpiry _ => exact .execContendedMarkExpiry

/-! ### Steps -/

theorem Goes.of_keeps {u : State} {o} (h : Goes u o) (hk : PackageInv s → PackageInv u) : Goes s o := by
  obtain ⟨t, e, ht⟩ := h
  exact ⟨t, e, fun hs => ht (hk hs)⟩

theorem Goes.stepIssue {r} (hr : s.cur = some r) : Goes s (stepIssue r s) := by
  have hf : PackageInv s → PackageInv (s.fetchDecode r).1 := fun h => h.fetchDecode
  have hi : Issues r (s.fetchDecode r).1 := Issues.fetchDecode hr
  unfold Machine.stepIssue
  split
  · next u i e =>
    split
    · next v em => exact .next fun h => ((hf h).fst e).meetBad.fst em |>.update
    · next v em =>
      obtain ⟨w, ew, hw⟩ := Goes.exec (i := i) fun _ => (hi.fst e).meetBad em
      rw [ew]
      exact .next fun h => (hw (((hf h).fst e).meetBad.fst em)).afterIssue ((hf h).fst e)
  · next e => exact .next fun h => ((hf h).fst e).badWord.update
  · next e => exact .next fun h => ((hf h).fst e).trapWord.update

theorem Goes.stepEvent {e} : Goes s (stepEvent e s) := by
  cases e with
  | event i =>
    by_cases h : isInstruction i || s.stopped i
    · rw [Machine.stepEvent, if_pos h]
      exact .next id
    · rw [Machine.stepEvent, if_neg h]
      exact .exec (r := default) fun hi => absurd (by rw [hi]; rfl) h
  | shepherd core lid => exact .next fun h => h.grantShepherd

theorem Goes.stepSched {e} : Goes s (stepSched e s) := by
  cases e with
  | event i =>
    unfold Machine.stepSched
    dsimp only
    split
    · next e => exact Goes.stepEvent.of_keeps fun h => h.inTurn e
    · exact .next id
  | shepherd core lid => exact .stepEvent (e := .shepherd core lid)

theorem Goes.stepFree : Goes s (stepFree s) :=
  .ite (.next fun h => h.advance) (Goes.stepSched.of_keeps fun h => h.advance)

theorem Goes.stepNext : Goes s (stepNext s) := by
  unfold Machine.stepNext
  split
  · exact .ite .stepFree (Goes.stepEvent.of_keeps fun h => h.newCycle.update)
  · exact .stepFree

/-- Every step goes on, and keeps the form of memory and the ranges of the package registers. -/
theorem Goes.step : Goes s (step s) := by
  unfold Machine.step
  split
  · next r hr => exact (Goes.stepIssue (s := s.unblock) hr).of_keeps fun h => h.unblock
  · exact Goes.stepNext.of_keeps fun h => h.unblock

/-- Without an agent that issues, a step takes the head of the agenda if nothing in it meets a change of bias. -/
theorem step_agenda {e rest} (hc : s.cur = none) (ha : s.agenda = e :: rest)
    (hb : metBias (stepEvent e { s.unblock.newCycle with agenda := rest }) = false) :
    step s = stepEvent e { s.unblock.newCycle with agenda := rest } := by
  have hn : step s = stepNext s.unblock := by
    unfold step
    rw [hc]
  have hu : s.unblock.agenda = e :: rest := ha
  rw [hn, stepNext, hu]
  dsimp only
  rw [hb]
  rfl

/-- An event whose clocks go on and that meets no change of bias is the step. -/
theorem step_event {i rest} (hc : s.cur = none) (ha : s.agenda = .event i :: rest) (hi : isInstruction i = false)
    (hs : s.stopped i = false) (hb : metBias (exec i { s.unblock.newCycle with agenda := rest }) = false) :
    step s = exec i { s.unblock.newCycle with agenda := rest } := by
  have he : stepEvent (.event i) { s.unblock.newCycle with agenda := rest } =
      exec i { s.unblock.newCycle with agenda := rest } :=
    if_neg (by rw [hi]; exact (Bool.eq_false_iff.mp hs))
  rw [← he] at hb ⊢
  exact step_agenda hc ha hb

/-- An event that finds the clocks stopped does nothing. -/
theorem step_stopped {i rest} (hc : s.cur = none) (ha : s.agenda = .event i :: rest) (hs : s.stopped i = true) :
    step s = .next { s.unblock.newCycle with agenda := rest } := by
  have he : stepEvent (.event i) { s.unblock.newCycle with agenda := rest } = .next { s.unblock.newCycle with agenda := rest } :=
    if_pos (Bool.or_eq_true_iff.mpr (.inr hs))
  rw [← he]
  exact step_agenda hc ha (by rw [he]; rfl)

theorem stopped_eq_false {i} (h : s.fw.trip = false ∨ standby i = true) : s.stopped i = false := by
  rcases h with h | h
  · rw [State.stopped, h, Bool.false_and]
  · rw [State.stopped, h, Bool.not_true, Bool.and_false]

theorem stopped_eq_true {i} (ht : s.fw.trip = true) (hs : standby i = false) : s.stopped i = true := by
  rw [State.stopped, ht, hs]
  rfl

end Sys2Proof.Claims

namespace Sys2Proof.Proofs

open Sys2Proof Sys2Proof.Machine Sys2Proof.Claims

/-- Settles O8: a step is `Goes`. -/
theorem stepKeepsMemoryAndPackageRegisters : Obligations.StepKeepsMemoryAndPackageRegisters := by
  intro s t h e
  obtain ⟨u, eu, hu⟩ := Goes.step (s := s)
  cases e.symm.trans eu
  exact hu h

/-- Settles O9: a step is `Goes`; the head of the agenda is taken, or passed over where the clocks have stopped. -/
theorem stepsGoOn : Obligations.StepsGoOn := by
  refine ⟨fun s => ?_, fun s i rest hc ha hi => ⟨fun hs => ?_, fun ht hs => ?_⟩⟩
  · obtain ⟨t, e, -⟩ := Goes.step (s := s)
    exact ⟨t, e⟩
  · exact step_event hc ha hi (stopped_eq_false hs)
  · exact step_stopped hc ha (stopped_eq_true ht hs)

end Sys2Proof.Proofs
end

section
/-! PROOFS. NOP, YIELD, SLEEP and PROBE (R21, R80, R129, R130). -/

namespace Sys2Proof.Proofs

open Sys2Proof Sys2Proof.Machine Sys2Proof.Claims

/-! ### Active lanes, NOP, YIELD and the end of a SLEEP -/

/-- What the active lanes of an instruction see after it has latched. -/
theorem envs_latch (s : State) (r : AgentRef) (o : Op) :
    (s.latch r o).envs r o = (s.envs r o).map fun e => { e with s := s.latch r o } := by
  simp [State.envs, State.readTime, State.count]

/-- What the one active lane of an instruction that does not latch sees. -/
theorem envs_of_lone {s : State} {r : AgentRef} {o : Op} {e : Env} (h : Lone s r o e) : s.envs r o = [{ e with s }] := by
  obtain ⟨-, he⟩ := h
  rw [envs_latch] at he
  obtain ⟨e', hs, rfl⟩ := List.map_eq_singleton_iff.mp he
  have hm : e' ∈ s.envs r o := by rw [hs]; exact List.mem_singleton_self e'
  rw [hs, ← (State.mem_envs hm).1]

theorem acquireEpoch_keep {β : Type} (p : State → β) (ht : ∀ s c l t f, p (State.updThread s c l t f) = p s)
    (hl : ∀ s l f, p (State.updLaunch s l f) = p s) (s : State) (c lid tid scope : Nat) :
    p (s.acquireEpoch c lid tid scope) = p s := by
  unfold State.acquireEpoch
  dsimp only
  split
  · rw [hl, ht]
  · rfl

/-- An instruction of one lane at a time whose lanes give words, without flags, completes. -/
theorem laneOp_completes {o : Op} {lat : Latency} {k : Nat} {f : Env → List Word} {s : State} {r : AgentRef} (hr : s.cur = some r) :
    laneOp o lat k (fun e => .of (f e)) s = .next (completed s r o lat k fun e => .of (f e)) := by
  have hf : ∀ e ∈ (s.latch r o).envs r o, (LaneRes.of (f e)).trap = none ∧
      flagTrap (s.enables r.core (s.agentD r).lid) (LaneRes.of (f e)).flags = none := fun e _ => by simp [LaneRes.of]
  rw [laneOp_clean o lat k _ s r hr hf]
  simp [completed, cleanRegs, cleanWrites, List.flatMap_map]

theorem execYield_agent {o : Op} {s : State} {r : AgentRef} {a : Agent} (hr : s.cur = some r) (ha : s.agent? r = some a) :
    ∃ t, execYield o s = .next t ∧ t.mem = s.mem ∧ t.agent? r = some { a.issued s.cycles o.ctl .f4 [] [] [] with
      wait := if s.envs r o = [] then none else some (.yield (s.cycles + 16)) } := by
  refine ⟨_, agentOp_next _ s r hr, ?_⟩
  dsimp only
  split
  · next h =>
    rw [if_pos (List.isEmpty_iff.mp h)]
    exact ⟨rfl, by rw [State.agent?_updAgent, ha]; rfl⟩
  · next h =>
    rw [if_neg fun hn => h (List.isEmpty_iff.mpr hn)]
    refine ⟨rfl, ?_⟩
    rw [State.restFor, State.agent?_updAgent, State.agent?_updAgent, ha]
    rfl

theorem execSleepWake_agent {core ag target : Nat} {x : Tab Word} {s : State} {a : Agent} (ha : s.agent? ⟨core, ag⟩ = some a)
    (hw : a.wait = some (.sleep target x)) (ht : target ≤ s.cycles) (hf : (s.core core).frozen = false)
    (hp : s.phase ≤ s.issueRank ⟨core, ag⟩) :
    ∃ t, execSleepWake core ag s = .next t ∧ t.cur = some ⟨core, ag⟩
      ∧ t.agent? ⟨core, ag⟩ = some { a with wait := none, served := [(2 ^ 32, 1)] } := by
  have hg : target ≤ s.cycles ∧ (!(s.core core).frozen) = true := ⟨ht, by rw [hf]; rfl⟩
  refine ⟨_, rfl, ?_⟩
  dsimp only
  rw [ha]
  dsimp only
  rw [hw]
  dsimp only
  rw [if_pos hg, State.turn, if_neg (by omega)]
  refine ⟨rfl, ?_⟩
  have h := State.agent?_updAgent { s with phase := s.issueRank ⟨core, ag⟩ + 1 } ⟨core, ag⟩
    fun a => { a with wait := none, served := [(sleepMark, 1)] }
  exact h.trans (congrArg (Option.map _) ha)

/-! ### SLEEP by one active lane whose operands are those of this cycle -/

theorem mem_of_lone {s : State} {r : AgentRef} {o : Op} {e : Env} (h : Lone s r o e) : e ∈ (s.latch r o).envs r o := by
  rw [h.2]
  exact List.mem_singleton_self e

theorem now_of_lone {s : State} {r : AgentRef} {o : Op} {e : Env} (h : Lone s r o e) (ho : (s.agentD r).opnds = none) :
    e.now = s.count r.core := by
  have hm := mem_of_lone h
  simp only [State.envs, List.mem_map] at hm
  obtain ⟨x, -, rfl⟩ := hm
  simp [State.readTime, State.count, ho]

theorem agent_of_lone {s : State} {r : AgentRef} {o : Op} {e : Env} (h : Lone s r o e) : s.agent? r = some (s.agentD r) := by
  simpa using State.agent_of_envs (mem_of_lone h)

theorem execSleep_waits {o : Op} {s : State} {r : AgentRef} {e : Env} (h : Lone s r o e) (hs : (s.agentD r).served = [])
    (ho : (s.agentD r).opnds = none) (hlt : s.count r.core < (e.a64 o).toNat)
    (hle : (e.a64 o).toNat ≤ s.count r.core + 2 ^ 31) :
    execSleep o s = .next ((s.latch r o).waitFor r (.sleep (cyclesAt r.core (e.a64 o).toNat) [])) := by
  have hc : (s.latch r o).count r.core = s.count r.core := by simp [State.count]
  have hf : ¬ s.count r.core + 2147483648 < (e.a64 o).toNat := by omega
  obtain ⟨hcur, he⟩ := h
  unfold execSleep
  rw [hcur]
  simp [he, hs, hc, now_of_lone ⟨hcur, he⟩ ho, hf, hlt, Tab.get?]

theorem execSleep_completes {o : Op} {s : State} {r : AgentRef} {e : Env} (h : Lone s r o e) (hs : (s.agentD r).served = [])
    (ho : (s.agentD r).opnds = none) (hle : (e.a64 o).toNat ≤ s.count r.core)
    (hb : o.b = .zero ∨ s.ticketCause r.core (e.b32 o) = none) :
    ∃ t : State, execSleep o s = .next (t.commit r o .f4 0 [(e.n, .of [])]) ∧ t.mem = s.mem ∧ t.cycles = s.cycles
      ∧ t.agent? r = s.agent? r := by
  have hc : (s.latch r o).count r.core = s.count r.core := by simp [State.count]
  have hf : ¬ s.count r.core + 2147483648 < (e.a64 o).toNat := by omega
  have hlt : ¬ s.count r.core < (e.a64 o).toNat := by omega
  have ht : ∀ w, (s.latch r o).ticketCause r.core w = s.ticketCause r.core w := fun w => by
    simp [State.ticketCause, State.ticketState]
  have hnow := now_of_lone h ho
  obtain ⟨hcur, he⟩ := h
  unfold execSleep
  rw [hcur]
  by_cases hz : o.b = .zero
  · refine ⟨s.latch r o, ?_, by simp⟩
    simp [he, hs, hc, hnow, hf, hlt, hz, Tab.get?]
  · have hn : s.ticketCause r.core (e.b32 o) = none := hb.resolve_left hz
    refine ⟨(s.latch r o).acquireEpoch r.core (s.agentD r).lid e.tid 2, ?_, ?_, ?_, ?_⟩
    · simp [he, hs, hc, hnow, hf, hlt, hz, ht, hn, Tab.get?]
    · rw [acquireEpoch_keep State.mem (fun _ _ _ _ _ => rfl) (fun _ _ _ => rfl), State.latch_mem]
    · rw [acquireEpoch_keep State.cycles (fun _ _ _ _ _ => rfl) (fun _ _ _ => rfl), State.latch_cycles]
    · rw [acquireEpoch_keep (State.agent? · r) (fun _ _ _ _ _ => State.agent?_updThread ..) (fun _ _ _ => rfl),
        State.latch_agent?]

/-- The agent of an instruction that completes for one lane, without a trap or flags, has issued. -/
theorem commit_one_agentD {s : State} {r : AgentRef} {a : Agent} (ha : s.agent? r = some a) (o : Op) (lat : Latency)
    (k n : Nat) (vals : List Word) : (s.commit r o lat k [(n, .of vals)]).agentD r =
      a.issued s.cycles o.ctl lat (destRegs o.d k) (destWrites n o.d vals) [] := by
  rw [State.commit_one, State.agentD_updAgent _ _ _ ha]

theorem destWrites_nil (n : Nat) (d : Opnd) : destWrites n d [] = [] := by simp [destWrites]

/-! ### PROBE -/

theorem thread_updThread_self (s : State) (c lid tid : Nat) (f : Thread → Thread) :
    (s.updThread c lid tid f).thread c lid tid = f (s.thread c lid tid) := by
  simp [State.updThread, State.thread, Tab.getD_set]

theorem thread_updAgent (s : State) (r : AgentRef) (f : Agent → Agent) (c lid tid : Nat) :
    (s.updAgent r f).thread c lid tid = s.thread c lid tid := by simp [State.thread]

/-- What PROBE by one active lane does: its thread's probe flag is cleared, and is its result. -/
theorem execProbe_lone {o : Op} {s : State} {r : AgentRef} {e : Env} (h : Lone s r o e) :
    execProbe o s = .next ((s.updThread r.core (s.agentD r).lid e.tid fun t => { t with probe := false }).commit r o .f4 1
      [(e.n, .of [if (s.thread r.core (s.agentD r).lid e.tid).probe then 1 else 0])]) := by
  obtain ⟨-, hr, ha, -⟩ := State.mem_envs (mem_of_lone h)
  rw [State.latch_agentD] at ha
  unfold execProbe
  rw [h.1]
  dsimp only
  rw [envs_of_lone h]
  simp [LaneRes.bool, Env.thread, Env.tid, hr, ha]

/-- Settles O38: each clause is what the model's function does for the one agent, or the one active lane, it speaks of. -/
theorem waitsAndProbe : Obligations.WaitsAndProbe := by
  refine ⟨fun o s r _ hr => laneOp_completes hr, fun o s r a hr ha => execYield_agent hr ha,
    fun o s r e h hs ho => ⟨fun hle hb => ?_, fun hlt hle => ?_⟩,
    fun core ag target x s a ha hw ht hf hp => execSleepWake_agent ha hw ht hf hp, fun o s r e h => ?_⟩
  · obtain ⟨t, ht, hmem, hcycles, hagent⟩ := execSleep_completes h hs ho hle hb
    refine ⟨_, ht, ?_, ?_⟩
    · rw [State.commit_one, ← hmem]
      rfl
    · rw [commit_one_agentD (hagent.trans (agent_of_lone h)), hcycles, destWrites_nil]
  · refine ⟨_, execSleep_waits h hs ho hlt hle, State.latch_mem s r o, ?_⟩
    rw [State.waitFor, State.agentD_updAgent _ _ _ ((State.latch_agent? ..).trans (agent_of_lone h)), ho]
    simp [cyclesAt, State.count]
  · extract_lets tid flag
    have htid : e.tid = tid := by
      obtain ⟨-, -, ha, -⟩ := State.mem_envs (mem_of_lone h)
      rw [Env.tid, ha, State.latch_agentD]
    have hagent := agent_of_lone h
    refine ⟨_, execProbe_lone h, ?_, ?_, ?_⟩
    · rw [State.commit_one]
      rfl
    · rw [State.commit_one, htid, thread_updAgent, thread_updThread_self]
    · rw [commit_one_agentD ((State.agent?_updThread ..).trans hagent), htid]
      rfl

end Sys2Proof.Proofs
end

section
/-! PROOFS. Packed elements, and CVTB where nothing goes to an outlier list (R26, R59, R114, R115). -/

namespace Sys2Proof.Proofs

open Sys2Proof Sys2Proof.Machine Sys2Proof.Claims

/-! ### Packed elements (R26) -/

/-- The width of the field that an element has in a register: a 6-bit element stands in a byte. -/
def fieldBits (f : Nat) : Nat := if elemBits f = 6 then 8 else elemBits f

theorem elemOf_eq (f : Nat) (w : Word) (i : Nat) :
    elemOf f w i = w.toNat / 2 ^ (fieldBits f * i) % 2 ^ elemBits f := rfl

/-- The number whose fields of `slot` bits, the lowest first, hold the low b bits of some codes. -/
def packNat (b slot : Nat) (codes : List Nat) : Nat := codes.foldr (fun c acc => c % 2 ^ b + 2 ^ slot * acc) 0

theorem packElems_eq (f : Nat) (codes : List Nat) :
    packElems f codes = BitVec.ofNat 32 (packNat (elemBits f) (fieldBits f) codes) := rfl

/-- An element fits its field, and the fields of a register fit the register. -/
theorem fields_fit : ∀ f < 32, elemFmt f ≠ 16 → elemBits f ≤ fieldBits f ∧ fieldBits f * perReg f ≤ 32 := by decide

theorem packNat_cons_mod {b slot : Nat} (h : b ≤ slot) (c : Nat) (codes : List Nat) :
    packNat b slot (c :: codes) % 2 ^ b = c % 2 ^ b := by
  obtain ⟨d, rfl⟩ := Nat.exists_eq_add_of_le h
  rw [packNat, List.foldr_cons, Nat.pow_add, Nat.mul_assoc, Nat.add_mul_mod_self_left, Nat.mod_mod]

theorem packNat_cons_div {b slot : Nat} (h : b ≤ slot) (c : Nat) (codes : List Nat) :
    packNat b slot (c :: codes) / 2 ^ slot = packNat b slot codes := by
  have hlt : c % 2 ^ b < 2 ^ slot := Nat.lt_of_lt_of_le (Nat.mod_lt c (Nat.two_pow_pos b)) (Nat.pow_le_pow_right Nat.two_pos h)
  rw [packNat, List.foldr_cons, Nat.add_mul_div_left _ _ (Nat.two_pow_pos slot), Nat.div_eq_of_lt hlt, Nat.zero_add, packNat]

/-- Each code stands in its own field. -/
theorem packNat_field {b slot : Nat} (h : b ≤ slot) (codes : List Nat) (i : Nat) :
    packNat b slot codes / 2 ^ (slot * i) % 2 ^ b = codes.getD i 0 % 2 ^ b := by
  induction codes generalizing i with
  | nil => simp [packNat]
  | cons c codes ih =>
    cases i with
    | zero => simpa using packNat_cons_mod h c codes
    | succ i => rw [Nat.mul_succ, Nat.add_comm, Nat.pow_add, ← Nat.div_div_eq_div_mul, packNat_cons_div h, ih,
        List.getD_cons_succ]

/-- A field that lies in the low n bits reads the same of the low n bits alone. -/
theorem field_mod_two_pow {n k b : Nat} (h : k + b ≤ n) (x : Nat) : x % 2 ^ n / 2 ^ k % 2 ^ b = x / 2 ^ k % 2 ^ b := by
  obtain ⟨d, rfl⟩ := Nat.exists_eq_add_of_le h
  rw [Nat.add_assoc, Nat.pow_add, Nat.mod_mul_right_div_self, Nat.mod_mod_of_dvd _ (Nat.pow_dvd_pow 2 (by omega))]

theorem elemOf_packElems {f : Nat} {codes : List Nat} {i : Nat} (hf : f < 32) (htri : elemFmt f ≠ 16) (hi : i < perReg f) :
    elemOf f (packElems f codes) i = codes.getD i 0 % 2 ^ elemBits f := by
  obtain ⟨hfield, hreg⟩ := fields_fit f hf htri
  have hend : fieldBits f * i + elemBits f ≤ 32 :=
    calc fieldBits f * i + elemBits f ≤ fieldBits f * (i + 1) := by rw [Nat.mul_succ]; omega
      _ ≤ fieldBits f * perReg f := Nat.mul_le_mul_left _ hi
      _ ≤ 32 := hreg
  rw [elemOf_eq, packElems_eq, BitVec.toNat_ofNat, field_mod_two_pow hend, packNat_field hfield]

/-! ### Appends of blocks without outliers (R59, R115) -/

theorem foldl_unchanged {α σ : Type} (l : List α) (x : σ) : l.foldl (fun y _ => y) x = x :=
  foldl_keep id _ (fun _ _ => rfl) l x

theorem appendOutliers_of_no_outs {b : CvtBlock} (h : b.res.outs = []) (lists : Tab (List (Word × Word))) :
    appendOutliers lists b = ([], lists) := by
  simp [appendOutliers, h]

theorem appendAll_of_no_outs {bs : List CvtBlock} (h : ∀ b ∈ bs, b.res.outs = []) (lists : Tab (List (Word × Word))) :
    appendAll lists bs = (bs.map fun b => (b, []), lists) := by
  induction bs with
  | nil => rfl
  | cons b bs ih =>
    obtain ⟨hb, hbs⟩ := List.forall_mem_cons.mp h
    rw [appendAll, appendOutliers_of_no_outs hb]
    dsimp only
    rw [ih hbs, List.map_cons]

/-- A CVTB that asks for the scales, or whose blocks hold no outlier, has no place in excess and leaves the lists. -/
theorem appends_none {o : Op} {bs : List CvtBlock} (h : o.group = 1 ∨ ∀ b ∈ bs, b.res.outs = [])
    (lists : Tab (List (Word × Word))) :
    (if o.group = 1 then (bs.map fun b => (b, ([] : List Nat)), lists) else appendAll lists bs) =
      (bs.map fun b => (b, []), lists) := by
  split
  · rfl
  · next h1 => exact appendAll_of_no_outs (h.resolve_left h1) lists

theorem has_appends_eq_false {o : Op} {bs : List CvtBlock} (h : o.group = 1 ∨ ∀ b ∈ bs, b.res.outs = []) :
    (o.group != 1 && bs.any fun b => !b.res.outs.isEmpty) = false := by
  rw [Bool.and_eq_false_iff]
  exact h.imp (fun h1 => by simp [h1]) fun hb => List.any_eq_false.mpr fun b hm => by simp [hb b hm]

theorem excess_none (bs : List CvtBlock) :
    (bs.map fun b => (b, ([] : List Nat))).foldl (fun n x => n + x.2.length) 0 = 0 := by
  simp only [List.foldl_map, List.length_nil, Nat.add_zero, foldl_unchanged]

theorem excessCodes_nil (f : Nat) (b : CvtBlock) : excessCodes f b [] = b.res.codes := by
  simp only [excessCodes, List.contains_nil, Bool.false_and, Bool.false_eq_true, if_false]
  exact List.mapIdx_eq_iff.mpr fun _ => by simp

/-! ### Changes that keep the outlier lists -/

theorem updRes_outlier {s : State} {c lid : Nat} {f : Res → Res} (h : (f (s.res c lid)).outlier = (s.res c lid).outlier)
    (d m : Nat) : ((s.updRes c lid f).res d m).outlier = (s.res d m).outlier := by
  rw [State.res_updRes]
  split
  · next hdm => rw [h, hdm.1, hdm.2]
  · rfl

theorem raise_outlier (s : State) (c lid : Nat) (w : Word) (d m : Nat) :
    ((s.raise c lid w).res d m).outlier = (s.res d m).outlier := by
  unfold State.raise
  split
  · rfl
  · exact updRes_outlier rfl d m

/-- A launch's outlier lists on a core, put back as they are. -/
def putBackOutliers (s : State) (c lid : Nat) : State :=
  s.updRes c lid fun x => { x with outlier := (s.res c lid).outlier }

theorem putBackOutliers_outlier (s : State) (c lid d m : Nat) :
    ((putBackOutliers s c lid).res d m).outlier = (s.res d m).outlier := updRes_outlier rfl d m

theorem res_updAgent (s : State) (r : AgentRef) (f : Agent → Agent) (c lid : Nat) :
    (s.updAgent r f).res c lid = s.res c lid := by
  simp [State.res]

/-! ### CVTB (R114, R115) -/

/-- What the active members of some blocks are given: to each lane its word of its block. -/
def cvtbWords (o : Op) (bs : List CvtBlock) : List (Nat × Word) :=
  bs.flatMap fun b => b.mem.map fun m => (m.2.n, cvtResult o b b.res.codes m.1)

theorem cvtbWords_ne_nil {o : Op} {bs : List CvtBlock} (h : ∃ b ∈ bs, b.mem ≠ []) : cvtbWords o bs ≠ [] := by
  obtain ⟨b, hb, hmem⟩ := h
  intro hnil
  exact hmem (List.map_eq_nil_iff.mp (List.flatMap_eq_nil_iff.mp hnil b hb))

/-- Where no place is in excess, the results that a CVTB commits are those words. -/
theorem memberWords_eq (o : Op) (bs : List CvtBlock) :
    ((bs.map fun b => (b, ([] : List Nat))).flatMap fun x => x.1.mem.map fun e =>
        (e.2.n, LaneRes.word (cvtResult o x.1 (excessCodes o.fmt.toNat x.1 x.2) e.1))) =
      (cvtbWords o bs).map fun x => (x.1, .word x.2) := by
  simp only [cvtbWords, excessCodes_nil, List.map_flatMap, List.flatMap_map, List.map_map, Function.comp_def]

theorem destWrites_cvtbWords (o : Op) (bs : List CvtBlock) :
    ((cvtbWords o bs).flatMap fun x => destWrites x.1 o.d [x.2]) =
      bs.flatMap fun b => b.mem.flatMap fun m => destWrites m.2.n o.d [cvtResult o b b.res.codes m.1] := by
  simp only [cvtbWords, List.flatMap_assoc, List.flatMap_map]

/-- Committing one word for each of some lanes raises no flag and takes no trap: the agent has issued. -/
theorem commit_words {ws : List (Nat × Word)} (hne : ws ≠ []) (s : State) (r : AgentRef) (o : Op) (lat : Latency) (k : Nat) :
    s.commit r o lat k (ws.map fun x => (x.1, .word x.2)) = s.updAgent r fun a =>
      a.issued s.cycles o.ctl lat (destRegs o.d k) (ws.flatMap fun x => destWrites x.1 o.d [x.2]) [] := by
  have hextra : (ws.flatMap fun _ => ([] : List Reg)) = [] := List.flatMap_eq_nil_iff.mpr fun _ _ => rfl
  rw [State.commit_clean]
  · simp only [LaneRes.word, LaneRes.of, List.foldl_map, BitVec.ofNat_eq_ofNat, BitVec.or_zero, foldl_unchanged,
      State.raise_zero, cleanRegs, List.isEmpty_map, List.isEmpty_eq_false_iff.mpr hne, Bool.false_eq_true, if_false,
      List.flatMap_map, List.map_nil, hextra, List.append_nil, cleanWrites]
  · intro x hx
    obtain ⟨y, -, rfl⟩ := List.mem_map.mp hx
    simp [LaneRes.word, LaneRes.of]

/-- The default agent is in no team block, so an agent in one is there. -/
theorem agent?_of_team {s : State} {r : AgentRef} (h : (s.agentD r).team = true) : s.agent? r = some (s.agentD r) := by
  unfold State.agentD Tab.getD at *
  unfold State.agent?
  cases hg : Tab.get? (s.core r.core).agents r.id with
  | some a => rfl
  | none =>
    rw [hg] at h
    exact absurd h (by decide)

/-- A CVTB in a team block with nothing to append (R115) neither waits for the matrix queue nor traps: it commits each active
member's word, in a state whose memory, launches and outlier lists are its own. -/
theorem execCvtb_of_no_appends {o : Op} {s : State} {r : AgentRef} (hr : s.cur = some r) (hteam : (s.agentD r).team = true)
    (h : o.group = 1 ∨ ∀ b ∈ cvtBlocks o ((s.latch r o).envs r o), b.res.outs = []) :
    ∃ t : State, execCvtb o s = .next (t.commit r o .v 1
        ((cvtbWords o (cvtBlocks o ((s.latch r o).envs r o))).map fun x => (x.1, .word x.2)))
      ∧ t.mem = s.mem ∧ t.launches = s.launches ∧ t.cycles = s.cycles ∧ t.agent? r = s.agent? r
      ∧ ∀ lid, (t.res r.core lid).outlier = (s.res r.core lid).outlier := by
  refine ⟨(putBackOutliers (s.latch r o) r.core (s.agentD r).lid).raise r.core (s.agentD r).lid
    (if o.group = 1 then 0 else (cvtBlocks o ((s.latch r o).envs r o)).foldl (fun w b => w ||| b.res.flags) 0), ?_, ?_⟩
  · unfold execCvtb
    rw [agentOp_next _ s r hr]
    simp only [has_appends_eq_false h, appends_none h, State.latch_agentD, hteam]
    simp only [Bool.not_true, Bool.false_and, Bool.false_eq_true, if_false, excess_none, if_true, ne_eq, not_true_eq_false,
      false_and, memberWords_eq, putBackOutliers]
    by_cases hg : o.group = 1
    · simp only [hg, if_true, BitVec.ofNat_eq_ofNat, State.raise_zero]
    · simp only [hg, if_false]
  · simp only [raise_outlier, putBackOutliers_outlier, State.latch_res]
    simp only [putBackOutliers, State.raise_mem, State.updRes_mem, State.latch_mem, State.raise_launches,
      State.updRes_launches, State.latch_launches, State.raise_cycles, State.updRes_cycles, State.latch_cycles,
      State.raise_agent?, State.agent?_updRes, State.latch_agent?, implies_true, and_self]

/-- Settles O20: the fields of a register are digits of its value, which a division and a remainder read; and a CVTB with
nothing to append is the commit of its members' words. -/
theorem packedElementsAndQuantising : Obligations.PackedElementsAndQuantising := by
  refine ⟨fun f codes i hf htri hlen hi => elemOf_packElems hf htri (hlen ▸ hi), fun o s r hr hteam hmem hout => ?_⟩
  obtain ⟨t, ht, htmem, hlaunches, hcycles, hagent, houtlier⟩ := execCvtb_of_no_appends hr hteam hout
  refine ⟨_, ht, ?_, ?_, ?_, fun lid => ?_⟩ <;> rw [commit_words (cvtbWords_ne_nil hmem)]
  · rw [State.agentD_updAgent _ _ _ (hagent.trans (agent?_of_team hteam)), hcycles, destWrites_cvtbWords]
  · rw [State.updAgent_mem, htmem]
  · rw [State.updAgent_launches, hlaunches]
  · rw [res_updAgent, houtlier]

end Sys2Proof.Proofs
end
